-- ==== Sys2Proof/Word.lean ====
section
/-! DEFINITION. The octet, the 16-bit value, and the plain data types that the commands and the state share:
characters and frames (R1, R179), ports, tables and cursors (R157, R158), condition kinds (R142), dates (R65). -/

namespace Sys2Proof

/-- One octet of a frame, a payload or an image record. -/
abbrev Byte := BitVec 8

/-- One 16-bit value: what a field of a service table is carried as (R181), and a CHECK (R179). -/
abbrev Half := BitVec 16

/-- The 16-octet placement tag of a node, held as the eight 16-bit fields of R159, first octet in the high half
of the first. -/
abbrev PlacementTag := Vector Half 8

/-- The 12-octet catalogue tag of an object, held as the six 16-bit fields of R159. -/
abbrev CatalogueTag := Vector Half 6

/-- The two ports (00_scope, Block overview). -/
inductive PortId where
  | gallery
  | plant
  deriving DecidableEq, Repr

/-- One received character (R1): its data octet, its marker bit, and whether its stop bit is good (1). -/
structure Character where
  octet : Byte
  marker : Bool
  stopGood : Bool
  deriving DecidableEq, Repr

/-- What a port's receiver meets on its line (R3, R4): the start bit of a character, which stops the gap timer, or the
end of the whole character. -/
inductive Reception where
  | startBit
  | ended (char : Character)
  deriving DecidableEq, Repr

/-- A whole frame, header to CHECK (R179). LEN is the length of the payload. -/
structure Frame where
  dest : Byte
  src : Byte
  kind : Byte
  seq : Byte
  payload : List Byte
  check : Half
  deriving DecidableEq, Repr

/-- Who sent a SERVICE request, and the SEQ of the request, which the reply carries back (R156). -/
structure Requester where
  src : Byte
  seq : Byte
  deriving DecidableEq, Repr

/-- The eight service tables, numbers 0 to 7 (09, table of tables). -/
inductive TableId where
  | device
  | node
  | point
  | object
  | group
  | zone
  | condition
  | counter
  deriving DecidableEq, Repr

/-- The step part of an element (R157): `stay` is the manual's NONE. -/
inductive StepMode where
  | stay
  | field
  | entry
  deriving DecidableEq, Repr

/-- A cursor part as an element carries it: a 16-bit entry and an 8-bit field (R157, R158). -/
structure Cursor where
  entry : Half
  field : Byte
  deriving DecidableEq, Repr

/-- The 19 condition kinds, in the order of their codes 1 to 19 (08, Kinds of condition). -/
inductive ConditionKind where
  | nodeSilent
  | nodeDisplaced
  | pointFault
  | doseExhausted
  | paceShort
  | sourceDegraded
  | overCeiling
  | doseUnknown
  | groupBlind
  | actuatorSilent
  | levelMismatch
  | rhExcursion
  | tExcursion
  | rhDrift
  | zoneBlind
  | linkDegraded
  | mgmtLost
  | clockUnset
  | imageFault
  deriving DecidableEq, Repr

/-- A date of the Calendar: a year, and a day of that year from 1 (R65). -/
structure Date where
  year : Nat
  day : Nat
  deriving DecidableEq, Repr

/-- The inputs a reset reads: the two address straps (R175), and whether the image store answers on the SPI master
(R173). -/
structure Pins where
  addrSel0 : Bool
  addrSel1 : Bool
  storeAnswers : Bool
  deriving DecidableEq, Repr

/-- The zone fields that a ZONE_MODE_WRITE may name (R100, R101). -/
inductive ZoneModeField where
  | openFrom
  | openTo
  | modeSource
  | forcedMode
  deriving DecidableEq, Repr

/-- The band limits and hystereses of a zone (R127). -/
inductive BandField where
  | rhLo
  | rhHi
  | rhHysteresis
  | tLo
  | tHi
  | tHysteresis
  deriving DecidableEq, Repr

/-- The two air handler fields of a zone (R126). -/
inductive AirHandlerField where
  | address
  | channel
  deriving DecidableEq, Repr

/-- The terms of an object whose write recomputes the ceiling (R78). The budget is 32 bits wide (R159). -/
inductive CeilingTerm where
  | budget (value : BitVec 32)
  | cmax (value : Half)
  | cfloor (value : Half)
  deriving DecidableEq, Repr

/-- The open-time fields of an object, each 32 bits wide (R79, R159). -/
inductive OpenMinutesTerm where
  | remaining (value : BitVec 32)
  | planned (value : BitVec 32)
  deriving DecidableEq, Repr

/-- The group fields whose stored write on an enabled group requests an evaluation (R99). -/
inductive GroupLimitField where
  | lo
  | hi
  | cleaning
  deriving DecidableEq, Repr

end Sys2Proof
end

