-- ==== Sys2Proof/Syntax.lean ====
section
/-! DEFINITION. The commands of the block: one constructor per row of spec/opcode_table.json, in the table's order.
A command is an event taken at a block of the part (00_scope, "Time and events"), with the data the event carries.

The rows that are elements of a SERVICE request, or writes of one field, are each the request that carries exactly
that element (log entry 3): they name the requester, whose address the reply goes to. A request of several elements
is a `plantFrame` of kind SERVICE. -/

namespace Sys2Proof

inductive Instr where
  /-- RESET (R173): power-on, or the RESET pin; `pins` are the levels the reset reads. -/
  | reset (pins : Pins)
  /-- RECEIVE_CHARACTER (R3, R4): a port's receiver meets the start bit of a character, or has received it in full. -/
  | receiveCharacter (port : PortId) (reception : Reception)
  /-- GAP_TIMER_EXPIRY (R4). -/
  | gapTimerExpiry (port : PortId)
  /-- GALLERY_FRAME (R34): a frame that passed R6 reaches the scheduler. -/
  | galleryFrame (frame : Frame)
  /-- PLANT_FRAME (R13): a frame that passed R6 is dispatched; `own` is the own address as it stood when the frame's
  assembly completed, which R13 compares with the destination. -/
  | plantFrame (frame : Frame) (own : Byte)
  /-- PRESENCE (R168): a PRESENCE frame dispatched to the Supervision Timer. -/
  | presence (frame : Frame)
  /-- CLOCK (R69): a CLOCK frame dispatched to the Calendar; one sent to broadcast is also offered to P2G (R13). -/
  | clock (frame : Frame)
  /-- READ (R160). -/
  | read (rq : Requester) (table : TableId) (cursor : Option Cursor) (mode : StepMode) (count : Nat)
  /-- RAISED_SINCE_READ (R151): a READ of that latch. -/
  | raisedSinceRead (rq : Requester)
  /-- CLEAR_SINCE_READ (R152): a READ of that latch. -/
  | clearSinceRead (rq : Requester)
  /-- OVERFLOW (R153): a READ of that latch. -/
  | overflow (rq : Requester)
  /-- WRITE (R161); the count is the number of values. -/
  | write (rq : Requester) (table : TableId) (cursor : Option Cursor) (mode : StepMode) (values : List Half)
  /-- ENABLE_WRITE (R162): a write of field 0 of an entry of tables 1 to 5. -/
  | enableWrite (rq : Requester) (table : TableId) (entry : Half) (value : Half)
  /-- PORT_ENABLE_WRITE (R18). -/
  | portEnableWrite (rq : Requester) (port : PortId) (value : Half)
  /-- RATE_WRITE (R21). -/
  | rateWrite (rq : Requester) (port : PortId) (value : Half)
  /-- OWN_ADDRESS_WRITE (R163). -/
  | ownAddressWrite (rq : Requester) (value : Half)
  /-- SUPERVISION_WINDOW_WRITE (R171). -/
  | supervisionWindowWrite (rq : Requester) (value : Half)
  /-- MASK_WRITE (R148). -/
  | maskWrite (rq : Requester) (kind : ConditionKind) (value : Half)
  /-- SHADE_GROUP_WRITE (R100). -/
  | shadeGroupWrite (rq : Requester) (zone : Half) (value : Half)
  /-- ZONE_MODE_WRITE (R101). -/
  | zoneModeWrite (rq : Requester) (zone : Half) (field : ZoneModeField) (value : Half)
  /-- TAG_CHECK_WRITE (R52). -/
  | tagCheckWrite (rq : Requester) (node : Half) (value : Half)
  /-- BAND_WRITE (R127). -/
  | bandWrite (rq : Requester) (zone : Half) (field : BandField) (value : Half)
  /-- AIR_HANDLER_WRITE (R126). -/
  | airHandlerWrite (rq : Requester) (zone : Half) (field : AirHandlerField) (value : Half)
  /-- CEILING_TERMS_WRITE (R78). -/
  | ceilingTermsWrite (rq : Requester) (object : Half) (term : CeilingTerm)
  /-- OPEN_MINUTES_WRITE (R79). -/
  | openMinutesWrite (rq : Requester) (object : Half) (term : OpenMinutesTerm)
  /-- GROUP_LIMIT_WRITE (R99). -/
  | groupLimitWrite (rq : Requester) (group : Half) (field : GroupLimitField) (value : Half)
  /-- SAVE (R166). -/
  | save (rq : Requester)
  /-- RESTART (R167). -/
  | restart (rq : Requester)
  /-- DOSE_SET (R95). -/
  | doseSet (rq : Requester) (object : Half) (tag : CatalogueTag) (dose : BitVec 32)
  /-- REHUNT (R53). -/
  | rehunt (rq : Requester) (node : Half)
  /-- CAP_CLEAR (R122). -/
  | capClear (rq : Requester) (group : Half)
  /-- CLEAR_LATCHED (R146). -/
  | clearLatched (rq : Requester)
  /-- RESTART_SAVE_START (R167): the RESTART's reply has been sent, discarded or removed. -/
  | restartSaveStart
  /-- PLANT_TRANSMIT_COMPLETE (R17). -/
  | plantTransmitComplete
  /-- GALLERY_TRANSMIT_COMPLETE (R8). -/
  | galleryTransmitComplete
  /-- REPLY_WINDOW_EXPIRY (R37). -/
  | replyWindowExpiry
  /-- TURNAROUND_END (R23). -/
  | turnaroundEnd
  /-- POLL_DUE (R25). -/
  | pollDue
  /-- SETTLE_EXPIRY (R115) of one group's settle timer. -/
  | settleExpiry (group : Nat)
  /-- SUPERVISION_EXPIRY (R169). -/
  | supervisionExpiry
  /-- POINT_AGE_SECOND (R57): one second of the running time. -/
  | pointAgeSecond
  /-- MINUTE_TICK (R64). `monitorFirst` says whether the Acquisition Monitor's judgement of the points at this tick
  comes before the work of the blocks that read them: R55 lets either be taken first. -/
  | minuteTick (monitorFirst : Bool)
  /-- HOUR_ROLL (R66, R67, R71). -/
  | hourRoll
  /-- DAY_ROLL (R66, R71) with the date it carries. -/
  | dayRoll (date : Date)
  /-- PAGE_COMPLETE (R178). -/
  | pageComplete
  /-- PAGE_WRITE_TIMEOUT (R178). -/
  | pageWriteTimeout
  /-- LOAD_END (R173). -/
  | loadEnd
  deriving DecidableEq, Repr

end Sys2Proof
end

