-- ==== Sys2Proof/Config.lean ====
section
/-! DEFINITION. What the manual leaves open: free values, each an opaque constant that nothing can evaluate. A claim
about the model holds whatever they are. -/

namespace Sys2Proof

/-- How long the start-up load takes, in the model's time units of 1/576,000 s. R173 says only that the load reads the
whole store within one second (log entry 5). -/
opaque Config.loadUnits : Fin 576001

/-- What an octet of a page holds when a reset, or a write failure, found the page given and not yet complete: R178
says the record "may be torn". The argument is the counter `State.freeCount` (log entry 6). -/
opaque Config.tornByte : Nat → Byte

/-- Whether, at a minute tick that the passing of time issues, the Acquisition Monitor's judgement is taken before the
blocks that read points (R55: "either may be taken first"). The argument is `State.freeCount` (log entry 4). -/
opaque Config.monitorFirst : Nat → Bool

/-- The levels of the two straps, and whether the image store answers, at a reset that ends a RESTART. R173 and R175 read
them at each reset, and no event of the manual says that they change. The argument is `State.freeCount` (log entry
9). -/
opaque Config.pinLevels : Nat → Bool × Bool × Bool

end Sys2Proof
end

