-- ==== Sys2Proof/Machine/Records.lean ====
section
/-! DEFINITION. The records that the state is made of: the entries of the service tables, the frames that wait and
fly, the transaction on the gallery line, the save in flight. Plain data only. -/

namespace Sys2Proof.Machine

/-! ### The DEVICE settings -/

/-- A port's two rates: the gallery's 19,200 and 38,400 bit/s, the plant's 57,600 and 115,200 bit/s (R1, R21). -/
inductive Rate where
  | slow
  | fast
  deriving DecidableEq, Repr

/-- What the part does more when the supervision window runs out (R169). -/
inductive SupervisionAction where
  | hold
  | revert
  deriving DecidableEq, Repr

/-- The writable fields of DEVICE entry 0 (R163). -/
structure Device where
  ownAddress : Nat
  mgmtAddress : Nat
  galleryRate : Rate
  plantRate : Rate
  galleryEnable : Bool
  plantEnable : Bool
  replyWindow : Nat
  silenceThreshold : Nat
  supervisionWindow : Nat
  supervisionAction : SupervisionAction
  masks : Vector Bool 19
  deriving DecidableEq, Repr

/-- The Calendar (R64, R65, R67). The local count keeps its last value while SET; `phase` is how much of the second in
progress has passed, in time units. -/
structure Calendar where
  isSet : Bool
  year : Nat
  day : Nat
  minute : Nat
  localDay : Nat
  localMinute : Nat
  seconds : Nat
  phase : Nat
  deriving DecidableEq, Repr

/-! ### The tables -/

inductive Role where
  | sensor
  | actuator
  deriving DecidableEq, Repr

/-- The acquisition states of a node (03, Acquisition states). -/
inductive NodeState where
  | absent
  | hunting
  | tagcheck
  | online
  | silent
  | displaced
  deriving DecidableEq, Repr

/-- One entry of the Node Table (03, The node record). -/
structure Node where
  enable : Bool
  address : Nat
  role : Role
  pollPeriod : Nat
  tagCheck : Bool
  expectedTag : PlacementTag
  state : NodeState
  lastSeq : Byte
  runLength : Nat
  misses : Nat
  lostReplies : Nat
  duplicates : Nat
  receivedTag : PlacementTag
  recheckDue : Bool
  deriving DecidableEq, Repr

/-- The four quantities (11, SAMPLE readings). -/
inductive Quantity where
  | illum
  | uvr
  | temp
  | rh
  deriving DecidableEq, Repr

/-- The quality of a reading (11, SAMPLE readings). -/
inductive Quality where
  | good
  | over
  | under
  | fault
  deriving DecidableEq, Repr

inductive PointState where
  | lost
  | fresh
  | stale
  | faulted
  | held
  deriving DecidableEq, Repr

/-- One entry of the Point Table (03, The point record). `pending` is the reading held by spike hold, `accepted` and
`fault` the two markers. Values are integers, since a TEMP is signed. -/
structure Point where
  enable : Bool
  node : Nat
  channel : Nat
  quantity : Quantity
  zone : Nat
  forward : Bool
  value : Int
  state : PointState
  age : Nat
  pending : Option Int
  clamps : Nat
  accepted : Bool
  fault : Bool
  deriving DecidableEq, Repr

/-- One entry of the Object Table (05, The object record), with the over-ceiling marker. -/
structure Obj where
  enable : Bool
  tag : CatalogueTag
  zone : Nat
  lightPoint : Nat
  uvPoint : Option Nat
  lampGroup : Option Nat
  budget : Nat
  cmax : Nat
  cfloor : Nat
  assumed : Nat
  uvLimit : Nat
  uvSlope : Nat
  startDay : Nat
  planned : Nat
  overThreshold : Nat
  remaining : Nat
  dose : Nat
  fraction : Nat
  thisHour : Nat
  lastHour : Nat
  today : Nat
  yesterday : Nat
  previousYear : Nat
  peak : Nat
  overMinutes : Nat
  ceiling : Nat
  weight : Nat
  exhausted : Bool
  paceShort : Bool
  degraded : Bool
  unknown : Bool
  lastRoll : Nat
  overMarker : Bool
  deriving DecidableEq, Repr

inductive GroupKind where
  | lamp
  | shade
  deriving DecidableEq, Repr

/-- The command phase of a group (06, The life of an own command). SETTLING carries the instant, in time units, at
which its settle timer expires (R115). -/
inductive CommandPhase where
  | idle
  | queued
  | sent
  | settling (ends : Nat)
  deriving DecidableEq, Repr

/-- One entry of the Group Table (06, The group record). -/
structure Group where
  enable : Bool
  kind : GroupKind
  zone : Nat
  node : Nat
  channel : Nat
  lo : Nat
  hi : Nat
  step : Nat
  hold : Nat
  settle : Nat
  cleaning : Nat
  level : Nat
  applied : Option Nat
  cap : Option Nat
  phase : CommandPhase
  misses : Nat
  ratio : Nat
  resend : Bool
  unavailable : Bool
  blind : Bool
  mismatch : Bool
  deriving DecidableEq, Repr

inductive ModeSource where
  | auto
  | forced
  deriving DecidableEq, Repr

/-- Zone modes (R101); the manual's CLOSED is `closed`, and so on. -/
inductive Mode where
  | opened
  | closed
  | dark
  deriving DecidableEq, Repr

/-- The states of a band machine (R133 to R136). -/
inductive BandState where
  | inBand
  | pendingHigh
  | pendingLow
  | high
  | low
  | returningHigh
  | returningLow
  deriving DecidableEq, Repr

/-- What a zone holds for one of its two quantities, RH or TEMP (07, The zone record): the band, the spike limit, the
target and glide, the value, the band machine, and the setpoint. -/
structure Climate where
  lo : Int
  hi : Int
  hysteresis : Int
  spike : Int
  target : Int
  glide : Int
  value : Option Int
  band : BandState
  timer : Nat
  setpoint : Int
  deriving DecidableEq, Repr

/-- One entry of the Zone Table: its light fields (06) and its climate fields (07). The ring is oldest first, and a
held entry is an hour mean or absent. -/
structure Zone where
  enable : Bool
  shade : Option Nat
  openFrom : Nat
  openTo : Nat
  modeSource : ModeSource
  forcedMode : Mode
  mode : Mode
  evalPending : Bool
  rh : Climate
  temp : Climate
  persistence : Nat
  driftLimit : Int
  airAddress : Nat
  airChannel : Nat
  hourSum : Nat
  hourCount : Nat
  ring : List (Option Int)
  span : Int
  blind : Bool
  drift : Bool
  deriving DecidableEq, Repr

/-! ### The Condition Unit -/

inductive ConditionState where
  | active
  | latched
  deriving DecidableEq, Repr

/-- One entry of the Condition Table (08). -/
structure Condition where
  kind : ConditionKind
  subject : Nat
  state : ConditionState
  day : Nat
  minute : Nat
  detail : Nat
  deriving DecidableEq, Repr

/-- The three summary latches (R151 to R153). -/
structure Latches where
  raised : Bool
  clear : Bool
  overflow : Bool
  deriving DecidableEq, Repr

/-- The per-port degraded flags (R155). -/
structure Degraded where
  gallery : Bool
  plant : Bool
  deriving DecidableEq, Repr

/-- One entry of the Counter Table (R154). -/
structure Counter where
  current : Nat
  last : Nat
  total : Nat
  threshold : Nat
  deriving DecidableEq, Repr

/-- The 17 counters, in index order 0 to 16 (08, The Counter Table). -/
inductive CounterId where
  | galleryGood
  | galleryCheckErrors
  | galleryCharErrors
  | galleryStrays
  | galleryMisses
  | galleryLatePolls
  | p2gDrops
  | quarantined
  | plantGood
  | plantCheckErrors
  | plantCharErrors
  | g2pDrops
  | plantOriginDrops
  | clampedCommands
  | droppedCommands
  | serviceFormatErrors
  | clockBad
  deriving DecidableEq, Repr

/-! ### Ports, queues and transmitters -/

/-- A port's frame assembler (R3, R4): in COLLECT it holds the octets taken, destination first, and its gap timer: the
instant at which the last character ended, or none while the next character is being received. -/
inductive Assembler where
  | hunt
  | collect (octets : List Byte) (gap : Option Nat)
  deriving DecidableEq, Repr

/-- What a frame of the plant origin queue is (R14, R16): a TRIM keeps the zone that produced it, and a SERVICE REPLY
keeps whether it answers an accepted RESTART (R167). -/
inductive OriginTag where
  | trim (zone : Nat)
  | condition
  | reply (ofRestart : Bool)
  deriving DecidableEq, Repr

/-- A frame of the part's own that waits for the plant transmitter. Its SRC, SEQ and CHECK are given at the take
(R2, R17). -/
structure OriginFrame where
  dest : Byte
  kind : Byte
  payload : List Byte
  tag : OriginTag
  deriving DecidableEq, Repr

/-- The two queues the plant transmit arbiter takes from (R17). -/
inductive PlantQueue where
  | g2p
  | origin
  deriving DecidableEq, Repr

/-- The frame in flight on the plant link (R17): where it was taken from, and when its last character ends. -/
structure PlantTx where
  frame : Frame
  source : PlantQueue
  ofRestart : Bool
  ends : Nat
  deriving DecidableEq, Repr

/-- The classes of the grant cycle (R24). -/
inductive GrantClass where
  | command
  | forward
  | poll
  deriving DecidableEq, Repr

/-- Kind and subject of a transaction (R22). A COMMAND keeps its actuator node too, since its
outcome concerns that node (R34, R37). -/
inductive TransactionKind where
  | poll (node : Nat)
  | command (group node : Nat)
  | forward
  deriving DecidableEq, Repr

/-- SENDING or WINDOW (R22), each with the instant at which it ends. -/
inductive TransactionPhase where
  | sending (ends : Nat)
  | window (ends : Nat)
  deriving DecidableEq, Repr

/-- The transaction record (R22), with the frame sent. `awaited` is none for a broadcast FORWARD; `accepts` is none
where any kind of reply is accepted. `answers` are the good frames from the awaited address that have completed in the
window and have not been taken yet (R34, R35; log entry 2). -/
structure Transaction where
  kind : TransactionKind
  frame : Frame
  awaited : Option Byte
  accepts : Option Byte
  phase : TransactionPhase
  answers : List Frame
  deriving DecidableEq, Repr

/-- The five states of the gallery line (R23): `busy` is SENDING or WINDOW, by the phase of its transaction. -/
inductive Line where
  | off
  | free
  | turnaround (ends : Nat)
  | busy (t : Transaction)
  deriving DecidableEq, Repr

/-- A node of the poll due list with its due time on the running time, in milliseconds (R31). -/
structure PollEntry where
  node : Nat
  due : Nat
  deriving DecidableEq, Repr

/-! ### Service Unit, Supervision Timer, Image Store Interface -/

/-- A cursor position (R158): any value of either part is held. -/
structure Position where
  entry : Nat
  field : Nat
  deriving DecidableEq, Repr

inductive ProcedureState where
  | idle
  | running
  | done
  | failed
  deriving DecidableEq, Repr

/-- How far a RESTART has come (R167): none is RUNNING; its reply is not yet gone; the reply has been sent, discarded
or removed; its dose save has been asked for. -/
inductive RestartPhase where
  | notRunning
  | awaitingReply
  | replyGone
  | saveAsked
  deriving DecidableEq, Repr

structure Procedure where
  state : ProcedureState
  result : Nat
  restart : RestartPhase
  deriving DecidableEq, Repr

/-- The Supervision Timer (R168): the instant at which the window runs out, or none when it is stopped. -/
structure Supervision where
  attended : Bool
  timer : Option Nat
  deriving DecidableEq, Repr

/-- A record of the image (R182): which of its section. -/
inductive RecordId where
  | header
  | settings
  | node (i : Nat)
  | point (i : Nat)
  | object (i : Nat)
  | group (i : Nat)
  | zone (i : Nat)
  | dose (i : Nat)
  | setpoint (i : Nat)
  | stamp
  deriving DecidableEq, Repr

inductive SaveKind where
  | hourly
  | full
  deriving DecidableEq, Repr

/-- The save in flight (R176, R178): its kind, the position of the record being written, the copy of that record with
its CRC, how many of its octets are in earlier pages, the Calendar's date when the save began (none while UNSET),
whether it is a RESTART's, and the instant at which the 20 ms of the page in flight have passed. -/
structure Save where
  kind : SaveKind
  position : RecordId
  octets : List Byte
  written : Nat
  date : Option Date
  ofRestart : Bool
  deadline : Nat
  deriving DecidableEq, Repr

end Sys2Proof.Machine
end

