-- ==== Sys2Proof/Machine/Formats.lean ====
section
/-! DEFINITION. The octets of frames: the CHECK (R179), the kind codes and payload layouts (11), and the payload test of
R7. -/

namespace Sys2Proof.Machine

/-! ### Octets and 16-bit values, most significant octet first (R179) -/

def halfOf (hi lo : Byte) : Half := hi ++ lo

def octetsOf (h : Half) : List Byte := [h.extractLsb' 8 8, h.extractLsb' 0 8]

def octetsOfAll (hs : List Half) : List Byte := hs.flatMap octetsOf

/-- The 16-bit values that an even run of octets holds; a last odd octet is dropped. -/
def halvesOf : List Byte → List Half
  | hi :: lo :: rest => halfOf hi lo :: halvesOf rest
  | _ => []

def halfOfNat (n : Nat) : Half := BitVec.ofNat 16 n

def halfOfInt (i : Int) : Half := BitVec.ofInt 16 i

def byteOfNat (n : Nat) : Byte := BitVec.ofNat 8 n

/-! ### The CHECK (R179) -/

/-- One bit of the CRC register for x^16 + x^12 + x^5 + 1. -/
def crcShift (r : Half) : Half := if r.msb then (r <<< 1) ^^^ 0x1021#16 else r <<< 1

/-- One octet enters the register, most significant bit first. -/
def crcOctet (r : Half) (b : Byte) : Half :=
  (List.range 8).foldl (fun x _ => crcShift x) (r ^^^ (b ++ 0#8))

/-- R179: the register starts at all ones and is not inverted at the end. -/
def crc16 (octets : List Byte) : Half := octets.foldl crcOctet 0xFFFF#16

/-- The octets a CHECK covers: the destination through the last payload octet. -/
def coveredOctets (dest src kind seq : Byte) (payload : List Byte) : List Byte :=
  dest :: src :: kind :: seq :: byteOfNat payload.length :: payload

/-- A frame with the CHECK of its own octets (R2). -/
def buildFrame (dest src kind seq : Byte) (payload : List Byte) : Frame :=
  ⟨dest, src, kind, seq, payload, crc16 (coveredOctets dest src kind seq payload)⟩

/-- R6, step 1. -/
def checkMatches (f : Frame) : Bool :=
  f.check == crc16 (coveredOctets f.dest f.src f.kind f.seq f.payload)

/-- Characters of a frame: 7 of header and CHECK, and the payload (01, Frames). -/
def frameChars (payload : List Byte) : Nat := 7 + payload.length

/-- The octets of a frame as they follow one another on the line (R179). -/
def frameOctets (f : Frame) : List Byte := coveredOctets f.dest f.src f.kind f.seq f.payload ++ octetsOf f.check

/-- R1: the characters that the part sends for the octets of a frame: marker 1 on the first and 0 on every other. -/
def charactersOf : List Byte → List Character
  | [] => []
  | first :: rest => ⟨first, true, true⟩ :: rest.map fun b => ⟨b, false, true⟩

/-- R1: the 11 bits of a character in the order sent: start bit, data bits from the least significant, marker bit, stop
bit. -/
def characterBits (c : Character) : List Bool :=
  false :: ((List.range 8).map fun i => c.octet.getLsbD i) ++ [c.marker, c.stopGood]

/-! ### Kind codes (11, Frame kinds and payloads) -/

def kindPoll : Byte := 0x20
def kindSample : Byte := 0x21
def kindTag : Byte := 0x22
def kindEcho : Byte := 0x23
def kindLevel : Byte := 0x30
def kindTrim : Byte := 0x31
def kindClock : Byte := 0x40
def kindPresence : Byte := 0x41
def kindService : Byte := 0x50
def kindServiceReply : Byte := 0x51
def kindCondition : Byte := 0x52

/-- The broadcast address (00, Addressing). -/
def broadcast : Byte := 127

/-- The request octets of a POLL (11). -/
def sampleWanted : Byte := 0x01
def tagWanted : Byte := 0x02

/-! ### Payloads -/

def quantityOfCode (c : Nat) : Option Quantity :=
  match c with
  | 1 => some .illum
  | 2 => some .uvr
  | 3 => some .temp
  | 4 => some .rh
  | _ => none

def qualityOfCode (c : Nat) : Option Quality :=
  match c with
  | 0 => some .good
  | 1 => some .over
  | 2 => some .under
  | 3 => some .fault
  | _ => none

/-- One reading of a SAMPLE, its value still as the 16 bits sent. -/
structure Reading where
  channel : Nat
  quantity : Quantity
  quality : Quality
  raw : Half
  deriving DecidableEq, Repr

/-- The readings of a SAMPLE payload, 4 octets each; none where an octet is not one that R7 admits. -/
def readingsOf : List Byte → Option (List Reading)
  | [] => some []
  | ch :: codes :: hi :: lo :: rest => do
      let q ← quantityOfCode (codes.toNat / 16)
      let g ← qualityOfCode (codes.toNat % 16)
      let tail ← readingsOf rest
      if ch.toNat ≤ 7 then some (⟨ch.toNat, q, g, halfOf hi lo⟩ :: tail) else none
  | _ => none

/-- One entry of an ECHO: a channel and its applied level. -/
structure EchoEntry where
  channel : Nat
  level : Nat
  deriving DecidableEq, Repr

/-- The entries of an ECHO payload, 3 octets each; none where an octet is not one that R7 admits. -/
def echoEntriesOf : List Byte → Option (List EchoEntry)
  | [] => some []
  | ch :: hi :: lo :: rest => do
      let tail ← echoEntriesOf rest
      let level := (halfOf hi lo).toNat
      if ch.toNat ≤ 3 ∧ level ≤ 1000 then some (⟨ch.toNat, level⟩ :: tail) else none
  | _ => none

/-- A LEVEL payload: channel, level, fade in seconds. -/
structure LevelPayload where
  channel : Nat
  level : Nat
  fade : Byte
  deriving DecidableEq, Repr

def levelOf : List Byte → Option LevelPayload
  | [ch, hi, lo, fade] => some ⟨ch.toNat, (halfOf hi lo).toNat, fade⟩
  | _ => none

def levelPayload (channel level : Nat) (fade : Byte) : List Byte :=
  byteOfNat channel :: octetsOf (halfOfNat level) ++ [fade]

/-- A CLOCK payload: year, day of year, minute of day. -/
structure ClockPayload where
  year : Nat
  day : Nat
  minute : Nat
  deriving DecidableEq, Repr

def clockOf : List Byte → Option ClockPayload
  | [y1, y0, d1, d0, m1, m0] => some ⟨(halfOf y1 y0).toNat, (halfOf d1 d0).toNat, (halfOf m1 m0).toNat⟩
  | _ => none

/-- The placement tag that a TAG payload of 16 octets carries. -/
def tagOf (payload : List Byte) : PlacementTag :=
  Vector.ofFn fun i => (halvesOf payload).getD i.val 0

/-! ### The tests of a completed frame -/

/-- R6, step 2: a destination of 1 to 127 and an SRC of 1 to 126. -/
def headerValid (f : Frame) : Bool :=
  decide (1 ≤ f.dest.toNat ∧ f.dest.toNat ≤ 127 ∧ 1 ≤ f.src.toNat ∧ f.src.toNat ≤ 126)

/-- R7 on the gallery port. -/
def galleryPayloadGood (f : Frame) : Bool :=
  if f.kind = kindSample then
    decide (f.payload ≠ []) && decide (f.payload.length ≤ 32) && (readingsOf f.payload).isSome
  else if f.kind = kindTag then f.payload.length == 16
  else if f.kind = kindEcho then
    decide (f.payload ≠ []) && decide (f.payload.length ≤ 12) && (echoEntriesOf f.payload).isSome
  else true

/-- R7 on the plant port; `own` is the own address. -/
def plantPayloadGood (own : Byte) (f : Frame) : Bool :=
  if f.kind = kindClock then f.payload.length == 6
  else if f.kind = kindPresence then f.payload.length == 0
  else if f.kind = kindLevel ∧ f.dest ≠ own then
    match levelOf f.payload with
    | some p => decide (p.channel ≤ 3 ∧ p.fade.toNat ≤ 60)
    | none => false
  else true

/-- R7 on either port. -/
def payloadGood (port : PortId) (own : Byte) (f : Frame) : Bool :=
  match port with
  | .gallery => galleryPayloadGood f
  | .plant => plantPayloadGood own f

/-- R6: whether a completed frame passes all three tests of its port. -/
def frameGood (port : PortId) (own : Byte) (f : Frame) : Bool :=
  checkMatches f && headerValid f && payloadGood port own f

/-- The frame that the octets taken by an assembler make, once both CHECK octets are there (R3). -/
def frameOfOctets : List Byte → Option Frame
  | dest :: src :: kind :: seq :: len :: rest =>
      if rest.length = len.toNat + 2 then
        some ⟨dest, src, kind, seq, rest.take len.toNat,
          halfOf (rest.getD len.toNat 0) (rest.getD (len.toNat + 1) 0)⟩
      else none
  | _ => none

end Sys2Proof.Machine
end

