-- ==== Sys2Proof/Machine/Operands.lean ====
section
/-! DEFINITION. The operand forms of SERVICE elements: statuses and codes (11), the shape of the eight tables (R158,
R164), which fields may be written and with which codes (R161, R162, R181), how a value is clamped into its field, and
how each field of an entry reads (R159, R181). -/

namespace Sys2Proof.Machine

/-! ### Plain arithmetic of fields -/

/-- A sum that stops at the largest value of its width (00, "Saturating"). -/
def satAdd (top a b : Nat) : Nat := min top (a + b)

def clampNat (lo hi v : Nat) : Nat := max lo (min hi v)

def clampInt (lo hi v : Int) : Int := max lo (min hi v)

def top16 : Nat := 65535
def top32 : Nat := 4294967295

/-- The high and low halves of a 32-bit value (R159: most significant part first). -/
def highHalf (n : Nat) : Half := halfOfNat (n / 65536)
def lowHalf (n : Nat) : Half := halfOfNat (n % 65536)

/-- R159: a write of one half keeps the other as stored. -/
def withHigh (n : Nat) (v : Half) : Nat := v.toNat * 65536 + n % 65536
def withLow (n : Nat) (v : Half) : Nat := (n / 65536) * 65536 + v.toNat

/-- R65: leap years, and the length of a year. -/
def leapYear (y : Nat) : Bool := decide (y % 4 = 0 ∧ (y % 100 ≠ 0 ∨ y % 400 = 0))

def yearLength (y : Nat) : Nat := if leapYear y then 366 else 365

/-! ### Statuses and codes (11) -/

inductive Status where
  | ok
  | clamped
  | readOnly
  | range
  | refError
  | enabled
  | tagMismatch
  | busy
  | tooLong
  | format
  | started
  deriving DecidableEq, Repr

def statusCode : Status → Byte
  | .ok => 0
  | .clamped => 1
  | .readOnly => 2
  | .range => 3
  | .refError => 4
  | .enabled => 5
  | .tagMismatch => 6
  | .busy => 7
  | .tooLong => 8
  | .format => 9
  | .started => 10

def boolHalf (b : Bool) : Half := if b then 1 else 0

def noneHalf : Half := 0xFFFF

/-- R181: an optional index, a cap or an applied level reads 0xFFFF when it is none or unknown. -/
def optionHalf (o : Option Nat) : Half :=
  match o with
  | some n => halfOfNat n
  | none => noneHalf

def roleCode : Role → Half
  | .sensor => 1
  | .actuator => 2

def kindCodeOfGroup : GroupKind → Half
  | .lamp => 1
  | .shade => 2

def quantityCode : Quantity → Half
  | .illum => 1
  | .uvr => 2
  | .temp => 3
  | .rh => 4

def nodeStateCode : NodeState → Half
  | .absent => 0
  | .hunting => 1
  | .tagcheck => 2
  | .online => 3
  | .silent => 4
  | .displaced => 5

def pointStateCode : PointState → Half
  | .lost => 0
  | .fresh => 1
  | .stale => 2
  | .faulted => 3
  | .held => 4

def phaseCode : CommandPhase → Half
  | .idle => 0
  | .queued => 1
  | .sent => 2
  | .settling _ => 3

def modeSourceCode : ModeSource → Half
  | .auto => 0
  | .forced => 1

def modeCode : Mode → Half
  | .opened => 1
  | .closed => 2
  | .dark => 3

def bandStateCode : BandState → Half
  | .inBand => 0
  | .pendingHigh => 1
  | .pendingLow => 2
  | .high => 3
  | .low => 4
  | .returningHigh => 5
  | .returningLow => 6

def conditionStateCode : ConditionState → Half
  | .active => 1
  | .latched => 2

def supervisionActionCode : SupervisionAction → Half
  | .hold => 0
  | .revert => 1

def procedureStateCode : ProcedureState → Half
  | .idle => 0
  | .running => 1
  | .done => 2
  | .failed => 3

/-- The number of a condition kind, 1 to 19 (08, Kinds of condition). -/
def conditionCode : ConditionKind → Nat
  | .nodeSilent => 1
  | .nodeDisplaced => 2
  | .pointFault => 3
  | .doseExhausted => 4
  | .paceShort => 5
  | .sourceDegraded => 6
  | .overCeiling => 7
  | .doseUnknown => 8
  | .groupBlind => 9
  | .actuatorSilent => 10
  | .levelMismatch => 11
  | .rhExcursion => 12
  | .tExcursion => 13
  | .rhDrift => 14
  | .zoneBlind => 15
  | .linkDegraded => 16
  | .mgmtLost => 17
  | .clockUnset => 18
  | .imageFault => 19

def galleryRateCode : Rate → Half
  | .slow => 192
  | .fast => 384

def plantRateCode : Rate → Half
  | .slow => 576
  | .fast => 1152

/-! ### The shape of the tables (R158, R164) -/

def tableNumber : TableId → Nat
  | .device => 0
  | .node => 1
  | .point => 2
  | .object => 3
  | .group => 4
  | .zone => 5
  | .condition => 6
  | .counter => 7

def tableOfNumber (n : Nat) : Option TableId :=
  match n with
  | 0 => some .device
  | 1 => some .node
  | 2 => some .point
  | 3 => some .object
  | 4 => some .group
  | 5 => some .zone
  | 6 => some .condition
  | 7 => some .counter
  | _ => none

def entryCount : TableId → Nat
  | .device => 8
  | .node => 64
  | .point => 192
  | .object => 256
  | .group => 48
  | .zone => 24
  | .condition => 64
  | .counter => 17

/-- The number of fields of an entry (11): those of DEVICE entries 1 to 7 are the descriptors' four. -/
def fieldCount (t : TableId) (entry : Nat) : Nat :=
  match t with
  | .device => if entry = 0 then 42 else 4
  | .node => 28
  | .point => 11
  | .object => 44
  | .group => 18
  | .zone => 63
  | .condition => 6
  | .counter => 5

/-- Whether a position lies within its table (R158). -/
def inTable (t : TableId) (p : Position) : Bool :=
  decide (p.entry < entryCount t) && decide (p.field < fieldCount t p.entry)

/-- R158: the position after a value. From an entry beyond the table a FIELD step goes to field 0 of entry 0 (log
entry 15). -/
def stepPosition (t : TableId) (m : StepMode) (p : Position) : Position :=
  let nextEntry := if p.entry + 1 < entryCount t then p.entry + 1 else 0
  match m with
  | .stay => p
  | .entry => ⟨nextEntry, p.field⟩
  | .field =>
      if p.entry < entryCount t ∧ p.field + 1 < fieldCount t p.entry then ⟨p.entry, p.field + 1⟩
      else ⟨nextEntry, 0⟩

/-- Access of a field (11): C, B or R. -/
inductive Access where
  | config
  | binding
  | readOnly
  deriving DecidableEq, Repr

def access (t : TableId) (p : Position) : Access :=
  match t with
  | .device =>
      if p.entry = 0 ∧ (3 ≤ p.field ∧ p.field ≤ 12 ∨ 23 ≤ p.field) then .config else .readOnly
  | .node => if p.field = 1 ∨ p.field = 2 then .binding else if p.field ≤ 12 then .config else .readOnly
  | .point =>
      if 1 ≤ p.field ∧ p.field ≤ 4 then .binding else if p.field ≤ 5 then .config else .readOnly
  | .object =>
      if 1 ≤ p.field ∧ p.field ≤ 10 then .binding else if p.field ≤ 23 then .config else .readOnly
  | .group =>
      if 1 ≤ p.field ∧ p.field ≤ 4 then .binding else if p.field ≤ 10 then .config else .readOnly
  | .zone => if p.field ≤ 5 ∨ 8 ≤ p.field ∧ p.field ≤ 23 then .config else .readOnly
  | .condition => .readOnly
  | .counter => if p.field = 4 then .config else .readOnly

/-- R162: whether a writable field takes the value; a field that takes a number takes every value. -/
def codeAccepted (t : TableId) (p : Position) (v : Half) : Bool :=
  let onOff := decide (v.toNat ≤ 1)
  match t, p.field with
  | .device, 7 => onOff
  | .device, 8 => onOff
  | .device, 12 => onOff
  | .device, f => if 23 ≤ f then onOff else true
  | .node, 0 => onOff
  | .node, 2 => decide (1 ≤ v.toNat ∧ v.toNat ≤ 2)
  | .node, 4 => onOff
  | .point, 0 => onOff
  | .point, 3 => decide (1 ≤ v.toNat ∧ v.toNat ≤ 4)
  | .point, 5 => onOff
  | .object, 0 => onOff
  | .group, 0 => onOff
  | .group, 1 => decide (1 ≤ v.toNat ∧ v.toNat ≤ 2)
  | .zone, 0 => onOff
  | .zone, 4 => onOff
  | .zone, 5 => decide (1 ≤ v.toNat ∧ v.toNat ≤ 3)
  | _, _ => true

/-! ### Storing a value in a field

Each `put` answers the entry with the value stored in one writable field, and whether the value had to change
(CLAMPED). Codes have been judged before (R162). -/

/-- A number clamped into its range, and whether it changed. -/
def putNat (lo hi v : Nat) : Nat × Bool := (clampNat lo hi v, clampNat lo hi v != v)

def putInt (lo hi v : Int) : Int × Bool := (clampInt lo hi v, clampInt lo hi v != v)

/-- R181: 0xFFFF stores none, any other value beyond the index range is clamped. -/
def putIndex (top : Nat) (v : Half) : Option Nat × Bool :=
  if v = noneHalf then (none, false) else (some (min top v.toNat), decide (top < v.toNat))

/-- R159: one 16-bit field of a tag. -/
def putTag {n : Nat} (t : Vector Half n) (i : Nat) (v : Half) : Vector Half n :=
  if h : i < n then t.set i v h else t

def tagHalf {n : Nat} (t : Vector Half n) (i : Nat) : Half := t[i]?.getD 0

/-- The Node Table's writable fields (03; R42). -/
def putNode (field : Nat) (v : Half) (n : Node) : Node × Bool :=
  match field with
  | 0 => ({ n with enable := v == 1 }, false)
  | 1 => let (a, c) := putNat 1 126 v.toNat; ({ n with address := a }, c)
  | 2 => ({ n with role := if v = 2 then .actuator else .sensor }, false)
  | 3 => let (a, c) := putNat 2 600 v.toNat; ({ n with pollPeriod := a }, c)
  | 4 => ({ n with tagCheck := v == 1 }, false)
  | f => ({ n with expectedTag := putTag n.expectedTag (f - 5) v }, false)

/-- The Point Table's writable fields (R54). -/
def putPoint (field : Nat) (v : Half) (p : Point) : Point × Bool :=
  match field with
  | 0 => ({ p with enable := v == 1 }, false)
  | 1 => let (a, c) := putNat 0 63 v.toNat; ({ p with node := a }, c)
  | 2 => let (a, c) := putNat 0 7 v.toNat; ({ p with channel := a }, c)
  | 3 => ({ p with quantity := (quantityOfCode v.toNat).getD .illum }, false)
  | 4 => let (a, c) := putNat 0 23 v.toNat; ({ p with zone := a }, c)
  | _ => ({ p with forward := v == 1 }, false)

/-- R79: a new plan also lowers a P above it. -/
def putPlanned (o : Obj) (n : Nat) : Obj × Bool :=
  let (a, c) := putNat 0 527040 n
  ({ o with planned := a, remaining := min o.remaining a }, c)

/-- R78: the budget, as a whole value. -/
def putBudget (o : Obj) (n : Nat) : Obj × Bool :=
  let (a, c) := putNat 1 4000000000 n
  ({ o with budget := a }, c)

/-- R79: P, clamped into 0 to the planned open minutes as they stand. -/
def putRemaining (o : Obj) (n : Nat) : Obj × Bool :=
  let (a, c) := putNat 0 o.planned n
  ({ o with remaining := a }, c)

/-- The Object Table's writable fields (R74, R78, R79). -/
def putObject (field : Nat) (v : Half) (o : Obj) : Obj × Bool :=
  match field with
  | 0 => ({ o with enable := v == 1 }, false)
  | 7 => let (a, c) := putNat 0 23 v.toNat; ({ o with zone := a }, c)
  | 8 => let (a, c) := putNat 0 191 v.toNat; ({ o with lightPoint := a }, c)
  | 9 => let (a, c) := putIndex 191 v; ({ o with uvPoint := a }, c)
  | 10 => let (a, c) := putIndex 47 v; ({ o with lampGroup := a }, c)
  | 11 => putBudget o (withHigh o.budget v)
  | 12 => putBudget o (withLow o.budget v)
  | 13 => let (a, c) := putNat (max 10 o.cfloor) 1000 v.toNat; ({ o with cmax := a }, c)
  | 14 => let (a, c) := putNat 0 o.cmax v.toNat; ({ o with cfloor := a }, c)
  | 15 => let (a, c) := putNat 0 1000 v.toNat; ({ o with assumed := a }, c)
  | 16 => let (a, c) := putNat 0 5000 v.toNat; ({ o with uvLimit := a }, c)
  | 17 => let (a, c) := putNat 0 20 v.toNat; ({ o with uvSlope := a }, c)
  | 18 => let (a, c) := putNat 1 365 v.toNat; ({ o with startDay := a }, c)
  | 19 => putPlanned o (withHigh o.planned v)
  | 20 => putPlanned o (withLow o.planned v)
  | 21 => let (a, c) := putNat 0 1440 v.toNat; ({ o with overThreshold := a }, c)
  | 22 => putRemaining o (withHigh o.remaining v)
  | 23 => putRemaining o (withLow o.remaining v)
  | f => ({ o with tag := putTag o.tag (f - 1) v }, false)

/-- The Group Table's writable fields (R99). -/
def putGroup (field : Nat) (v : Half) (g : Group) : Group × Bool :=
  match field with
  | 0 => ({ g with enable := v == 1 }, false)
  | 1 => ({ g with kind := if v = 2 then .shade else .lamp }, false)
  | 2 => let (a, c) := putNat 0 23 v.toNat; ({ g with zone := a }, c)
  | 3 => let (a, c) := putNat 0 63 v.toNat; ({ g with node := a }, c)
  | 4 => let (a, c) := putNat 0 3 v.toNat; ({ g with channel := a }, c)
  | 5 => let (a, c) := putNat 0 g.hi v.toNat; ({ g with lo := a }, c)
  | 6 => let (a, c) := putNat g.lo 1000 v.toNat; ({ g with hi := a }, c)
  | 7 => let (a, c) := putNat 1 200 v.toNat; ({ g with step := a }, c)
  | 8 => let (a, c) := putNat 0 200 v.toNat; ({ g with hold := a }, c)
  | 9 => let (a, c) := putNat 1 255 v.toNat; ({ g with settle := a }, c)
  | _ => let (a, c) := putNat 0 1000 v.toNat; ({ g with cleaning := a }, c)

/-- R126: lo and hi are clamped into the quantity's range and then against each other. -/
def putLo (bottom : Int) (c : Climate) (v : Int) : Climate × Bool :=
  let (a, ch) := putInt bottom c.hi v
  ({ c with lo := a }, ch)

def putHi (top : Int) (c : Climate) (v : Int) : Climate × Bool :=
  let (a, ch) := putInt c.lo top v
  ({ c with hi := a }, ch)

/-- The Zone Table's writable fields (R100, R126). -/
def putZone (field : Nat) (v : Half) (z : Zone) : Zone × Bool :=
  let u : Int := v.toNat
  match field with
  | 0 => ({ z with enable := v == 1 }, false)
  | 1 => let (a, c) := putIndex 47 v; ({ z with shade := a }, c)
  | 2 => let (a, c) := putNat 0 1439 v.toNat; ({ z with openFrom := a }, c)
  | 3 => let (a, c) := putNat 0 1439 v.toNat; ({ z with openTo := a }, c)
  | 4 => ({ z with modeSource := if v = 1 then .forced else .auto }, false)
  | 5 => ({ z with forcedMode := if v = 1 then .opened else if v = 2 then .closed else .dark }, false)
  | 8 => let (a, c) := putLo 0 z.rh u; ({ z with rh := a }, c)
  | 9 => let (a, c) := putHi 10000 z.rh u; ({ z with rh := a }, c)
  | 10 => let (a, c) := putInt 0 1000 u; ({ z with rh := { z.rh with hysteresis := a } }, c)
  | 11 => let (a, c) := putLo (-4000) z.temp v.toInt; ({ z with temp := a }, c)
  | 12 => let (a, c) := putHi 8500 z.temp v.toInt; ({ z with temp := a }, c)
  | 13 => let (a, c) := putInt 0 1000 u; ({ z with temp := { z.temp with hysteresis := a } }, c)
  | 14 => let (a, c) := putNat 1 120 v.toNat; ({ z with persistence := a }, c)
  | 15 => let (a, c) := putInt 0 10000 u; ({ z with rh := { z.rh with spike := a } }, c)
  | 16 => let (a, c) := putInt 0 12500 u; ({ z with temp := { z.temp with spike := a } }, c)
  | 17 => let (a, c) := putInt 100 3000 u; ({ z with driftLimit := a }, c)
  | 18 => let (a, c) := putInt 0 10000 u; ({ z with rh := { z.rh with target := a } }, c)
  | 19 => let (a, c) := putInt 0 500 u; ({ z with rh := { z.rh with glide := a } }, c)
  | 20 => let (a, c) := putInt (-4000) 8500 v.toInt; ({ z with temp := { z.temp with target := a } }, c)
  | 21 => let (a, c) := putInt 0 500 u; ({ z with temp := { z.temp with glide := a } }, c)
  | 22 => let (a, c) := putNat 0 126 v.toNat; ({ z with airAddress := a }, c)
  | _ => let (a, c) := putNat 0 255 v.toNat; ({ z with airChannel := a }, c)

/-- R163: a rate is one of two; another value is stored as the nearer, `middle` and above as the faster. -/
def putRate (slow middle fast : Nat) (v : Half) : Rate × Bool :=
  (if middle ≤ v.toNat then .fast else .slow, decide (v.toNat ≠ slow ∧ v.toNat ≠ fast))

/-- R163: the supervision window, 0 or 10 to 3600. -/
def putWindow (v : Half) : Nat × Bool := if v = 0 then (0, false) else putNat 10 3600 v.toNat

/-- The writable fields of DEVICE entry 0 (R163). -/
def putDevice (field : Nat) (v : Half) (d : Device) : Device × Bool :=
  match field with
  | 3 => let (a, c) := putNat 1 126 v.toNat; ({ d with ownAddress := a }, c)
  | 4 => let (a, c) := putNat 0 126 v.toNat; ({ d with mgmtAddress := a }, c)
  | 5 => let (a, c) := putRate 192 288 384 v; ({ d with galleryRate := a }, c)
  | 6 => let (a, c) := putRate 576 864 1152 v; ({ d with plantRate := a }, c)
  | 7 => ({ d with galleryEnable := v == 1 }, false)
  | 8 => ({ d with plantEnable := v == 1 }, false)
  | 9 => let (a, c) := putNat 10 500 v.toNat; ({ d with replyWindow := a }, c)
  | 10 => let (a, c) := putNat 3 15 v.toNat; ({ d with silenceThreshold := a }, c)
  | 11 => let (a, c) := putWindow v; ({ d with supervisionWindow := a }, c)
  | 12 => ({ d with supervisionAction := if v = 1 then .revert else .hold }, false)
  | f => ({ d with masks := if h : f - 23 < 19 then d.masks.set (f - 23) (v == 1) h else d.masks }, false)

/-! ### Elements (R157, R180) -/

/-- A CALL's procedure with its arguments (11, procedures). -/
inductive Call where
  | save
  | restart
  | doseSet (object : Half) (tag : CatalogueTag) (dose : BitVec 32)
  | rehunt (node : Half)
  | capClear (group : Half)
  | clearLatched
  deriving DecidableEq, Repr

/-- One element of a request. -/
inductive Element where
  | read (table : TableId) (cursor : Option Cursor) (mode : StepMode) (count : Nat)
  | write (table : TableId) (cursor : Option Cursor) (mode : StepMode) (values : List Half)
  | call (table : TableId) (cursor : Option Cursor) (procedure : Call)
  deriving DecidableEq, Repr

/-- R157: a count is 1 to 16. -/
def countOk (n : Nat) : Bool := decide (1 ≤ n ∧ n ≤ 16)

/-- The first `n` octets and the rest; none when there are fewer. -/
def takeOctets (n : Nat) (bs : List Byte) : Option (List Byte × List Byte) :=
  if n ≤ bs.length then some (bs.take n, bs.drop n) else none

/-- The cursor part, present when cursor-load is yes. -/
def parseCursor (loaded : Bool) (bs : List Byte) : Option (Option Cursor × List Byte) :=
  if loaded then
    match bs with
    | e1 :: e0 :: f :: rest => some (some ⟨halfOf e1 e0, f⟩, rest)
    | _ => none
  else some (none, bs)

/-- The procedure part of a CALL; none for an unknown code or missing arguments. -/
def parseCall (bs : List Byte) : Option (Call × List Byte) :=
  match bs with
  | [] => none
  | code :: rest =>
      match code.toNat with
      | 1 => some (.save, rest)
      | 2 => some (.restart, rest)
      | 3 => do
          let (a, tail) ← takeOctets 18 rest
          let hs := halvesOf a
          some (.doseSet (hs.getD 0 0) (Vector.ofFn fun i => hs.getD (i.val + 1) 0)
            (hs.getD 7 0 ++ hs.getD 8 0), tail)
      | 4 => do
          let (a, tail) ← takeOctets 2 rest
          some (.rehunt ((halvesOf a).getD 0 0), tail)
      | 5 => do
          let (a, tail) ← takeOctets 2 rest
          some (.capClear ((halvesOf a).getD 0 0), tail)
      | 6 => some (.clearLatched, rest)
      | _ => none

/-- R180: a step value of 3 is taken as NONE. -/
def stepOfBits (n : Nat) : StepMode :=
  match n with
  | 1 => .field
  | 2 => .entry
  | _ => .stay

/-- One element at the head of a payload, and the octets after it; none where R157 gives FORMAT, and then its cursor part
is dropped with the rest of it (log entry 32). -/
def parseElement (bs : List Byte) : Option (Element × List Byte) :=
  match bs with
  | control :: tableOctet :: rest => do
      let operation := control.toNat / 64
      let mode := stepOfBits (control.toNat / 8 % 4)
      let table ← tableOfNumber tableOctet.toNat
      let (cursor, rest) ← parseCursor (control.toNat / 32 % 2 == 1) rest
      match rest with
      | [] => none
      | countOctet :: rest =>
          let count := countOctet.toNat
          if countOk count then
            match operation with
            | 1 => some (.read table cursor mode count, rest)
            | 2 => do
                let (values, tail) ← takeOctets (2 * count) rest
                some (.write table cursor mode (halvesOf values), tail)
            | 3 => do
                let (procedure, tail) ← parseCall rest
                some (.call table cursor procedure, tail)
            | _ => none
          else none
  | _ => none

/-- All the elements of a payload, in order. A `none` stands for the element that ends the request with FORMAT, and is
the last. The fuel is the number of octets: every element takes at least one. -/
def parseElements : Nat → List Byte → List (Option Element)
  | 0, _ => []
  | _ + 1, [] => []
  | fuel + 1, b :: bs =>
      match parseElement (b :: bs) with
      | none => [none]
      | some (e, rest) => some e :: parseElements fuel rest

def elementsOf (payload : List Byte) : List (Option Element) := parseElements payload.length payload

end Sys2Proof.Machine
end

