-- ==== Sys2Proof/Machine/Factory.lean ====
section
/-! DEFINITION. The factory defaults of every table, and the values after reset of the read-only fields that no image
holds (11, Service table field numbers; R41, R54, R77, R97, R128, R163). -/

namespace Sys2Proof.Machine

/-- R163: the settings when the image holds none. -/
def factoryDevice : Device where
  ownAddress := 1
  mgmtAddress := 0
  galleryRate := .fast
  plantRate := .fast
  galleryEnable := true
  plantEnable := true
  replyWindow := 60
  silenceThreshold := 5
  supervisionWindow := 300
  supervisionAction := .hold
  masks := Vector.replicate 19 false

/-- R64, R65, R67: the Calendar after reset. -/
def resetCalendar : Calendar where
  isSet := false
  year := 0
  day := 0
  minute := 0
  localDay := 0
  localMinute := 0
  seconds := 0
  phase := 0

/-- A blank node entry, ABSENT (R41). -/
def factoryNode : Node where
  enable := false
  address := 1
  role := .sensor
  pollPeriod := 10
  tagCheck := false
  expectedTag := Vector.replicate 8 0
  state := .absent
  lastSeq := 0
  runLength := 0
  misses := 0
  lostReplies := 0
  duplicates := 0
  receivedTag := Vector.replicate 8 0
  recheckDue := false

/-- A blank point entry, LOST (R54). -/
def factoryPoint : Point where
  enable := false
  node := 0
  channel := 0
  quantity := .illum
  zone := 0
  forward := true
  value := 0
  state := .lost
  age := 65535
  pending := none
  clamps := 0
  accepted := false
  fault := false

/-- A blank object entry (R77; R173 for the dose of a blank object). -/
def factoryObject : Obj where
  enable := false
  tag := Vector.replicate 6 0
  zone := 0
  lightPoint := 0
  uvPoint := none
  lampGroup := none
  budget := 50000
  cmax := 50
  cfloor := 0
  assumed := 50
  uvLimit := 75
  uvSlope := 0
  startDay := 1
  planned := 0
  overThreshold := 0
  remaining := 0
  dose := 0
  fraction := 0
  thisHour := 0
  lastHour := 0
  today := 0
  yesterday := 0
  previousYear := 0
  peak := 0
  overMinutes := 0
  ceiling := 0
  weight := 1000
  exhausted := false
  paceShort := false
  degraded := false
  unknown := false
  lastRoll := 0
  overMarker := false

/-- A blank group entry (R97): the commanded level is the cleaning level, and RESEND is set. -/
def factoryGroup : Group where
  enable := false
  kind := .lamp
  zone := 0
  node := 0
  channel := 0
  lo := 0
  hi := 1000
  step := 20
  hold := 20
  settle := 10
  cleaning := 300
  level := 300
  applied := none
  cap := none
  phase := .idle
  misses := 0
  ratio := 0
  resend := true
  unavailable := false
  blind := false
  mismatch := false

/-- The RH half of a blank zone (11, ZONE); the setpoint is the target (R173). -/
def factoryRh : Climate where
  lo := 4500
  hi := 5500
  hysteresis := 100
  spike := 0
  target := 5000
  glide := 50
  value := none
  band := .inBand
  timer := 0
  setpoint := 5000

/-- The TEMP half of a blank zone (11, ZONE). -/
def factoryTemp : Climate where
  lo := 1800
  hi := 2400
  hysteresis := 100
  spike := 0
  target := 2000
  glide := 20
  value := none
  band := .inBand
  timer := 0
  setpoint := 2000

/-- A blank zone entry (R100, R128). -/
def factoryZone : Zone where
  enable := false
  shade := none
  openFrom := 600
  openTo := 1080
  modeSource := .auto
  forcedMode := .closed
  mode := .closed
  evalPending := false
  rh := factoryRh
  temp := factoryTemp
  persistence := 15
  driftLimit := 1000
  airAddress := 0
  airChannel := 0
  hourSum := 0
  hourCount := 0
  ring := []
  span := 0
  blind := false
  drift := false

/-- R154: a counter after reset, with no threshold in the image. -/
def factoryCounter : Counter where
  current := 0
  last := 0
  total := 0
  threshold := 0

end Sys2Proof.Machine
end

