-- ==== Sys2Proof/Machine/State.lean ====
section
/-! DEFINITION. The state of the part, its reset value, and the reasons a step can stop (none is ever raised). -/

namespace Sys2Proof.Machine

/-- No event of the manual stops the part, so no meaning faults: the type has no constructor (INVENTORY, Faults). -/
inductive Fault where
  deriving DecidableEq, Repr

/-- The one refusal of the package's form. Every row of the table has its meaning, so nothing raises it (safe). -/
inductive Refusal where
  /-- Raised by no arm of `exec`; it would say that a command has no meaning yet. Safe. -/
  | notModelled (mnemonic : String)
  deriving DecidableEq, Repr

/-- Everything the manual gives the part (INVENTORY.md, State, names the rule of each field), and the model's own
`pending`, `handed` and `freeCount`; `imageFaultRaised` is what the Image Store Interface knows of IMAGE_FAULT (log
entry 17). Instants are in time units of 1/576,000 s since reset, on the clock `now`. -/
structure State where
  /-- The commands that wait, first in, first out. -/
  pending : List Instr
  /-- The events that a step handed on, or that time made due, and that have not been taken yet (log entry 2). -/
  handed : List Instr
  /-- The counter that free values are applied to (log entry 6). -/
  freeCount : Nat
  now : Nat
  loading : Bool
  pins : Pins
  device : Device
  calendar : Calendar
  nodes : Vector Node 64
  points : Vector Point 192
  objects : Vector Obj 256
  groups : Vector Group 48
  zones : Vector Zone 24
  conditions : List Condition
  latches : Latches
  degraded : Degraded
  counters : Vector Counter 17
  galleryAsm : Assembler
  plantAsm : Assembler
  gallerySeq : Byte
  plantSeq : Byte
  g2p : List Frame
  p2g : List Frame
  plantOrigin : List OriginFrame
  plantTx : Option PlantTx
  turn : PlantQueue
  line : Line
  pointer : GrantClass
  galleryOrigin : List Nat
  pollList : List PollEntry
  cursors : Vector Position 8
  procedure : Procedure
  supervision : Supervision
  store : List Host.Cell
  save : Option Save
  restartWaiting : Bool
  faulty : List Nat
  imageFaultRaised : Bool
  deriving DecidableEq, Repr

/-- The part right after a reset with a blank image store: the records are read, every table holds its factory
defaults (R173), CLOCK_UNSET has been raised (R65, R147), and the end of the load is still to come, so both ports are
disabled and the line is OFF (R18, R23). Log entries 7, 8 and 9. -/
def State.reset : State where
  pending := []
  handed := []
  freeCount := 0
  now := 0
  loading := true
  pins := ⟨false, false, true⟩
  device := factoryDevice
  calendar := resetCalendar
  nodes := Vector.replicate 64 factoryNode
  points := Vector.replicate 192 factoryPoint
  objects := Vector.replicate 256 factoryObject
  groups := Vector.replicate 48 factoryGroup
  zones := Vector.replicate 24 factoryZone
  conditions := [⟨.clockUnset, 0, .active, 0, 0, 0⟩]
  latches := ⟨true, false, false⟩
  degraded := ⟨false, false⟩
  counters := Vector.replicate 17 factoryCounter
  galleryAsm := .hunt
  plantAsm := .hunt
  gallerySeq := 0
  plantSeq := 0
  g2p := []
  p2g := []
  plantOrigin := []
  plantTx := none
  turn := .origin
  line := .off
  pointer := .command
  galleryOrigin := []
  pollList := []
  cursors := Vector.replicate 8 ⟨0, 0⟩
  procedure := ⟨.idle, 0, .notRunning⟩
  supervision := ⟨true, none⟩
  store := []
  save := none
  restartWaiting := false
  faulty := []
  imageFaultRaised := false

end Sys2Proof.Machine
end

