-- ==== Sys2Proof/Machine/Flags.lean ====
section
/-! DEFINITION. The flags: the flag fields as R181 packs them, which condition a flag stands for at its owner, the
ALERT and GDE pins, and how each field of each table reads (R159, R181). -/

namespace Sys2Proof.Machine

/-! ### Flag fields (R181: lowest bit first, in the order listed) -/

def flagBits (bits : List Bool) : Half :=
  halfOfNat (bits.foldr (fun b n => (if b then 1 else 0) + 2 * n) 0)

def objectFlags (o : Obj) : Half := flagBits [o.exhausted, o.paceShort, o.degraded, o.unknown]

def groupFlags (g : Group) : Half := flagBits [g.resend, g.unavailable, g.blind, g.mismatch]

def zoneFlags (z : Zone) : Half := flagBits [z.blind, z.drift]

/-! ### What a flag says -/

/-- R111: ACTUATOR_SILENT for a group is active while UNAVAILABLE is set or its misses are 3 or more. -/
def groupSilent (g : Group) : Bool := g.unavailable || decide (3 ≤ g.misses)

/-- 07, The zone record: an excursion is active in HIGH, LOW and the two RETURNING states. -/
def excursionActive (b : BandState) : Bool :=
  match b with
  | .high => true
  | .low => true
  | .returningHigh => true
  | .returningLow => true
  | .inBand => false
  | .pendingHigh => false
  | .pendingLow => false

/-- R55: HELD and FRESH both count as fresh. -/
def countsFresh (p : Point) : Bool := p.state == .fresh || p.state == .held

/-- The mask of a kind (R148), at its number less 1. -/
def masked (s : State) (k : ConditionKind) : Bool := s.device.masks[conditionCode k - 1]?.getD false

/-- Whether an entry is ACTIVE and of an unmasked kind. -/
def drivesAlert (s : State) (c : Condition) : Bool := c.state == .active && !masked s c.kind

/-- R150: the ALERT pin is asserted (driven low) while an ACTIVE entry of an unmasked kind is in the table. -/
def alertAsserted (s : State) : Bool := s.conditions.any (drivesAlert s)

/-- R8: GDE is asserted while the port transmits a granted frame. -/
def gdeAsserted (s : State) : Bool :=
  match s.line with
  | .busy t =>
      match t.phase with
      | .sending _ => true
      | .window _ => false
  | _ => false

/-- R1, R8: the characters that the gallery port is sending: those of the granted frame while the line is SENDING. -/
def gallerySends (s : State) : List Character :=
  match s.line with
  | .busy t =>
      match t.phase with
      | .sending _ => charactersOf (frameOctets t.frame)
      | .window _ => []
  | _ => []

/-- R1, R17: the characters that the plant port is sending: those of the frame in flight. -/
def plantSends (s : State) : List Character :=
  match s.plantTx with
  | some t => charactersOf (frameOctets t.frame)
  | none => []

/-- R18: a port is on when its setting says so and the start-up load has ended. -/
def portOn (s : State) (p : PortId) : Bool :=
  !s.loading && (match p with
    | .gallery => s.device.galleryEnable
    | .plant => s.device.plantEnable)

/-! ### How fields read -/

def readNode (n : Node) (field : Nat) : Half :=
  match field with
  | 0 => boolHalf n.enable
  | 1 => halfOfNat n.address
  | 2 => roleCode n.role
  | 3 => halfOfNat n.pollPeriod
  | 4 => boolHalf n.tagCheck
  | 13 => nodeStateCode n.state
  | 14 => halfOfNat n.lastSeq.toNat
  | 15 => halfOfNat n.runLength
  | 16 => halfOfNat n.misses
  | 17 => halfOfNat n.lostReplies
  | 18 => halfOfNat n.duplicates
  | 27 => boolHalf n.recheckDue
  | f => if f ≤ 12 then tagHalf n.expectedTag (f - 5) else tagHalf n.receivedTag (f - 19)

def readPoint (p : Point) (field : Nat) : Half :=
  match field with
  | 0 => boolHalf p.enable
  | 1 => halfOfNat p.node
  | 2 => halfOfNat p.channel
  | 3 => quantityCode p.quantity
  | 4 => halfOfNat p.zone
  | 5 => boolHalf p.forward
  | 6 => halfOfInt p.value
  | 7 => pointStateCode p.state
  | 8 => halfOfNat p.age
  | 9 => halfOfInt (p.pending.getD 0)
  | _ => halfOfNat p.clamps

def readObject (o : Obj) (field : Nat) : Half :=
  match field with
  | 0 => boolHalf o.enable
  | 7 => halfOfNat o.zone
  | 8 => halfOfNat o.lightPoint
  | 9 => optionHalf o.uvPoint
  | 10 => optionHalf o.lampGroup
  | 11 => highHalf o.budget
  | 12 => lowHalf o.budget
  | 13 => halfOfNat o.cmax
  | 14 => halfOfNat o.cfloor
  | 15 => halfOfNat o.assumed
  | 16 => halfOfNat o.uvLimit
  | 17 => halfOfNat o.uvSlope
  | 18 => halfOfNat o.startDay
  | 19 => highHalf o.planned
  | 20 => lowHalf o.planned
  | 21 => halfOfNat o.overThreshold
  | 22 => highHalf o.remaining
  | 23 => lowHalf o.remaining
  | 24 => highHalf o.dose
  | 25 => lowHalf o.dose
  | 26 => halfOfNat o.fraction
  | 27 => highHalf o.thisHour
  | 28 => lowHalf o.thisHour
  | 29 => highHalf o.lastHour
  | 30 => lowHalf o.lastHour
  | 31 => highHalf o.today
  | 32 => lowHalf o.today
  | 33 => highHalf o.yesterday
  | 34 => lowHalf o.yesterday
  | 35 => highHalf o.previousYear
  | 36 => lowHalf o.previousYear
  | 37 => highHalf o.peak
  | 38 => lowHalf o.peak
  | 39 => halfOfNat o.overMinutes
  | 40 => halfOfNat o.ceiling
  | 41 => halfOfNat o.weight
  | 42 => objectFlags o
  | 43 => halfOfNat o.lastRoll
  | f => tagHalf o.tag (f - 1)

def readGroup (g : Group) (field : Nat) : Half :=
  match field with
  | 0 => boolHalf g.enable
  | 1 => kindCodeOfGroup g.kind
  | 2 => halfOfNat g.zone
  | 3 => halfOfNat g.node
  | 4 => halfOfNat g.channel
  | 5 => halfOfNat g.lo
  | 6 => halfOfNat g.hi
  | 7 => halfOfNat g.step
  | 8 => halfOfNat g.hold
  | 9 => halfOfNat g.settle
  | 10 => halfOfNat g.cleaning
  | 11 => halfOfNat g.level
  | 12 => optionHalf g.applied
  | 13 => optionHalf g.cap
  | 14 => phaseCode g.phase
  | 15 => halfOfNat g.misses
  | 16 => halfOfNat g.ratio
  | _ => groupFlags g

/-- R181: an unknown RH value reads 0xFFFF, an unknown T value 0x8000. -/
def climateHalf (unknown : Half) (v : Option Int) : Half :=
  match v with
  | some i => halfOfInt i
  | none => unknown

/-- R181: a ring position reads its hour mean, or 0xFFFF where it is absent or not filled. -/
def ringHalf (ring : List (Option Int)) (i : Nat) : Half := climateHalf noneHalf ((ring[i]?).getD none)

/-- 07: the number of held ring entries that carry an hour mean. -/
def ringPresent (ring : List (Option Int)) : Nat := (ring.filter Option.isSome).length

def readZone (z : Zone) (field : Nat) : Half :=
  match field with
  | 0 => boolHalf z.enable
  | 1 => optionHalf z.shade
  | 2 => halfOfNat z.openFrom
  | 3 => halfOfNat z.openTo
  | 4 => modeSourceCode z.modeSource
  | 5 => modeCode z.forcedMode
  | 6 => modeCode z.mode
  | 7 => boolHalf z.evalPending
  | 8 => halfOfInt z.rh.lo
  | 9 => halfOfInt z.rh.hi
  | 10 => halfOfInt z.rh.hysteresis
  | 11 => halfOfInt z.temp.lo
  | 12 => halfOfInt z.temp.hi
  | 13 => halfOfInt z.temp.hysteresis
  | 14 => halfOfNat z.persistence
  | 15 => halfOfInt z.rh.spike
  | 16 => halfOfInt z.temp.spike
  | 17 => halfOfInt z.driftLimit
  | 18 => halfOfInt z.rh.target
  | 19 => halfOfInt z.rh.glide
  | 20 => halfOfInt z.temp.target
  | 21 => halfOfInt z.temp.glide
  | 22 => halfOfNat z.airAddress
  | 23 => halfOfNat z.airChannel
  | 24 => climateHalf noneHalf z.rh.value
  | 25 => climateHalf 0x8000 z.temp.value
  | 26 => bandStateCode z.rh.band
  | 27 => bandStateCode z.temp.band
  | 28 => halfOfNat z.rh.timer
  | 29 => halfOfNat z.temp.timer
  | 30 => highHalf z.hourSum
  | 31 => lowHalf z.hourSum
  | 32 => halfOfNat z.hourCount
  | 33 => halfOfNat z.ring.length
  | 34 => halfOfNat (ringPresent z.ring)
  | 59 => halfOfInt z.span
  | 60 => halfOfInt z.rh.setpoint
  | 61 => halfOfInt z.temp.setpoint
  | 62 => zoneFlags z
  | f => ringHalf z.ring (f - 35)

/-- A Condition Table position; one beyond the table's length reads 0 in every field (R142, R181). -/
def readCondition (c : Option Condition) (field : Nat) : Half :=
  match c with
  | none => 0
  | some c =>
      match field with
      | 0 => halfOfNat (conditionCode c.kind)
      | 1 => halfOfNat c.subject
      | 2 => conditionStateCode c.state
      | 3 => halfOfNat c.day
      | 4 => halfOfNat c.minute
      | _ => halfOfNat c.detail

def readCounter (c : Counter) (field : Nat) : Half :=
  match field with
  | 0 => halfOfNat c.current
  | 1 => halfOfNat c.last
  | 2 => highHalf c.total
  | 3 => lowHalf c.total
  | _ => halfOfNat c.threshold

/-- R65: the day and minute fields of the DEVICE table, which stamp raises and clears (R145). -/
def calendarDay (c : Calendar) : Nat := if c.isSet then c.day else c.localDay
def calendarMinute (c : Calendar) : Nat := if c.isSet then c.minute else c.localMinute

/-- DEVICE entry 0 (R163). -/
def readDevice (s : State) (field : Nat) : Half :=
  match field with
  | 0 => 0x0C41
  | 1 => 0x0024
  | 2 => 1
  | 3 => halfOfNat s.device.ownAddress
  | 4 => halfOfNat s.device.mgmtAddress
  | 5 => galleryRateCode s.device.galleryRate
  | 6 => plantRateCode s.device.plantRate
  | 7 => boolHalf s.device.galleryEnable
  | 8 => boolHalf s.device.plantEnable
  | 9 => halfOfNat s.device.replyWindow
  | 10 => halfOfNat s.device.silenceThreshold
  | 11 => halfOfNat s.device.supervisionWindow
  | 12 => supervisionActionCode s.device.supervisionAction
  | 13 => boolHalf (!s.supervision.attended)
  | 14 => boolHalf s.calendar.isSet
  | 15 => if s.calendar.isSet then halfOfNat s.calendar.year else 0
  | 16 => halfOfNat (calendarDay s.calendar)
  | 17 => halfOfNat (calendarMinute s.calendar)
  | 18 => procedureStateCode s.procedure.state
  | 19 => halfOfNat s.procedure.result
  | 20 => boolHalf s.latches.raised
  | 21 => boolHalf s.latches.clear
  | 22 => boolHalf s.latches.overflow
  | f => boolHalf (s.device.masks[f - 23]?.getD false)

def countEnabled {α : Type} {n : Nat} (enable : α → Bool) (t : Vector α n) : Nat :=
  (t.toList.filter enable).length

/-- R164: the enabled entries of a table, as it stands. -/
def enabledEntries (s : State) (t : TableId) : Nat :=
  match t with
  | .device => 0
  | .node => countEnabled Node.enable s.nodes
  | .point => countEnabled Point.enable s.points
  | .object => countEnabled Obj.enable s.objects
  | .group => countEnabled Group.enable s.groups
  | .zone => countEnabled Zone.enable s.zones
  | .condition => s.conditions.length
  | .counter => 17

/-- DEVICE entries 1 to 7 (R164). -/
def readDescriptor (s : State) (t : TableId) (field : Nat) : Half :=
  match field with
  | 0 => halfOfNat (0x4E00 + tableNumber t)
  | 1 => halfOfNat (entryCount t)
  | 2 => halfOfNat (fieldCount t 0)
  | _ => halfOfNat (enabledEntries s t)

/-- The value of a position within its table (R160); the read effect of the latches is the Service Unit's. -/
def readField (s : State) (t : TableId) (p : Position) : Half :=
  match t with
  | .device =>
      if p.entry = 0 then readDevice s p.field
      else readDescriptor s ((tableOfNumber p.entry).getD .counter) p.field
  | .node => readNode (s.nodes[p.entry]?.getD factoryNode) p.field
  | .point => readPoint (s.points[p.entry]?.getD factoryPoint) p.field
  | .object => readObject (s.objects[p.entry]?.getD factoryObject) p.field
  | .group => readGroup (s.groups[p.entry]?.getD factoryGroup) p.field
  | .zone => readZone (s.zones[p.entry]?.getD factoryZone) p.field
  | .condition => readCondition s.conditions[p.entry]? p.field
  | .counter => readCounter (s.counters[p.entry]?.getD factoryCounter) p.field

end Sys2Proof.Machine
end

