-- ==== Sys2Proof/Machine/Ops.lean ====
section
/-! DEFINITION. The named operations that every family uses: reading and changing one entry of a table, counting (R154),
handing an event on (log entry 2), the queues that feed the plant port and its arbiter (R14 to R17), the Condition
Unit's raise and clear (R142 to R153), and the image store's octets. -/

namespace Sys2Proof.Machine

/-- What a meaning that always completes answers. -/
abbrev Result := Host.Outcome State Fault Refusal

/-! ### One entry of a table -/

def modifyAt {α : Type} {n : Nat} (t : Vector α n) (i : Nat) (f : α → α) : Vector α n :=
  if h : i < n then t.set i (f t[i]) h else t

/-- The entry at an index; an index beyond the table gives the blank, disabled entry. -/
def State.node (s : State) (i : Nat) : Node := s.nodes[i]?.getD factoryNode
def State.point (s : State) (i : Nat) : Point := s.points[i]?.getD factoryPoint
def State.object (s : State) (i : Nat) : Obj := s.objects[i]?.getD factoryObject
def State.group (s : State) (i : Nat) : Group := s.groups[i]?.getD factoryGroup
def State.zone (s : State) (i : Nat) : Zone := s.zones[i]?.getD factoryZone

def State.modNode (s : State) (i : Nat) (f : Node → Node) : State :=
  { s with nodes := modifyAt s.nodes i f }
def State.modPoint (s : State) (i : Nat) (f : Point → Point) : State :=
  { s with points := modifyAt s.points i f }
def State.modObject (s : State) (i : Nat) (f : Obj → Obj) : State :=
  { s with objects := modifyAt s.objects i f }
def State.modGroup (s : State) (i : Nat) (f : Group → Group) : State :=
  { s with groups := modifyAt s.groups i f }
def State.modZone (s : State) (i : Nat) (f : Zone → Zone) : State :=
  { s with zones := modifyAt s.zones i f }

/-- Work done on the state for each index of a table in turn, lowest first. -/
def forEach (n : Nat) (f : Nat → State → State) (s : State) : State :=
  (List.range n).foldl (fun s i => f i s) s

/-- The indices of a table whose entry satisfies a test, lowest first. -/
def indicesWhere (n : Nat) (p : Nat → Bool) : List Nat := (List.range n).filter p

/-! ### Time and rates -/

/-- Time units in a millisecond and a second: the unit is 1/576,000 s (log entry 5). -/
def unitsPerMs : Nat := 576
def unitsPerSecond : Nat := 576000

/-- R1: the time of 11 bits at the port's rate. -/
def galleryCharUnits : Rate → Nat
  | .slow => 330
  | .fast => 165
def plantCharUnits : Rate → Nat
  | .slow => 110
  | .fast => 55

def charUnits (s : State) (p : PortId) : Nat :=
  match p with
  | .gallery => galleryCharUnits s.device.galleryRate
  | .plant => plantCharUnits s.device.plantRate

/-- The scheduler's running time in milliseconds (02, The poll due list). -/
def runningMs (s : State) : Nat := s.now / unitsPerMs

/-- The own address as an octet of a frame. -/
def ownOctet (s : State) : Byte := byteOfNat s.device.ownAddress

/-! ### Counting (R154) -/

def counterIndex : CounterId → Nat
  | .galleryGood => 0
  | .galleryCheckErrors => 1
  | .galleryCharErrors => 2
  | .galleryStrays => 3
  | .galleryMisses => 4
  | .galleryLatePolls => 5
  | .p2gDrops => 6
  | .quarantined => 7
  | .plantGood => 8
  | .plantCheckErrors => 9
  | .plantCharErrors => 10
  | .g2pDrops => 11
  | .plantOriginDrops => 12
  | .clampedCommands => 13
  | .droppedCommands => 14
  | .serviceFormatErrors => 15
  | .clockBad => 16

/-- Current hour and total each rise, and each stops at the largest value of its width. -/
def bumpCounter (n : Nat) (c : Counter) : Counter :=
  { c with current := satAdd top16 c.current n, total := satAdd top32 c.total n }

/-- `n` events each count one in the counter. -/
def countMany (c : CounterId) (n : Nat) (s : State) : State :=
  { s with counters := modifyAt s.counters (counterIndex c) (bumpCounter n) }

def count (c : CounterId) (s : State) : State := countMany c 1 s

/-! ### Handing events on (log entry 2) -/

def handOn (c : Instr) (s : State) : State := { s with handed := s.handed ++ [c] }

/-- An event is taken: where it stood among the handed events it stands no longer. -/
def taken (c : Instr) (s : State) : State := { s with handed := s.handed.erase c }

/-- R167: the RESTART's reply has been sent, discarded at its offer, or removed unsent. -/
def restartReplyGone (s : State) : State :=
  if s.procedure.restart = .awaitingReply then
    handOn .restartSaveStart { s with procedure := { s.procedure with restart := .replyGone } }
  else s

/-! ### The plant transmit arbiter (R17) -/

/-- The head of G2P is taken as it arrived. -/
def takeG2p (f : Frame) (rest : List Frame) (s : State) : State :=
  { s with
    g2p := rest
    turn := .g2p
    plantTx := some ⟨f, .g2p, false, s.now + frameChars f.payload * charUnits s .plant⟩ }

/-- The head of plant origin receives its SRC, SEQ and CHECK at the take (R2). -/
def takeOrigin (o : OriginFrame) (rest : List OriginFrame) (s : State) : State :=
  { s with
    plantOrigin := rest
    turn := .origin
    plantSeq := s.plantSeq + 1
    plantTx := some ⟨buildFrame o.dest (ownOctet s) o.kind s.plantSeq o.payload, .origin,
      o.tag == .reply true, s.now + frameChars o.payload * charUnits s .plant⟩ }

/-- R17: with no frame in flight, the head of the queue the turn flag does not name, or of the one that holds
frames. -/
def plantTake (s : State) : State :=
  match s.plantTx with
  | some _ => s
  | none =>
      match s.g2p, s.plantOrigin with
      | [], [] => s
      | f :: rest, [] => takeG2p f rest s
      | [], o :: rest => takeOrigin o rest s
      | f :: fs, o :: os =>
          match s.turn with
          | .origin => takeG2p f fs s
          | .g2p => takeOrigin o os s

/-! ### Offers to the queues of the plant port (R14, R16) -/

def g2pCapacity : Nat := 16
def p2gCapacity : Nat := 8
def originCapacity : Nat := 24

def offerG2p (f : Frame) (s : State) : State :=
  if portOn s .plant && decide (s.g2p.length < g2pCapacity) then
    plantTake { s with g2p := s.g2p ++ [f] }
  else count .g2pDrops s

/-- R14, steps 1 and 3: the discarded frame counts; a discarded RESTART reply is the event R167 waits for. -/
def dropOrigin (o : OriginFrame) (s : State) : State :=
  let s := count .plantOriginDrops s
  if o.tag = .reply true then restartReplyGone s else s

/-- Whether a waiting frame is a TRIM that the offered one replaces. -/
def replacesTrim (o : OriginFrame) (waiting : OriginFrame) : Bool :=
  match o.tag with
  | .trim _ => waiting.tag == o.tag
  | .condition => false
  | .reply _ => false

def offerOrigin (o : OriginFrame) (s : State) : State :=
  if !portOn s .plant then dropOrigin o s
  else if s.plantOrigin.any (replacesTrim o) then
    { s with plantOrigin := s.plantOrigin.map fun w => if replacesTrim o w then o else w }
  else if s.plantOrigin.length < originCapacity then
    plantTake { s with plantOrigin := s.plantOrigin ++ [o] }
  else dropOrigin o s

/-! ### The Condition Unit -/

def conditionCapacity : Nat := 64

/-- R149: the CONDITION frame, to the management address as it stands, or to broadcast when that is 0. -/
def conditionFrame (s : State) (c : Condition) (raised : Bool) : OriginFrame :=
  { dest := if s.device.mgmtAddress = 0 then broadcast else byteOfNat s.device.mgmtAddress
    kind := kindCondition
    payload := [byteOfNat (conditionCode c.kind), byteOfNat c.subject, if raised then 1 else 0] ++
      octetsOfAll [halfOfNat c.detail, halfOfNat c.day, halfOfNat c.minute]
    tag := .condition }

/-- R148, R149: one report for a raise or clear of an unmasked kind; none is offered while the load runs (R147). -/
def report (c : Condition) (raised : Bool) (s : State) : State :=
  if s.loading || masked s c.kind then s else offerOrigin (conditionFrame s c raised) s

def sameCondition (k : ConditionKind) (subject : Nat) (c : Condition) : Bool :=
  c.kind == k && c.subject == subject

/-- R143: the table after a raise, or none when it is full of ACTIVE entries. -/
def recordRaise (c : Condition) (table : List Condition) : Option (List Condition) :=
  if table.any (sameCondition c.kind c.subject) then
    some (table.map fun e => if sameCondition c.kind c.subject e then c else e)
  else if table.length < conditionCapacity then some (table ++ [c])
  else if table.any (fun e => e.state == .latched) then
    some (table.eraseP (fun e => e.state == .latched) ++ [c])
  else none

/-- R143: the raise is recorded, or sets the overflow latch (R153). -/
def recorded (c : Condition) (s : State) : State :=
  match recordRaise c s.conditions with
  | some table => { s with conditions := table }
  | none => { s with latches := { s.latches with overflow := true } }

/-- R151, R152: the latches at a raise of an unmasked kind. -/
def latchRaise (k : ConditionKind) (s : State) : State :=
  if masked s k then s else { s with latches := { s.latches with raised := true, clear := false } }

/-- R145: an entry stamped now. -/
def stamped (k : ConditionKind) (subject detail : Nat) (s : State) : Condition :=
  ⟨k, subject, .active, calendarDay s.calendar, calendarMinute s.calendar, detail⟩

/-- R143: record, latches, report. -/
def raise (k : ConditionKind) (subject detail : Nat) (s : State) : State :=
  let c := stamped k subject detail s
  report c true (latchRaise k (recorded c s))

/-- R144: the detail of the entry of a kind and subject, or 0 where there is none. -/
def detailOf (k : ConditionKind) (subject : Nat) (table : List Condition) : Nat :=
  ((table.find? (sameCondition k subject)).map Condition.detail).getD 0

/-- R144: an ACTIVE entry becomes LATCHED. -/
def latched (k : ConditionKind) (subject : Nat) (s : State) : State :=
  { s with conditions := s.conditions.map fun e =>
      if sameCondition k subject e then { e with state := .latched } else e }

/-- R144: the clear is reported with the entry's detail, or 0 where there is none. -/
def clear (k : ConditionKind) (subject : Nat) (s : State) : State :=
  report (stamped k subject (detailOf k subject s.conditions) s) false (latched k subject s)

def clearIf (active : Bool) (k : ConditionKind) (subject : Nat) (s : State) : State :=
  if active then clear k subject s else s

/-- A condition that follows a flag: raised when the flag becomes set, cleared when it becomes clear. -/
def follow (k : ConditionKind) (subject detail : Nat) (before after : Bool) (s : State) : State :=
  if after && !before then raise k subject detail s
  else if before && !after then clear k subject s
  else s

/-! ### The image store's octets

A list of (address, octet), addresses strictly rising, with no entry that holds the erased value (log entry 7). -/

/-- What an octet that is not listed reads as: the erased value of R173. -/
def erased : Byte := 0xFF

def storeRead : List Host.Cell → Nat → Byte
  | [], _ => erased
  | (b, v) :: rest, a => if a = b then v else storeRead rest a

/-- A listed octet at an address that no entry holds yet; the erased value lists nothing. -/
def storeCell (a : Nat) (v : Byte) : List Host.Cell := if v = erased then [] else [(a, v)]

def storeWrite : List Host.Cell → Nat → Byte → List Host.Cell
  | [], a, v => storeCell a v
  | (b, w) :: rest, a, v =>
      if a < b then storeCell a v ++ (b, w) :: rest
      else if a = b then storeCell a v ++ rest
      else (b, w) :: storeWrite rest a v

/-- Octets written at consecutive addresses. -/
def storeWriteAll (m : List Host.Cell) (a : Nat) : List Byte → List Host.Cell
  | [] => m
  | v :: vs => storeWriteAll (storeWrite m a v) (a + 1) vs

def storeReadAll (m : List Host.Cell) (a n : Nat) : List Byte :=
  (List.range n).map fun i => storeRead m (a + i)

/-- The canonical form of the store. -/
abbrev Memory.wf (m : List Host.Cell) : Prop :=
  m.Pairwise (fun x y => x.1 < y.1) ∧ ∀ c ∈ m, c.2 ≠ erased

end Sys2Proof.Machine
end

