-- ==== Sys2Proof/Machine/Light.lean ====
section
/-! DEFINITION. Light Group Control (06): ratios and targets, the evaluation of a zone, the life of an own command, the
echoes, and the presentation of building-side LEVEL commands. Nothing here grants the line: an evaluation leaves its
entries in the gallery origin queue, and `GalleryLine` makes the grant of R25. -/

namespace Sys2Proof.Machine

/-- R110, R112: a group's actuator node can be reached when it is enabled and not DISPLACED. -/
def nodeReachable (s : State) (n : Nat) : Bool := (s.node n).enable && (s.node n).state != .displaced

/-- The enabled groups of a zone, lowest index first. -/
def zoneGroups (s : State) (z : Nat) : List Nat :=
  indicesWhere 48 fun g => (s.group g).enable && (s.group g).zone == z

/-- The enabled objects of a zone. -/
def zoneObjects (s : State) (z : Nat) : List Nat :=
  indicesWhere 256 fun i => (s.object i).enable && (s.object i).zone == z

/-- R102: every enabled group of the zone is IDLE. -/
def zoneAtRest (s : State) (z : Nat) : Bool := (zoneGroups s z).all fun g => (s.group g).phase == .idle

/-- R108: a group's eff_hi. -/
def effHi (g : Group) : Nat :=
  match g.cap with
  | some c => min g.hi c
  | none => g.hi

/-- R109 in CLOSED and DARK: limited to the cap, when there is one. -/
def capLimit (g : Group) (target : Nat) : Nat :=
  match g.cap with
  | some c => min target c
  | none => target

/-! ### Ratios (R104, R105) -/

/-- R104: the ratio of an object with ceiling C whose light point has value E. -/
def ratioOf (ceiling value : Nat) : Nat := if value = 0 then 4000 else min 4000 (ceiling * 1000 / value)

/-- R104: an object has a ratio while its light point is FRESH or HELD. A negative value reads as 0 (log entry 35). -/
def objectRatio (s : State) (o : Obj) : Option Nat :=
  let p := s.point o.lightPoint
  if countsFresh p then some (ratioOf o.ceiling p.value.toNat) else none

/-- R104: q_z, the least of the object ratios of the zone. -/
def zoneRatio (s : State) (z : Nat) : Option Nat :=
  ((zoneObjects s z).filterMap fun i => objectRatio s (s.object i)).min?

/-- R105: the enabled objects whose lamp group field names the group. -/
def members (s : State) (g : Nat) : List Nat :=
  indicesWhere 256 fun i => (s.object i).enable && (s.object i).lampGroup == some g

/-- R105: q_g. Ratios are formed for the objects of the zone evaluated (R104, log entry 35). -/
def lampRatio (s : State) (z g : Nat) : Option Nat :=
  if (members s g).isEmpty then zoneRatio s z
  else ((members s g).filterMap fun i =>
    if (s.object i).zone = z then objectRatio s (s.object i) else none).min?

/-- R105: a LAMP group is BLIND when it has members and none has a ratio. -/
def lampBlind (s : State) (z g : Nat) : Bool := !(members s g).isEmpty && (lampRatio s z g).isNone

/-- The zone's named shade group: the one its field names, being an enabled SHADE group of the zone (log entry 22). -/
def namedShade (s : State) (z : Nat) : Option Nat :=
  (s.zone z).shade.filter fun g =>
    (s.group g).enable && (s.group g).zone == z && (s.group g).kind == .shade

/-- R105 for one LAMP group: BLIND and GROUP_BLIND, and the last ratio. -/
def judgeLamp (z g : Nat) (s : State) : State :=
  if (s.group g).kind = .lamp then
    let q := lampRatio s z g
    let before := (s.group g).blind
    let after := lampBlind s z g
    follow .groupBlind g (s.group g).zone before after
      (s.modGroup g fun gr => { gr with blind := after, ratio := q.getD gr.ratio })
  else s

/-- R104: q_z is stored in the named shade group's last ratio when it is defined. -/
def storeShadeRatio (z : Nat) (s : State) : State :=
  match namedShade s z, zoneRatio s z with
  | some g, some q => s.modGroup g fun gr => { gr with ratio := q }
  | _, _ => s

/-- R103, steps 1 and 2. The LAMP groups are judged in index order: DESIGN CHOICE (log entry 36). -/
def judgeRatios (z : Nat) (s : State) : State :=
  (zoneGroups s z).foldl (fun s g => judgeLamp z g s) (storeShadeRatio z s)

/-! ### Targets (R106 to R109) -/

/-- R107: the target of a group that moves down by a ratio q. -/
def loweredTarget (g : Group) (q : Nat) : Nat := max g.lo (min (g.level - 1) (g.level * q / 1000))

/-- R108: the target of a group that moves up by one step. -/
def raisedTarget (g : Group) : Nat := min (effHi g) (g.level + g.step)

/-- R107: a shade group is able. -/
def shadeAble (s : State) (g : Group) : Bool := nodeReachable s g.node && decide (g.misses < 3)

/-- R107: the zone has a named shade group that is able to move down. -/
def shadeMovesDown (s : State) (z : Nat) : Bool :=
  match namedShade s z with
  | some g => shadeAble s (s.group g) && decide ((s.group g).lo < (s.group g).level)
  | none => false

/-- R108: every enabled LAMP group of the zone stands at its eff_hi. -/
def lampsAtTop (s : State) (z : Nat) : Bool :=
  (zoneGroups s z).all fun g => (s.group g).kind != .lamp || (s.group g).level == effHi (s.group g)

/-- R107, R108: the target of a LAMP group in the OPEN mode, before the limits of R109. -/
def openLampTarget (s : State) (z g qz : Nat) : Nat :=
  let gr := s.group g
  match lampRatio s z g with
  | none => gr.level
  | some q =>
      if qz < 1000 then
        if !shadeMovesDown s z && decide (q < 1000 ∧ gr.lo < gr.level) then loweredTarget gr q else gr.level
      else if 1000 + gr.hold ≤ q ∧ gr.level < effHi gr then raisedTarget gr
      else gr.level

/-- R107, R108: the target of the named shade group in the OPEN mode, before the limits of R109. -/
def openShadeTarget (s : State) (z g qz : Nat) : Nat :=
  let gr := s.group g
  if qz < 1000 then
    if shadeMovesDown s z then loweredTarget gr qz else gr.level
  else if gr.level < effHi gr ∧ 1000 + gr.hold ≤ qz ∧ lampsAtTop s z = true then raisedTarget gr
  else gr.level

/-- R107, R108: when q_z is undefined every group is held. -/
def openTarget (s : State) (z g : Nat) : Nat :=
  match zoneRatio s z with
  | none => (s.group g).level
  | some qz =>
      match (s.group g).kind with
      | .lamp => openLampTarget s z g qz
      | .shade => openShadeTarget s z g qz

/-- R106: the target in CLOSED and DARK. -/
def closedTarget (g : Group) (dark : Bool) : Nat :=
  match g.kind with
  | .shade => g.lo
  | .lamp => if dark then 0 else g.cleaning

/-- The target of an enabled group of the zone, limited (R106 to R109). A SHADE group that the zone does not name is
held at its commanded level in every mode. -/
def target (s : State) (z g : Nat) : Nat :=
  let gr := s.group g
  if gr.kind = .shade ∧ namedShade s z ≠ some g then gr.level
  else
    match (s.zone z).mode with
    | .opened => min (openTarget s z g) (effHi gr)
    | .closed => capLimit gr (closedTarget gr false)
    | .dark => capLimit gr (closedTarget gr true)

/-! ### Commanding and evaluation (R102, R103, R110, R111) -/

/-- A change of a group after which ACTUATOR_SILENT is judged (R111). -/
def changeJudged (g : Nat) (f : Group → Group) (s : State) : State :=
  let before := groupSilent (s.group g)
  let s := s.modGroup g f
  follow .actuatorSilent g (s.group g).zone before (groupSilent (s.group g)) s

/-- R110 for one group and its target. -/
def commandGroup (g t : Nat) (s : State) : State :=
  if t = (s.group g).level ∧ (s.group g).resend = false then s
  else if nodeReachable s (s.group g).node then
    let s := s.modGroup g fun gr => { gr with level := t, phase := .queued }
    { s with galleryOrigin := s.galleryOrigin ++ [g] }
  else changeJudged g (fun gr => { gr with resend := true, unavailable := true }) s

/-- R103: an evaluation of a zone. All the targets are chosen before any group is commanded. Groups that cannot be reached
become UNAVAILABLE in index order (log entry 36). -/
def evaluate (z : Nat) (s : State) : State :=
  let s := judgeRatios z s
  let targets := (zoneGroups s z).map fun g => (g, target s z g)
  targets.foldl (fun s gt => commandGroup gt.1 gt.2 s) s

/-- R102: a request, taken at once. -/
def requestCore (z : Nat) (s : State) : State :=
  if zoneAtRest s z then evaluate z s
  else s.modZone z fun zn => { zn with evalPending := true }

/-- R102: the zone's groups may have come to rest; the pending evaluation runs when they have. -/
def rejudgeZone (z : Nat) (s : State) : State :=
  if (s.zone z).evalPending && zoneAtRest s z then
    evaluate z (s.modZone z fun zn => { zn with evalPending := false })
  else s

/-! ### The life of an own command (R112 to R115) -/

/-- The instant at which a settle timer started now expires (R113, R120). -/
def settleEnd (s : State) (g : Group) : Nat := s.now + g.settle * unitsPerSecond

/-- R112: the declined presentation of a group whose node cannot be reached; the condition comes before the evaluation
(log entry 36). -/
def declineCommand (g : Nat) (s : State) : State :=
  rejudgeZone (s.group g).zone
    (changeJudged g (fun gr => { gr with phase := .idle, resend := true, unavailable := true }) s)

/-- Whether a transaction's outcome still concerns the group (R98: the outcome is ignored for a group that was
disabled, also when it has been enabled again). -/
def stillSent (s : State) (g : Nat) : Bool := (s.group g).enable && (s.group g).phase == .sent

/-- R114: an expiry, or what counts as one; the condition comes before the evaluation (log entry 36). -/
def commandExpiry (g : Nat) (s : State) : State :=
  if stillSent s g then
    rejudgeZone (s.group g).zone
      (changeJudged g
        (fun gr => { gr with phase := .idle, resend := true, misses := satAdd 255 gr.misses 1 }) s)
  else s

/-- R114: the cancellation by a disable of the gallery port. -/
def commandCancelled (g : Nat) (s : State) : State :=
  if stillSent s g then
    rejudgeZone (s.group g).zone (s.modGroup g fun gr => { gr with phase := .idle, resend := true })
  else s

/-! ### Echoes (R113, R116, R117) -/

/-- R116: how far apart two levels are. -/
def levelDistance (a b : Nat) : Nat := (a - b) + (b - a)

/-- R116: the phases in which the mismatch test is made. -/
def testedPhase : CommandPhase → Bool
  | .idle => true
  | .settling _ => true
  | .queued => false
  | .sent => false

/-- R116: the mismatch test, made when the phase is IDLE or SETTLING; the condition comes before the evaluation (log entry
36). -/
def mismatchTest (g : Nat) (s : State) : State :=
  let gr := s.group g
  let far := decide (20 < levelDistance (gr.applied.getD gr.level) gr.level)
  let tested := testedPhase gr.phase
  if tested && far && !gr.mismatch then
    requestCore gr.zone
      (raise .levelMismatch g gr.zone (s.modGroup g fun gr => { gr with mismatch := true, resend := true }))
  else if tested && !far && gr.mismatch then
    clear .levelMismatch g (s.modGroup g fun gr => { gr with mismatch := false })
  else s

/-- R117: an echo of a building-side LEVEL clears a MISMATCH and never sets one. -/
def mismatchRelief (g : Nat) (s : State) : State :=
  let gr := s.group g
  if gr.mismatch && decide (levelDistance (gr.applied.getD gr.level) gr.level ≤ 20) then
    clear .levelMismatch g (s.modGroup g fun gr => { gr with mismatch := false })
  else s

/-- R116: the applied level takes the entry's level, and the misses become 0. -/
def takeApplied (g level : Nat) (s : State) : State :=
  changeJudged g (fun gr => { gr with applied := some level, misses := 0 }) s

/-- R116: the enabled group bound to a node and a channel, the lowest index where the image left two (log entry 16). -/
def groupOnChannel (s : State) (n ch : Nat) : Option Nat :=
  (List.range 48).find? fun g => (s.group g).enable && (s.group g).node == n && (s.group g).channel == ch

/-- R116: one entry of a poll echo from node `n`; an entry for the group `except'` is left out. Another group that has
taken the node and channel of a COMMAND's disabled group takes the entry (log entry 27). -/
def pollEchoEntry (n : Nat) (except' : Option Nat) (s : State) (e : EchoEntry) : State :=
  match groupOnChannel s n e.channel with
  | some g => if except' = some g then s else mismatchTest g (takeApplied g e.level s)
  | none => s

/-- R116: an ECHO that answers a POLL. -/
def pollEcho (n : Nat) (entries : List EchoEntry) (s : State) : State :=
  entries.foldl (pollEchoEntry n none) s

/-- R113: the last entry for the group's own channel. -/
def ownEntry (ch : Nat) (entries : List EchoEntry) : Option EchoEntry :=
  entries.reverse.find? fun e => e.channel == ch

/-- R113: a group's own echo, with the entry for its channel. -/
def ownEchoTaken (g level : Nat) (s : State) : State :=
  mismatchTest g
    (changeJudged g
      (fun gr => { gr with
        applied := some level, misses := 0, resend := false, phase := .settling (settleEnd s gr) }) s)

/-- R113: the group's own part of the ECHO that answers its COMMAND. -/
def ownEchoGroup (g : Nat) (entries : List EchoEntry) (s : State) : State :=
  if stillSent s g then
    match ownEntry (s.group g).channel entries with
    | some e => ownEchoTaken g e.level s
    | none => commandExpiry g s
  else s

/-- R113: the usable ECHO that answers the COMMAND of group `g`. The entries for other channels of the replying node are
taken as those of a poll echo, after the group's own entry, or after the expiry, with the pending evaluation it may run,
that an ECHO without one counts as: DESIGN CHOICE (log entry 27). -/
def ownEcho (g : Nat) (node : Option Nat) (entries : List EchoEntry) (s : State) : State :=
  let s := ownEchoGroup g entries s
  match node with
  | some n => entries.foldl (pollEchoEntry n (some g)) s
  | none => s

/-! ### Building-side LEVEL commands (R118 to R121) -/

/-- R118: the enabled groups that a LEVEL reaches, by the address their node entry holds and their channel. -/
def groupsReached (s : State) (dest : Byte) (ch : Nat) : List Nat :=
  indicesWhere 48 fun g =>
    (s.group g).enable && (s.group g).channel == ch && (s.node (s.group g).node).address == dest.toNat

/-- R117, R9: the groups that an entry of an ECHO from address `src` names: that of the enabled node with the address,
and where no enabled node has it the groups that a LEVEL to the address reaches (R118; log entry 31). -/
def echoGroups (s : State) (node : Option Nat) (src : Byte) (ch : Nat) : List Nat :=
  match node with
  | some n => (groupOnChannel s n ch).toList
  | none => groupsReached s src ch

/-- R117: a group named by an ECHO that answers a building-side LEVEL. -/
def forwardedEchoGroup (level : Nat) (s : State) (g : Nat) : State := mismatchRelief g (takeApplied g level s)

/-- R117: one entry of such an ECHO; several groups are taken in index order (log entry 36). -/
def forwardedEchoEntry (node : Option Nat) (src : Byte) (s : State) (e : EchoEntry) : State :=
  (echoGroups s node src e.channel).foldl (forwardedEchoGroup e.level) s

def forwardedEcho (node : Option Nat) (src : Byte) (entries : List EchoEntry) (s : State) : State :=
  entries.foldl (forwardedEchoEntry node src) s

/-- R118: whether any enabled group has the channel. -/
def channelBound (s : State) (ch : Nat) : Bool :=
  (List.range 48).any fun g => (s.group g).enable && (s.group g).channel == ch

/-- R120: the cap that a requested level leaves. -/
def capOfRequest (requested : Nat) : Option Nat := if 1000 ≤ requested then none else some requested

/-- R120: the level forwarded. -/
def forwardedLevel (s : State) (reached : List Nat) (requested : Nat) : Nat :=
  reached.foldl (fun m g => min m (s.group g).level) (min 1000 requested)

/-- R121: a cap that is raised, or removed, requests an evaluation. -/
def capLifted (before after : Option Nat) : Bool :=
  match before, after with
  | some _, none => true
  | some b, some a => decide (b < a)
  | none, _ => false

/-- R120, R121 for one group reached. -/
def capGroup (requested level : Nat) (s : State) (g : Nat) : State :=
  let before := (s.group g).cap
  let after := capOfRequest requested
  let s := s.modGroup g fun gr =>
    { gr with
      cap := after
      level := level
      phase := match gr.phase with
        | .queued => .queued
        | .sent => .sent
        | .idle => .settling (settleEnd s gr)
        | .settling _ => .settling (settleEnd s gr) }
  if capLifted before after then requestCore (s.group g).zone s else s

/-- R120: the frame as forwarded, rewritten with a new CHECK when its level changes. -/
def rewriteLevel (f : Frame) (p : LevelPayload) (level : Nat) : Frame :=
  if level = p.level then f
  else buildFrame f.dest f.src f.kind f.seq (levelPayload p.channel level p.fade)

/-- R118 to R120: a LEVEL from P2G presented at its grant: the frame to send, or none where it is declined. -/
def presentLevel (f : Frame) (s : State) : State × Option Frame :=
  match levelOf f.payload with
  | none => (s, some f)
  | some p =>
      let reached := groupsReached s f.dest p.channel
      if f.dest = broadcast then
        if channelBound s p.channel then (count .droppedCommands s, none) else (s, some f)
      else if reached.isEmpty then (s, some f)
      else if s.supervision.attended = false ∧ s.device.supervisionAction = .revert then
        (count .droppedCommands s, none)
      else
        let level := forwardedLevel s reached p.level
        let s := if level = p.level then s else count .clampedCommands s
        (reached.foldl (capGroup p.level level) s, some (rewriteLevel f p level))

end Sys2Proof.Machine
end

