-- ==== Sys2Proof/Machine/GalleryLine.lean ====
section
/-! DEFINITION. The Gallery Line Scheduler (02): the poll due list, the grant cycle, and the steps in which the line
changes by itself (GALLERY_TRANSMIT_COMPLETE, TURNAROUND_END, POLL_DUE). Replies are in `Replies`. -/

namespace Sys2Proof.Machine

/-! ### The poll due list (R31, R32) -/

/-- R31: by due time, and by node index where the due times are equal. -/
def pollBefore (a b : PollEntry) : Bool := decide (a.due < b.due ∨ a.due = b.due ∧ a.node < b.node)

def insertPoll (e : PollEntry) : List PollEntry → List PollEntry
  | [] => [e]
  | x :: xs => if pollBefore e x then e :: x :: xs else x :: insertPoll e xs

def removePoll (n : Nat) (l : List PollEntry) : List PollEntry := l.filter fun e => e.node != n

/-- R31: an enabled node is due at the running time of its enable. -/
def joinPollList (n : Nat) (s : State) : State :=
  { s with pollList := insertPoll ⟨n, runningMs s⟩ (removePoll n s.pollList) }

def leavePollList (n : Nat) (s : State) : State := { s with pollList := removePoll n s.pollList }

/-- R31: at the enabling of the port every node of the list is due, in order of index. -/
def setAllDue (s : State) : State :=
  { s with pollList :=
      (indicesWhere 64 fun n => s.pollList.any fun e => e.node == n).map fun n => ⟨n, runningMs s⟩ }

/-- R32: the later of the beat and the running time; a node that left the list is not rescheduled. -/
def reschedule (n : Nat) (s : State) : State :=
  match s.pollList.find? fun e => e.node == n with
  | none => s
  | some e =>
      { s with pollList :=
          insertPoll ⟨n, max (e.due + (s.node n).pollPeriod * 1000) (runningMs s)⟩ (removePoll n s.pollList) }

/-- R24: the head of the list is at or past its due time. -/
def pollHeadDue (s : State) : Bool :=
  match s.pollList with
  | [] => false
  | e :: _ => decide (e.due ≤ runningMs s)

/-! ### Sending -/

/-- R8: the port begins to drive, so a frame in assembly is abandoned and counted. -/
def abandonForDrive (s : State) : State :=
  match s.galleryAsm with
  | .hunt => s
  | .collect _ _ => count .galleryCharErrors { s with galleryAsm := .hunt }

/-- The line becomes SENDING with the transaction's record (R22, R23). -/
def startSending (kind : TransactionKind) (frame : Frame) (awaited accepts : Option Byte) (s : State) : State :=
  let s := abandonForDrive s
  { s with
    line := .busy ⟨kind, frame, awaited, accepts,
      .sending (s.now + frameChars frame.payload * charUnits s .gallery), []⟩ }

/-- R2: a frame of the part's own, with the own address and the port's sequence count, to a node that must answer. -/
def sendOwn (kind : TransactionKind) (dest frameKind : Byte) (payload : List Byte) (accepts : Byte) (s : State) :
    State :=
  startSending kind (buildFrame dest (ownOctet s) frameKind s.gallerySeq payload) (some dest) (some accepts)
    { s with gallerySeq := s.gallerySeq + 1 }

/-! ### The three grants (R28 to R30) -/

/-- R112: the group's own LEVEL, built as the group stands, or the declined presentation. -/
def presentCommand (g : Nat) (s : State) : State :=
  let gr := s.group g
  if nodeReachable s gr.node then
    sendOwn (.command g gr.node) (byteOfNat (s.node gr.node).address) kindLevel
      (levelPayload gr.channel gr.level 0) kindEcho (s.modGroup g fun x => { x with phase := .sent })
  else declineCommand g s

def grantCommand (s : State) : State :=
  match s.galleryOrigin with
  | [] => s
  | g :: rest => presentCommand g { s with galleryOrigin := rest }

/-- R29: the frame goes out as presented; its destination, unless broadcast, must answer. -/
def sendForward (f : Frame) (s : State) : State :=
  startSending .forward f (if f.dest = broadcast then none else some f.dest) none s

def presentForward (f : Frame) (s : State) : State :=
  if f.kind = kindLevel then
    match presentLevel f s with
    | (s, some f) => sendForward f s
    | (s, none) => s
  else sendForward f s

def grantForward (s : State) : State :=
  match s.p2g with
  | [] => s
  | f :: rest => presentForward f { s with p2g := rest }

/-- R51: what a POLL asks for. -/
def requestOctet (n : Node) : Byte :=
  match n.state with
  | .tagcheck => tagWanted
  | .displaced => tagWanted
  | .online => if n.recheckDue then tagWanted else sampleWanted
  | .absent => sampleWanted
  | .hunting => sampleWanted
  | .silent => sampleWanted

/-- R22: the reply kind that a POLL accepts. -/
def pollAccepts (n : Node) : Byte :=
  if requestOctet n = tagWanted then kindTag
  else match n.role with
    | .sensor => kindSample
    | .actuator => kindEcho

/-- R30: late by more than one full period. -/
def pollLate (s : State) (e : PollEntry) : Bool :=
  decide (e.due + (s.node e.node).pollPeriod * 1000 < runningMs s)

def grantPoll (s : State) : State :=
  match s.pollList with
  | [] => s
  | e :: _ =>
      let s := if pollLate s e then count .galleryLatePolls s else s
      let n := s.node e.node
      sendOwn (.poll e.node) (byteOfNat n.address) kindPoll [requestOctet n] (pollAccepts n) s

/-! ### The grant cycle (R24 to R26) -/

def classReady (s : State) (c : GrantClass) : Bool :=
  match c with
  | .command => !s.galleryOrigin.isEmpty
  | .forward => !s.p2g.isEmpty
  | .poll => pollHeadDue s

def classAfter : GrantClass → GrantClass
  | .command => .forward
  | .forward => .poll
  | .poll => .command

/-- R24: the first non-empty class from the pointer. -/
def chosenClass (s : State) : Option GrantClass :=
  [s.pointer, classAfter s.pointer, classAfter (classAfter s.pointer)].find? (classReady s)

def grantClass (c : GrantClass) (s : State) : State :=
  match c with
  | .command => grantCommand s
  | .forward => grantForward s
  | .poll => grantPoll s

/-- One grant from the pointer's position; a void grant leaves the line FREE. -/
def grantOnce (c : GrantClass) (s : State) : State := grantClass c { s with pointer := classAfter c }

def lineFree (s : State) : Bool := s.line == .free

/-- R26: grants are repeated until a frame is sent or every class is empty. -/
def grantLoop : Nat → State → State
  | 0, s => s
  | fuel + 1, s =>
      if lineFree s then
        match chosenClass s with
        | none => s
        | some c => grantLoop fuel (grantOnce c s)
      else s

/-- R24: the grant at a FREE line; at any other line nothing. Every void grant takes an entry or frame that waits now
(an entry that joins during the grants names a node that can be reached), so the fuel is never used up. -/
def grant (s : State) : State := grantLoop (s.galleryOrigin.length + s.p2g.length + 1) s

/-- R25: entries may have joined the gallery origin queue (log entry 25). -/
def grantJoined (s : State) : State := if s.galleryOrigin.isEmpty then s else grant s

/-- R102 with R25: a request for an evaluation of a zone, and the grant of what it commands. -/
def requestEvaluation (z : Nat) (s : State) : State := grantJoined (requestCore z s)

/-- R102 with R25: the zone's pending evaluation re-judged, and the grant of what it commands. -/
def rejudge (z : Nat) (s : State) : State := grantJoined (rejudgeZone z s)

/-- R14 and R25: an offer to P2G. -/
def offerP2g (f : Frame) (s : State) : State :=
  if portOn s .gallery && decide (s.p2g.length < p2gCapacity) then grant { s with p2g := s.p2g ++ [f] }
  else count .p2gDrops s

/-! ### The line's own steps -/

/-- R23: two character times, at the rate in force. -/
def turnaroundUnits (s : State) : Nat := 2 * charUnits s .gallery

/-- R23: the transaction has ended. -/
def beginTurnaround (s : State) : State := { s with line := .turnaround (s.now + turnaroundUnits s) }

/-- R33: the reply window opens with the length in force. -/
def openWindow (t : Transaction) (s : State) : State :=
  { s with line := .busy { t with phase := .window (s.now + s.device.replyWindow * unitsPerMs) } }

/-- R8, R23, R33: the port releases the pair. -/
def galleryTransmitComplete (s : State) : State :=
  match s.line with
  | .busy t =>
      match t.phase, t.awaited with
      | .sending _, some _ => openWindow t s
      | .sending _, none => beginTurnaround s
      | .window _, _ => s
  | _ => s

/-- GALLERY_TRANSMIT_COMPLETE (R8). -/
def execGalleryTransmitComplete (s : State) : Result :=
  .next (galleryTransmitComplete (taken .galleryTransmitComplete s))

/-- R23, R25: the line becomes FREE, and a grant is made. -/
def turnaroundEnd (s : State) : State :=
  match s.line with
  | .turnaround _ => grant { s with line := .free }
  | _ => s

/-- TURNAROUND_END (R23), taken whatever the clock shows (log entry 1). -/
def execTurnaroundEnd (s : State) : Result := .next (turnaroundEnd (taken .turnaroundEnd s))

/-- POLL_DUE (R25): the running time has reached the due time of the head. -/
def execPollDue (s : State) : Result := .next (grant (taken .pollDue s))

end Sys2Proof.Machine
end

