-- ==== Sys2Proof/Machine/LightModes.lean ====
section
/-! DEFINITION. The events of Light Group Control beyond the evaluation itself: the zone modes (R86, R101), the settle
timer (R115), a node that can be reached again (R111), enable and disable, and the removal of a cap (R122). What a
request writes makes no grant here: the Service Unit makes it after the whole request (R156). -/

namespace Sys2Proof.Machine

/-! ### Zone modes -/

/-- R86: whether a minute of day lies in the open hours. -/
def inOpenHours (opens closes m : Nat) : Bool :=
  if opens < closes then decide (opens ≤ m ∧ m < closes)
  else if closes < opens then decide (opens ≤ m ∨ m < closes)
  else false

/-- R101: the mode that a zone's fields and the Calendar give. -/
def judgedMode (c : Calendar) (z : Zone) : Mode :=
  match z.modeSource with
  | .forced => z.forcedMode
  | .auto => if c.isSet && inOpenHours z.openFrom z.openTo c.minute then .opened else .closed

/-- R101: whether the mode of a zone is judged anew. -/
def modeChanges (s : State) (z : Nat) : Bool :=
  (s.zone z).enable && (s.zone z).mode != judgedMode s.calendar (s.zone z)

/-- R101: the mode of one enabled zone is judged; a change is stored and requests an evaluation. -/
def judgeModeCore (z : Nat) (s : State) : State :=
  if modeChanges s z then requestCore z (s.modZone z fun zn => { zn with mode := judgedMode s.calendar zn }) else s

/-- R101 with R25: the judgement, and the grant of what its evaluation commands. -/
def judgeMode (z : Nat) (s : State) : State :=
  if modeChanges s z then grantJoined (judgeModeCore z s) else s

/-- R101: the mode of every enabled zone is judged. -/
def judgeModes (s : State) : State := forEach 24 judgeMode s

/-! ### The settle timer (R115) -/

def settling (g : Group) : Bool :=
  match g.phase with
  | .settling _ => true
  | .idle => false
  | .queued => false
  | .sent => false

def settleExpiry (g : Nat) (s : State) : State :=
  if settling (s.group g) then
    rejudge (s.group g).zone (s.modGroup g fun gr => { gr with phase := .idle })
  else s

/-- SETTLE_EXPIRY (R115). -/
def execSettleExpiry (g : Nat) (s : State) : Result := .next (settleExpiry g (taken (.settleExpiry g) s))

/-! ### A node that can be reached again (R111) -/

/-- R111: UNAVAILABLE is cleared on one enabled group of the node, and an evaluation of its zone requested. The grant is
made after the request that brought the node back (R156); after a reply the line is not FREE. The clear comes before the
evaluation (log entry 36). -/
def relieveGroup (n g : Nat) (s : State) : State :=
  if (s.group g).enable && (s.group g).node == n && (s.group g).unavailable then
    requestCore (s.group g).zone (changeJudged g (fun gr => { gr with unavailable := false }) s)
  else s

/-- R111: the node has left DISPLACED, or has been enabled. Its groups are taken in index order, each with its evaluation:
DESIGN CHOICE (log entry 36). -/
def nodeBack (n : Nat) (s : State) : State := forEach 48 (relieveGroup n) s

/-! ### Enable and disable of groups (R97, R98) -/

def groupEnableAllowed (s : State) (g : Nat) : Bool :=
  let gr := s.group g
  (s.zone gr.zone).enable && (s.node gr.node).enable && (s.node gr.node).role == .actuator &&
    !(List.range 48).any fun h =>
      h != g && (s.group h).enable && (s.group h).node == gr.node && (s.group h).channel == gr.channel

/-- What the enable and the disable of a group both set (R97, R98). -/
def restGroup (gr : Group) : Group :=
  { gr with
    cap := none, phase := .idle, misses := 0, resend := true,
    unavailable := false, blind := false, mismatch := false }

/-- R97. -/
def enableGroup (g : Nat) (s : State) : State :=
  requestCore (s.group g).zone
    (s.modGroup g fun gr => { restGroup gr with enable := true, level := gr.cleaning })

def groupDisableAllowed (s : State) (g : Nat) : Bool :=
  !(s.objects.any fun o => o.enable && o.lampGroup == some g) && !(s.zones.any fun z => z.enable && z.shade == some g)

/-- R98: the conditions of a group that are active by its record (log entry 20), in the order in which R98 lists
them (log entry 33). -/
def clearGroupConditions (g : Nat) (gr : Group) (s : State) : State :=
  let s := clearIf gr.blind .groupBlind g s
  let s := clearIf (groupSilent gr) .actuatorSilent g s
  clearIf gr.mismatch .levelMismatch g s

/-- R98: the entry of a QUEUED group is withdrawn, whatever the phase the group rests, and its zone is re-judged
after the clears (log entry 36). That the cap which the disable removes (R122) requests no evaluation, though R102 lists
the removal of a cap, is a DESIGN CHOICE (log entry 39). -/
def disableGroup (g : Nat) (s : State) : State :=
  let gr := s.group g
  let s := { s with galleryOrigin := s.galleryOrigin.filter fun h => h != g }
  let s := s.modGroup g fun x => { restGroup x with enable := false }
  rejudgeZone gr.zone (clearGroupConditions g gr s)

/-! ### The removal of a cap (R122) -/

def capClear (g : Nat) (s : State) : State :=
  if (s.group g).cap.isSome then
    requestCore (s.group g).zone (s.modGroup g fun gr => { gr with cap := none })
  else s

end Sys2Proof.Machine
end

