-- ==== Sys2Proof/Machine/Acquisition.lean ====
section
/-! DEFINITION. The Acquisition Monitor (03): the enable and disable of nodes and points, sequence continuity and the
node states, misses and success, tag polls, point states, and the application of a SAMPLE with spike hold. -/

namespace Sys2Proof.Machine

/-! ### Point states (R55) -/

/-- R55: three poll periods of the point's node, in seconds. -/
def freshLimit (n : Node) : Nat := 3 * n.pollPeriod

/-- R55: the first case that holds, also where R56 (STALE for an old point with its fault marker set) and R59 (FAULTED for
one that has accepted nothing) name another state: DESIGN CHOICE (log entry 38). -/
def pointStateOf (n : Node) (p : Point) : PointState :=
  if n.state ≠ .online ∨ p.accepted = false then .lost
  else if p.fault then .faulted
  else if p.age < freshLimit n then (if p.pending.isSome then .held else .fresh)
  else .stale

/-- R55: a judgement first discards a pending reading whose age has reached three periods; one with its fault marker set is
FAULTED then (log entry 38). -/
def judgedPoint (n : Node) (p : Point) : Point :=
  let p := if freshLimit n ≤ p.age then { p with pending := none } else p
  { p with state := pointStateOf n p }

def judgePoint (i : Nat) (s : State) : State :=
  s.modPoint i fun p => judgedPoint (s.node p.node) p

/-- R55, R56: the enabled points of a node are judged; one that leaves ONLINE takes their pending readings along. -/
def judgePointsOf (n : Nat) (leaving : Bool) (s : State) : State :=
  { s with points := s.points.map fun p =>
      if p.enable && p.node == n then
        judgedPoint (s.node n) (if leaving then { p with pending := none } else p)
      else p }

/-- R55: at a minute tick every enabled point is judged; a disabled point stays LOST. -/
def judgePoints (s : State) : State :=
  { s with points := s.points.map fun p => if p.enable then judgedPoint (s.node p.node) p else p }

/-! ### Node states -/

def online (s : State) (n : Nat) : Bool := (s.node n).state == .online

/-- A change of a node's record; when it enters or leaves ONLINE its points are judged (R55, R56). -/
def changeNode (n : Nat) (f : Node → Node) (s : State) : State :=
  let before := online s n
  let s := s.modNode n f
  if before == online s n then s else judgePointsOf n before s

/-- NODE_SILENT and NODE_DISPLACED cleared where the node's state before says they are active (log entry 20). -/
def clearNodeConditions (n : Nat) (before : NodeState) (s : State) : State :=
  clearIf (before == .displaced) .nodeDisplaced n (clearIf (before == .silent) .nodeSilent n s)

/-- R42. -/
def nodeEnableAllowed (s : State) (n : Nat) : Bool :=
  (s.node n).address != s.device.ownAddress &&
    !(List.range 64).any fun m => m != n && (s.node m).enable && (s.node m).address == (s.node n).address

/-- R41; the node joins the poll due list, and the grant of R25 follows the whole request (R156). -/
def enableNode (n : Nat) (s : State) : State :=
  let s := s.modNode n fun nd =>
    { nd with enable := true, state := .hunting, runLength := 0, misses := 0, recheckDue := false }
  nodeBack n (joinPollList n s)

/-- R42. -/
def nodeDisableAllowed (s : State) (n : Nat) : Bool :=
  !(s.points.any fun p => p.enable && p.node == n) && !(s.groups.any fun g => g.enable && g.node == n)

/-- R41. -/
def disableNode (n : Nat) (s : State) : State :=
  let before := (s.node n).state
  let s := changeNode n (fun nd =>
    { nd with enable := false, state := .absent, misses := 0, recheckDue := false }) s
  clearNodeConditions n before (leavePollList n s)

/-- R53, for an enabled node. Its conditions are cleared before R111 acts on its groups (log entry 36). -/
def rehuntNode (n : Nat) (s : State) : State :=
  let before := (s.node n).state
  let s := changeNode n (fun nd =>
    { nd with state := .hunting, runLength := 0, misses := 0, recheckDue := false }) s
  let s := clearNodeConditions n before s
  if before = .displaced then nodeBack n s else s

/-- R52: a write of tag check that takes it from on to off. -/
def tagCheckOff (n : Nat) (s : State) : State :=
  match (s.node n).state with
  | .tagcheck => changeNode n (fun nd => { nd with state := .online }) s
  | .online => s.modNode n fun nd => { nd with recheckDue := false }
  | .absent => s
  | .hunting => s
  | .silent => s
  | .displaced => s

/-- R52: at an hour roll. -/
def setRechecks (s : State) : State :=
  { s with nodes := s.nodes.map fun nd =>
      if nd.enable && nd.state == .online && nd.tagCheck then { nd with recheckDue := true } else nd }

/-! ### Continuity (R43 to R50) -/

/-- R43: the enabled node whose address is the SRC, the lowest index where the image left two (log entry 16). -/
def nodeOfSrc (s : State) (src : Byte) : Option Nat :=
  (List.range 64).find? fun n => (s.node n).enable && (s.node n).address == src.toNat

/-- R43: the gap, modulo 256. -/
def gapOf (nd : Node) (f : Frame) : Nat := (f.seq - nd.lastSeq).toNat

/-- R46: a duplicate is judged in ONLINE only. -/
def isDuplicate (nd : Node) (f : Frame) : Bool := nd.state == .online && gapOf nd f == 0

/-- The record with the frame's SEQ, and with its tag when it is a TAG (03, received tag). -/
def noted (f : Frame) (nd : Node) : Node :=
  { nd with
    lastSeq := f.seq
    receivedTag := if f.kind = kindTag then tagOf f.payload else nd.receivedTag }

/-- R44: the run length that a frame leaves. -/
def runAfter (nd : Node) (f : Frame) : Nat :=
  if nd.runLength = 0 then 1 else if gapOf nd f = 1 then nd.runLength + 1 else 1

/-- R44. -/
def takeHunting (n : Nat) (f : Frame) (s : State) : State :=
  changeNode n (fun nd =>
    let run := runAfter nd f
    { noted f nd with
      runLength := run
      state := if 3 ≤ run then (if nd.tagCheck then .tagcheck else .online) else .hunting }) s

/-- R45, R47: an unequal tag. -/
def becomeDisplaced (n : Nat) (f : Frame) (s : State) : State :=
  let s := changeNode n (fun nd => { noted f nd with state := .displaced, recheckDue := false }) s
  raise .nodeDisplaced n (s.node n).address s

/-- R45: a frame of any other kind only sets last SEQ. -/
def takeTagcheck (n : Nat) (f : Frame) (s : State) : State :=
  if f.kind = kindTag then
    if tagOf f.payload = (s.node n).expectedTag then
      changeNode n (fun nd => { noted f nd with state := .online }) s
    else becomeDisplaced n f s
  else s.modNode n (noted f)

/-- R46: the node has restarted. -/
def takeRestarted (n : Nat) (f : Frame) (s : State) : State :=
  changeNode n (fun nd => { noted f nd with state := .hunting, runLength := 1, recheckDue := false }) s

/-- R46: lost replies, of which a gap of 1 adds none. -/
def countLost (gap : Nat) (nd : Node) : Node := { nd with lostReplies := satAdd top16 nd.lostReplies (gap - 1) }

/-- R46, R47: a frame in sequence, or after lost ones. -/
def takeInSequence (n : Nat) (f : Frame) (s : State) : State :=
  let s := s.modNode n fun nd => countLost (gapOf nd f) nd
  if f.kind = kindTag ∧ (s.node n).tagCheck = true then
    if tagOf f.payload = (s.node n).expectedTag then
      s.modNode n fun nd => { noted f nd with recheckDue := false }
    else becomeDisplaced n f s
  else s.modNode n (noted f)

/-- R46. -/
def takeOnline (n : Nat) (f : Frame) (s : State) : State :=
  let gap := gapOf (s.node n) f
  if gap = 0 then s.modNode n fun nd => { nd with duplicates := satAdd top16 nd.duplicates 1 }
  else if gap ≤ 16 then takeInSequence n f s
  else takeRestarted n f s

/-- R49. -/
def takeSilent (n : Nat) (f : Frame) (s : State) : State :=
  clear .nodeSilent n (s.modNode n fun nd => { noted f nd with state := .hunting, runLength := 1 })

/-- R50. A TAG is compared whatever tag check holds, which R50 does not name: DESIGN CHOICE (log entry 34). NODE_DISPLACED
is cleared before R111 acts on the node's groups: DESIGN CHOICE (log entry 36). -/
def takeDisplaced (n : Nat) (f : Frame) (s : State) : State :=
  if f.kind = kindTag ∧ tagOf f.payload = (s.node n).expectedTag then
    nodeBack n (clear .nodeDisplaced n
      (s.modNode n fun nd => { noted f nd with state := .hunting, runLength := 1 }))
  else s.modNode n (noted f)

/-- R43: a frame taken for an enabled node, by the state the node is in. -/
def takeFrame (n : Nat) (f : Frame) (s : State) : State :=
  match (s.node n).state with
  | .absent => s
  | .hunting => takeHunting n f s
  | .tagcheck => takeTagcheck n f s
  | .online => takeOnline n f s
  | .silent => takeSilent n f s
  | .displaced => takeDisplaced n f s

/-! ### Misses and success (R48) -/

def nodeSuccess (n : Nat) (s : State) : State :=
  if (s.node n).enable then s.modNode n fun nd => { nd with misses := 0 } else s

def becomeSilent (n : Nat) (s : State) : State :=
  let s := changeNode n (fun nd => { nd with state := .silent, recheckDue := false }) s
  raise .nodeSilent n (s.node n).address s

def nodeMiss (n : Nat) (s : State) : State :=
  if (s.node n).enable then
    let s := s.modNode n fun nd => { nd with misses := satAdd 255 nd.misses 1 }
    if online s n && decide (s.device.silenceThreshold ≤ (s.node n).misses) then becomeSilent n s else s
  else s

/-! ### The enable and disable of points (R54) -/

def pointEnableAllowed (s : State) (i : Nat) : Bool :=
  let p := s.point i
  (s.node p.node).enable && (s.node p.node).role == .sensor && (s.zone p.zone).enable &&
    !(List.range 192).any fun j =>
      j != i && (s.point j).enable && (s.point j).node == p.node && (s.point j).channel == p.channel

def enablePoint (i : Nat) (s : State) : State :=
  s.modPoint i fun p =>
    { p with
      enable := true, value := 0, state := .lost, age := 65535, pending := none, clamps := 0,
      accepted := false, fault := false }

def pointDisableAllowed (s : State) (i : Nat) : Bool :=
  !s.objects.any fun o => o.enable && (o.lightPoint == i || o.uvPoint == some i)

def disablePoint (i : Nat) (s : State) : State :=
  clearIf (s.point i).fault .pointFault i
    (s.modPoint i fun p => { p with enable := false, state := .lost, pending := none, fault := false })

/-! ### The age (R57) -/

def ageAll (s : State) : State :=
  { s with points := s.points.map fun p => { p with age := satAdd top16 p.age 1 } }

/-- POINT_AGE_SECOND (R57), a second whatever the clock shows (log entry 1). -/
def execPointAgeSecond (s : State) : Result := .next (ageAll (taken .pointAgeSecond s))

/-! ### Readings (R58 to R63) -/

/-- The range of a quantity (00, Units and ranges; R60). -/
def rangeLow : Quantity → Int
  | .illum => 0
  | .uvr => 0
  | .temp => -4000
  | .rh => 0

def rangeHigh : Quantity → Int
  | .illum => 65000
  | .uvr => 5000
  | .temp => 8500
  | .rh => 10000

/-- R60: signed for TEMP. -/
def sentValue (q : Quantity) (raw : Half) : Int :=
  match q with
  | .temp => raw.toInt
  | .illum => raw.toNat
  | .uvr => raw.toNat
  | .rh => raw.toNat

/-- R60: the reading's value by its quality. -/
def readingValue (r : Reading) : Int :=
  match r.quality with
  | .over => rangeHigh r.quantity
  | .under => rangeLow r.quantity
  | .good => clampInt (rangeLow r.quantity) (rangeHigh r.quantity) (sentValue r.quantity r.raw)
  | .fault => sentValue r.quantity r.raw

/-- R60: the spike limit of the point's zone for its quantity; ILLUM and UVR have none. -/
def spikeLimit (s : State) (p : Point) : Int :=
  match p.quantity with
  | .temp => (s.zone p.zone).temp.spike
  | .rh => (s.zone p.zone).rh.spike
  | .illum => 0
  | .uvr => 0

/-- R59. A point that has accepted nothing stays LOST, by the order of R55: DESIGN CHOICE (log entry 38). -/
def faultReading (i : Nat) (s : State) : State :=
  let p := s.point i
  let s := judgePoint i (s.modPoint i fun p => { p with fault := true, pending := none })
  if p.fault then s else raise .pointFault i p.zone s

/-- R61. POINT_FAULT is cleared before the evaluation is requested (log entry 36). -/
def acceptValue (i : Nat) (v : Int) (s : State) : State :=
  let p := s.point i
  let s := s.modPoint i fun p => { p with value := v, age := 0, accepted := true, fault := false }
  let s := judgePoint i (clearIf p.fault .pointFault i s)
  if p.quantity = .illum then requestEvaluation p.zone s else s

/-- R62, R63: the reading is held as the pending value. Where the point's age is 3 poll periods or more already, the
judgement of R55 discards it at once, and the point is STALE (or FAULTED) and not HELD as R62 and R63 say: DESIGN CHOICE
(log entry 38). -/
def holdValue (i : Nat) (v : Int) (s : State) : State :=
  judgePoint i (s.modPoint i fun p => { p with pending := some v })

def dropPending (i : Nat) (s : State) : State := s.modPoint i fun p => { p with pending := none }

/-- Two values differ by no more than a limit. -/
def within (limit a b : Int) : Bool := decide (a - b ≤ limit ∧ b - a ≤ limit)

/-- R63: the reading `v` settles the pending reading `q`. -/
def settleReading (i : Nat) (q v : Int) (s : State) : State :=
  let x := spikeLimit s (s.point i)
  if x = 0 then acceptValue i v (dropPending i s)
  else if within x v q then acceptValue i v (acceptValue i q (dropPending i s))
  else if within x v (s.point i).value then acceptValue i v (dropPending i s)
  else holdValue i v s

/-- R60, R62: a reading of a point with none pending. -/
def freshReading (i : Nat) (v : Int) (s : State) : State :=
  let p := s.point i
  let x := spikeLimit s p
  if x = 0 ∨ p.accepted = false then acceptValue i v s
  else if within x v p.value then acceptValue i v s
  else holdValue i v s

/-- R60: a value of quality GOOD, OVER or UNDER, with the range clamp counted. -/
def valueReading (i : Nat) (r : Reading) (s : State) : State :=
  let v := readingValue r
  let s :=
    if v = sentValue r.quantity r.raw then s
    else s.modPoint i fun p => { p with clamps := satAdd top16 p.clamps 1 }
  match (s.point i).pending with
  | some q => settleReading i q v s
  | none => freshReading i v s

/-- R58: the enabled point of a node and channel. -/
def pointOnChannel (s : State) (n ch : Nat) : Option Nat :=
  (List.range 192).find? fun i => (s.point i).enable && (s.point i).node == n && (s.point i).channel == ch

/-- R58: one reading of a SAMPLE of node `n`. -/
def applyReading (n : Nat) (s : State) (r : Reading) : State :=
  match pointOnChannel s n r.channel with
  | none => s
  | some i =>
      if r.quantity ≠ (s.point i).quantity then
        s.modNode n fun nd => { nd with duplicates := satAdd top16 nd.duplicates 1 }
      else if r.quality = .fault then faultReading i s
      else valueReading i r s

/-- R58: the readings of a SAMPLE, in payload order. -/
def applySample (n : Nat) (payload : List Byte) (s : State) : State :=
  ((readingsOf payload).getD []).foldl (applyReading n) s

end Sys2Proof.Machine
end

