-- ==== Sys2Proof/Machine/Climate.lean ====
section
/-! DEFINITION. The Climate Supervisor (07): the narrowed band, the enable and disable of zones, the zone values, the
band machines, the hourly humidity ring and drift, the setpoint glide, and TRIM. -/

namespace Sys2Proof.Machine

/-! ### The narrowed band (R123) -/

/-- R123: the midpoint, rounded down. -/
def midpoint (c : Climate) : Int := (c.lo + c.hi) / 2

def narrowEmpty (c : Climate) : Bool := decide (c.hi - c.hysteresis < c.lo + c.hysteresis)

def nLo (c : Climate) : Int := if narrowEmpty c then midpoint c else c.lo + c.hysteresis

def nHi (c : Climate) : Int := if narrowEmpty c then midpoint c else c.hi - c.hysteresis

/-- R127: the setpoint brought into the narrowed band. -/
def clampSetpoint (c : Climate) : Climate :=
  { c with setpoint := if c.setpoint < nLo c then nLo c else if nHi c < c.setpoint then nHi c else c.setpoint }

/-! ### The two quantities of a zone -/

inductive ClimateQuantity where
  | rh
  | temp
  deriving DecidableEq, Repr

def climateOf (q : ClimateQuantity) (z : Zone) : Climate :=
  match q with
  | .rh => z.rh
  | .temp => z.temp

def withClimate (q : ClimateQuantity) (c : Climate) (z : Zone) : Zone :=
  match q with
  | .rh => { z with rh := c }
  | .temp => { z with temp := c }

/-- The quantity of the points that give the zone value. -/
def pointQuantity : ClimateQuantity → Quantity
  | .rh => .rh
  | .temp => .temp

/-- R136: the condition of the quantity's excursion. -/
def excursionKind : ClimateQuantity → ConditionKind
  | .rh => .rhExcursion
  | .temp => .tExcursion

/-! ### TRIM (R140) -/

def trimFrame (z : Nat) (zn : Zone) : OriginFrame where
  dest := byteOfNat zn.airAddress
  kind := kindTrim
  payload := byteOfNat zn.airChannel :: octetsOfAll [halfOfInt zn.rh.setpoint, halfOfInt zn.temp.setpoint]
  tag := .trim z

/-- R140: an enabled zone with an air handler offers its setpoints. -/
def offerTrim (z : Nat) (s : State) : State :=
  if (s.zone z).enable && (s.zone z).airAddress != 0 then offerOrigin (trimFrame z (s.zone z)) s else s

/-! ### Enable, disable and writes (R124 to R127) -/

/-- R124: what a zone's quantity holds after the enable. -/
def startClimate (c : Climate) : Climate :=
  clampSetpoint { c with value := none, band := .inBand, timer := 0 }

def zoneEnableAllowed (s : State) (z : Nat) : Bool := (s.zone z).shade.isNone

/-- R124. The TRIM is offered before the mode is judged: DESIGN CHOICE (log entry 36). -/
def enableZone (z : Nat) (s : State) : State :=
  let s := s.modZone z fun zn =>
    { zn with
      enable := true, rh := startClimate zn.rh, temp := startClimate zn.temp,
      hourSum := 0, hourCount := 0, ring := [], span := 0, blind := false, drift := false }
  judgeModeCore z (offerTrim z s)

/-- R125. -/
def zoneDisableAllowed (s : State) (z : Nat) : Bool :=
  !(s.points.any fun p => p.enable && p.zone == z) &&
    !(s.objects.any fun o => o.enable && o.zone == z) &&
    !(s.groups.any fun g => g.enable && g.zone == z)

/-- R125: what a zone's quantity holds after the disable. -/
def stopClimate (c : Climate) : Climate := { c with value := none, band := .inBand, timer := 0 }

/-- R125. The conditions are cleared in the order in which the rule lists them (log entry 33). -/
def disableZone (z : Nat) (s : State) : State :=
  let zn := s.zone z
  let s := s.modZone z fun zn =>
    { zn with
      enable := false, rh := stopClimate zn.rh, temp := stopClimate zn.temp, blind := false, drift := false }
  let s := clearIf (excursionActive zn.rh.band) .rhExcursion z s
  let s := clearIf (excursionActive zn.temp.band) .tExcursion z s
  let s := clearIf zn.drift .rhDrift z s
  clearIf zn.blind .zoneBlind z s

/-- R127: a band field of a quantity has been stored. -/
def bandStored (q : ClimateQuantity) (z : Nat) (s : State) : State :=
  let before := (climateOf q (s.zone z)).setpoint
  let s := s.modZone z fun zn => withClimate q (clampSetpoint (climateOf q zn)) zn
  if (climateOf q (s.zone z)).setpoint = before then s else offerTrim z s

/-! ### Zone values (R130 to R132) -/

/-- R130: the points that give the value of a quantity. -/
def usedPoints (s : State) (z : Nat) (q : ClimateQuantity) : List Point :=
  s.points.toList.filter fun p => p.enable && p.zone == z && p.quantity == pointQuantity q && countsFresh p

/-- A sum divided by a number above 0, rounded half up (00, Arithmetic). -/
def roundedMean (sum : Int) (n : Nat) : Int := (2 * sum + n) / (2 * n)

/-- R130. -/
def zoneValue (s : State) (z : Nat) (q : ClimateQuantity) : Option Int :=
  let values := (usedPoints s z q).map Point.value
  if values.isEmpty then none else some (roundedMean values.sum values.length)

/-- R131: whether the zone has a point of the quantity. -/
def hasPoint (s : State) (z : Nat) (q : ClimateQuantity) : Bool :=
  s.points.any fun p => p.enable && p.zone == z && p.quantity == pointQuantity q

/-- R131: a quantity with points and no value. -/
def quantityBlind (s : State) (z : Nat) (q : ClimateQuantity) : Bool :=
  hasPoint s z q && (climateOf q (s.zone z)).value.isNone

/-- R131: the detail names the quantities that are blind. -/
def blindDetail (rh temp : Bool) : Nat := (if rh then 1 else 0) + (if temp then 2 else 0)

/-- R131. -/
def judgeBlind (z : Nat) (s : State) : State :=
  let rh := quantityBlind s z .rh
  let temp := quantityBlind s z .temp
  let before := (s.zone z).blind
  follow .zoneBlind z (blindDetail rh temp) before (rh || temp)
    (s.modZone z fun zn => { zn with blind := rh || temp })

/-- R130. -/
def formValues (z : Nat) (s : State) : State :=
  let rh := zoneValue s z .rh
  let temp := zoneValue s z .temp
  s.modZone z fun zn =>
    { zn with rh := { zn.rh with value := rh }, temp := { zn.temp with value := temp } }

/-- R132. -/
def addToHour (zn : Zone) : Zone :=
  match zn.rh.value with
  | none => zn
  | some v =>
      { zn with hourSum := satAdd top32 zn.hourSum v.toNat, hourCount := satAdd top16 zn.hourCount 1 }

/-! ### The band machines (R133 to R136) -/

def aboveBand (c : Climate) (v : Int) : Bool := decide (c.hi < v)
def belowBand (c : Climate) (v : Int) : Bool := decide (v < c.lo)
def insideNarrow (c : Climate) (v : Int) : Bool := decide (nLo c ≤ v ∧ v ≤ nHi c)

/-- One step of a machine before the persistence test: the next state and timer, whether an excursion is cleared by a
crossing, and whether the test follows. -/
structure BandMove where
  band : BandState
  timer : Nat
  cleared : Bool
  tested : Bool
  deriving DecidableEq, Repr

/-- R133 to R135: the step for a known value. -/
def bandMove (c : Climate) (v : Int) : BandMove :=
  let goHigh (cleared : Bool) : BandMove := ⟨.pendingHigh, 1, cleared, true⟩
  let goLow (cleared : Bool) : BandMove := ⟨.pendingLow, 1, cleared, true⟩
  match c.band with
  | .inBand =>
      if aboveBand c v then goHigh false else if belowBand c v then goLow false
      else ⟨.inBand, 0, false, false⟩
  | .pendingHigh =>
      if aboveBand c v then ⟨.pendingHigh, c.timer + 1, false, true⟩
      else if belowBand c v then goLow false
      else ⟨.inBand, 0, false, false⟩
  | .pendingLow =>
      if belowBand c v then ⟨.pendingLow, c.timer + 1, false, true⟩
      else if aboveBand c v then goHigh false
      else ⟨.inBand, 0, false, false⟩
  | .high =>
      if belowBand c v then goLow true
      else if aboveBand c v || decide (nHi c < v) then ⟨.high, 0, false, false⟩
      else ⟨.returningHigh, 1, false, true⟩
  | .low =>
      if aboveBand c v then goHigh true
      else if belowBand c v || decide (v < nLo c) then ⟨.low, 0, false, false⟩
      else ⟨.returningLow, 1, false, true⟩
  | .returningHigh =>
      if aboveBand c v then ⟨.high, 0, false, false⟩
      else if belowBand c v then goLow true
      else if insideNarrow c v then ⟨.returningHigh, c.timer + 1, false, true⟩
      else ⟨.returningHigh, c.timer, false, false⟩
  | .returningLow =>
      if belowBand c v then ⟨.low, 0, false, false⟩
      else if aboveBand c v then goHigh true
      else if insideNarrow c v then ⟨.returningLow, c.timer + 1, false, true⟩
      else ⟨.returningLow, c.timer, false, false⟩

/-- R136: where a tested timer at or above the persistence takes the machine. -/
def persisted (b : BandState) : BandState :=
  match b with
  | .pendingHigh => .high
  | .pendingLow => .low
  | .returningHigh => .inBand
  | .returningLow => .inBand
  | .inBand => .inBand
  | .high => .high
  | .low => .low

/-- R136: the persistence test of a move. -/
def moveCompletes (persistence : Nat) (m : BandMove) : Bool := m.tested && decide (persistence ≤ m.timer)

/-- R136: the condition that follows a completed move. -/
def bandCondition (q : ClimateQuantity) (z : Nat) (b : BandState) (s : State) : State :=
  match b with
  | .pendingHigh => raise (excursionKind q) z 1 s
  | .pendingLow => raise (excursionKind q) z 2 s
  | .returningHigh => clear (excursionKind q) z s
  | .returningLow => clear (excursionKind q) z s
  | .inBand => s
  | .high => s
  | .low => s

/-- The machine after a move and its test. -/
def movedBand (persistence : Nat) (m : BandMove) (c : Climate) : Climate :=
  if moveCompletes persistence m then { c with band := persisted m.band, timer := 0 }
  else { c with band := m.band, timer := m.timer }

/-- R133 to R136: one machine of one zone steps; an unknown value holds it. -/
def stepBand (q : ClimateQuantity) (z : Nat) (s : State) : State :=
  let zn := s.zone z
  let c := climateOf q zn
  match c.value with
  | none => s
  | some v =>
      let m := bandMove c v
      let s := s.modZone z fun zn => withClimate q (movedBand zn.persistence m (climateOf q zn)) zn
      let s := clearIf m.cleared (excursionKind q) z s
      if moveCompletes zn.persistence m then bandCondition q z m.band s else s

/-- R129: one zone at a minute tick. -/
def climateMinuteZone (z : Nat) (s : State) : State :=
  if (s.zone z).enable then
    stepBand .temp z (stepBand .rh z ((judgeBlind z (formValues z s)).modZone z addToHour))
  else s

/-- R129. -/
def climateMinute (s : State) : State := forEach 24 climateMinuteZone s

/-! ### The hour roll (R137 to R140) -/

def ringCapacity : Nat := 24

/-- R137: the hour mean, or absent. -/
def hourMean (zn : Zone) : Option Int :=
  if zn.hourCount = 0 then none else some (roundedMean zn.hourSum zn.hourCount)

/-- R137: the ring after a push, oldest first. -/
def pushRing (entry : Option Int) (ring : List (Option Int)) : List (Option Int) :=
  (if ringCapacity ≤ ring.length then ring.drop 1 else ring) ++ [entry]

/-- R137. -/
def closeHour (zn : Zone) : Zone :=
  { zn with ring := pushRing (hourMean zn) zn.ring, hourSum := 0, hourCount := 0 }

/-- R138: the span of the present entries, or none when fewer than six are present. -/
def ringSpan (ring : List (Option Int)) : Option Int :=
  let present := ring.filterMap id
  if present.length < 6 then none else some (present.max?.getD 0 - present.min?.getD 0)

/-- R138: the clearing threshold. -/
def driftThreshold (zn : Zone) : Int := max 0 (zn.driftLimit - zn.rh.hysteresis)

/-- R138: the DRIFT flag after the judgement of a span. -/
def driftAfter (zn : Zone) (span : Int) : Bool :=
  if zn.drift then decide (driftThreshold zn < span) else decide (zn.driftLimit < span)

/-- R138. -/
def judgeDrift (z : Nat) (s : State) : State :=
  let zn := s.zone z
  match ringSpan zn.ring with
  | none => s
  | some span =>
      follow .rhDrift z span.toNat zn.drift (driftAfter zn span)
        (s.modZone z fun zn => { zn with span := span, drift := driftAfter zn span })

/-- R139: a setpoint moved towards its target by at most `g`, and brought into the narrowed band. -/
def glideBy (g : Int) (c : Climate) : Climate :=
  clampSetpoint { c with setpoint := c.setpoint + clampInt (-g) g (c.target - c.setpoint) }

/-- R139: the step of RH is halved while DRIFT is set. -/
def rhStep (zn : Zone) : Int := if zn.drift then zn.rh.glide / 2 else zn.rh.glide

def glide (zn : Zone) : Zone :=
  { zn with rh := glideBy (rhStep zn) zn.rh, temp := glideBy zn.temp.glide zn.temp }

/-- R137 to R140: one zone at an hour roll. -/
def climateHourZone (z : Nat) (s : State) : State :=
  if (s.zone z).enable then
    offerTrim z ((judgeDrift z (s.modZone z closeHour)).modZone z glide)
  else s

def climateHour (s : State) : State := forEach 24 climateHourZone s

end Sys2Proof.Machine
end

