-- ==== Sys2Proof/Machine/Exposure.lean ====
section
/-! DEFINITION. The Exposure Accumulator (05): the enable and disable of objects, minute accrual, the paced ceiling, the
hour and day folds, the year roll and DOSE_SET. -/

namespace Sys2Proof.Machine

/-! ### The paced ceiling (R88 to R90) -/

/-- R88: the remaining budget, 0 when the dose has reached it. -/
def remainingBudget (o : Obj) : Nat := o.budget - o.dose

/-- R88: the paced figure, for a P above 0. -/
def pacedFigure (o : Obj) : Nat := remainingBudget o * 60 / o.remaining

/-- R88: the first case that holds. -/
def pacedCeiling (o : Obj) : Obj :=
  if remainingBudget o = 0 then { o with ceiling := o.cfloor, exhausted := true, paceShort := false }
  else if o.remaining = 0 then { o with ceiling := o.cmax, exhausted := false, paceShort := false }
  else
    { o with
      ceiling :=
        if o.cmax < pacedFigure o then o.cmax
        else if pacedFigure o < o.cfloor then o.cfloor
        else pacedFigure o
      exhausted := false
      paceShort := decide (pacedFigure o < o.cfloor) }

/-- R89: the computation, with the conditions that follow the two flags. Where both move, DOSE_EXHAUSTED is handed on
first: DESIGN CHOICE (log entry 33). -/
def computeCeiling (i : Nat) (s : State) : State :=
  let o := s.object i
  let s := s.modObject i pacedCeiling
  let o' := s.object i
  follow .paceShort i o.zone o.paceShort o'.paceShort
    (follow .doseExhausted i o.zone o.exhausted o'.exhausted s)

/-- R89, R90: the computation on an enabled object; a change of C requests an evaluation of its zone. -/
def ceilingCore (i : Nat) (s : State) : State :=
  let o := s.object i
  if o.enable then
    let s := computeCeiling i s
    if (s.object i).ceiling = o.ceiling then s else requestCore o.zone s
  else s

/-- R89, R90 with R25: the computation, and the grant of what its evaluation commands. -/
def ceilingEvent (i : Nat) (s : State) : State :=
  let u := ceilingCore i s
  if (s.object i).ceiling = (u.object i).ceiling then u else grantJoined u

/-! ### Enable and disable (R74 to R76) -/

/-- R74: an enabled point of a quantity, bound to the zone. -/
def pointServes (s : State) (z : Nat) (q : Quantity) (i : Nat) : Bool :=
  (s.point i).enable && (s.point i).quantity == q && (s.point i).zone == z

/-- R74: an enabled LAMP group of the zone. -/
def lampServes (s : State) (z g : Nat) : Bool :=
  (s.group g).enable && (s.group g).kind == .lamp && (s.group g).zone == z

def objectEnableAllowed (s : State) (i : Nat) : Bool :=
  let o := s.object i
  (s.zone o.zone).enable && pointServes s o.zone .illum o.lightPoint &&
    o.uvPoint.all (pointServes s o.zone .uvr) && o.lampGroup.all (lampServes s o.zone)

/-- R75. DOSE_UNKNOWN is raised before the conditions of the ceiling computation: DESIGN CHOICE (log entry 33). -/
def enableObject (i : Nat) (s : State) : State :=
  let s := s.modObject i fun o => { o with enable := true }
  let s := if (s.object i).unknown then raise .doseUnknown i (s.object i).zone s else s
  ceilingCore i s

/-- R76: the conditions of an object that are active by its flags (log entry 20), cleared in the order in which R76
lists them: DESIGN CHOICE (log entry 33). -/
def clearObjectConditions (i : Nat) (o : Obj) (s : State) : State :=
  let s := clearIf o.exhausted .doseExhausted i s
  let s := clearIf o.paceShort .paceShort i s
  let s := clearIf o.degraded .sourceDegraded i s
  let s := clearIf o.overMarker .overCeiling i s
  clearIf o.unknown .doseUnknown i s

/-- R76. -/
def disableObject (i : Nat) (s : State) : State :=
  clearObjectConditions i (s.object i)
    (s.modObject i fun o =>
      { o with enable := false, exhausted := false, paceShort := false, degraded := false, overMarker := false })

/-! ### Minute accrual (R80 to R87) -/

/-- What a minute tick carries (R64): the calendar state, and the identity of the minute that ended: year, day of year
and minute of day while SET; local day and local minute of day, with year 0, while UNSET. -/
structure Tick where
  isSet : Bool
  year : Nat
  day : Nat
  minute : Nat
  deriving DecidableEq, Repr

/-- R81. A negative value, which only a TEMP point that an inconsistent image names can hold, reads as 0: DESIGN CHOICE
(log entry 35). -/
def illuminance (s : State) (o : Obj) : Nat :=
  let p := s.point o.lightPoint
  if countsFresh p then p.value.toNat else max p.value.toNat o.assumed

/-- R82: the weight of a fresh UV value. -/
def uvWeight (o : Obj) (u : Nat) : Nat :=
  if o.uvLimit < u then min 4000 (1000 + o.uvSlope * (u - o.uvLimit)) else 1000

/-- R82. A negative value reads as 0, as in R81 (log entry 35). -/
def weightOf (s : State) (o : Obj) : Nat :=
  match o.uvPoint with
  | none => 1000
  | some u => if countsFresh (s.point u) then uvWeight o (s.point u).value.toNat else o.weight

/-- R83: the light point, and the UV point if present, count as fresh. -/
def sourcesFresh (s : State) (o : Obj) : Bool :=
  countsFresh (s.point o.lightPoint) && o.uvPoint.all fun u => countsFresh (s.point u)

/-- R84: the effective illuminance of the minute. -/
def effective (e w : Nat) : Nat := e * w / 1000

/-- R84: the dose and its fraction. -/
def addDose (eff : Nat) (o : Obj) : Obj :=
  { o with
    dose := satAdd top32 o.dose ((o.fraction + eff) / 60)
    fraction := (o.fraction + eff) % 60 }

/-- R85: the period doses and the peak. -/
def addPeriods (eff : Nat) (o : Obj) : Obj :=
  { o with
    thisHour := satAdd top32 o.thisHour eff
    today := satAdd top32 o.today eff
    peak := max o.peak eff }

/-- R86: whether the minute that ended was an open minute for objects of the zone. -/
def openMinute (t : Tick) (z : Zone) : Bool :=
  z.enable && (match z.modeSource with
    | .auto => t.isSet && inOpenHours z.openFrom z.openTo t.minute
    | .forced => z.forcedMode == .opened)

/-- R86: P falls by 1 in an open minute, and stays at 0. -/
def spendOpen (isOpen : Bool) (o : Obj) : Obj := if isOpen then { o with remaining := o.remaining - 1 } else o

/-- R87: the count of a minute over the ceiling. -/
def countOver (e : Nat) (o : Obj) : Obj :=
  if o.ceiling < e then { o with overMinutes := satAdd top16 o.overMinutes 1 } else o

/-- R87: a minute over the ceiling that must raise OVER_CEILING. -/
def overDue (e : Nat) (o : Obj) : Bool :=
  decide (o.ceiling < e ∧ o.overThreshold ≠ 0 ∧ o.overThreshold ≤ o.overMinutes) && !o.overMarker

/-- R87, the condition: judged after the count has risen. -/
def judgeOver (i e : Nat) (s : State) : State :=
  if overDue e (s.object i) then
    raise .overCeiling i (s.object i).zone (s.modObject i fun o => { o with overMarker := true })
  else s

/-- R80, steps 2 to 6, on the record. -/
def accrued (isOpen : Bool) (e w : Nat) (degraded : Bool) (o : Obj) : Obj :=
  countOver e (spendOpen isOpen (addPeriods (effective e w)
    (addDose (effective e w) { o with weight := w, degraded := degraded })))

/-- R80: one object at a minute tick. -/
def accrueObject (t : Tick) (i : Nat) (s : State) : State :=
  let o := s.object i
  if o.enable then
    let e := illuminance s o
    let fresh := sourcesFresh s o
    let s := s.modObject i (accrued (openMinute t (s.zone o.zone)) e (weightOf s o) (!fresh))
    let s := follow .sourceDegraded i o.zone o.degraded (!fresh) s
    ceilingEvent i (judgeOver i e s)
  else s

/-- R80: every enabled object. -/
def accrue (t : Tick) (s : State) : State := forEach 256 (accrueObject t) s

/-! ### Hour and day folding (R91, R92) -/

def foldHour (o : Obj) : Obj := { o with lastHour := o.thisHour, thisHour := 0 }

/-- R91: every object of the table. -/
def foldHours (s : State) : State := { s with objects := s.objects.map foldHour }

def foldDay (o : Obj) : Obj :=
  { o with yesterday := o.today, today := 0, peak := 0, overMinutes := 0, overMarker := false }

/-- R92 for one object. -/
def foldDayObject (i : Nat) (s : State) : State :=
  clearIf (s.object i).overMarker .overCeiling i (s.modObject i foldDay)

/-! ### The year roll (R73, R93) -/

/-- R73: dates are compared by year first. -/
def dateAtOrAfter (d e : Date) : Bool := decide (e.year < d.year ∨ e.year = d.year ∧ e.day ≤ d.day)

/-- R73: whether a date is at or after the object's next start date. -/
def rollDue (d : Date) (o : Obj) : Bool := dateAtOrAfter d ⟨o.lastRoll + 1, o.startDay⟩

/-- R73: the year in which the accounting year that a date lies in began. -/
def rollYear (d : Date) (startDay : Nat) : Nat := if startDay ≤ d.day then d.year else d.year - 1

/-- R93, steps 1 to 5, on the record. -/
def rolled (d : Date) (o : Obj) : Obj :=
  { o with
    previousYear := o.dose, dose := 0, fraction := 0, remaining := o.planned, unknown := false,
    lastRoll := rollYear d o.startDay }

/-- R93. -/
def rollObject (d : Date) (i : Nat) (s : State) : State :=
  let o := s.object i
  ceilingEvent i (clearIf o.unknown .doseUnknown i (s.modObject i (rolled d)))

/-- R73 for one object. -/
def testObject (d : Date) (i : Nat) (s : State) : State :=
  if (s.object i).enable && rollDue d (s.object i) then rollObject d i s else s

/-- R73: the year-roll test of each enabled object. -/
def yearTests (d : Date) (s : State) : State := forEach 256 (testObject d) s

/-- R92: the fold of every object, and then the tests. -/
def dayFoldAndTests (d : Date) (s : State) : State := yearTests d (forEach 256 foldDayObject s)

/-! ### DOSE_SET (R95) -/

/-- R95: the record that an accepted DOSE_SET leaves. -/
def dosed (c : Calendar) (dose : Nat) (o : Obj) : Obj :=
  { o with
    dose := dose, fraction := 0, unknown := false,
    lastRoll := if c.isSet then rollYear ⟨c.year, c.day⟩ o.startDay else o.lastRoll }

/-- R95: DOSE_UNKNOWN is active only on an enabled object (R76). -/
def setDose (i dose : Nat) (s : State) : State :=
  let o := s.object i
  ceilingCore i
    (clearIf (o.enable && o.unknown) .doseUnknown i (s.modObject i (dosed s.calendar dose)))

end Sys2Proof.Machine
end

