-- ==== Sys2Proof/Machine/Image.lean ====
section
/-! DEFINITION. The image (R172, R176, R182): where each record stands, what it holds, the order in which a save writes
the records, the pages, and the start of a save. -/

namespace Sys2Proof.Machine

/-! ### Placement (R182) -/

/-- The section of a record (10, The image). -/
def recordSection : RecordId → Nat
  | .header => 0
  | .settings => 1
  | .node _ => 2
  | .point _ => 3
  | .object _ => 4
  | .group _ => 5
  | .zone _ => 6
  | .dose _ => 7
  | .setpoint _ => 7
  | .stamp => 7

/-- The octets of a record, its CRC included. -/
def recordLength : RecordId → Nat
  | .header => 19
  | .settings => 94
  | .node _ => 28
  | .point _ => 14
  | .object _ => 46
  | .group _ => 24
  | .zone _ => 46
  | .dose _ => 18
  | .setpoint _ => 6
  | .stamp => 6

/-- The first octet of a record: the sections follow one another from octet 0. -/
def recordAddress : RecordId → Nat
  | .header => 0
  | .settings => 19
  | .node i => 113 + 28 * i
  | .point i => 1905 + 14 * i
  | .object i => 4593 + 46 * i
  | .group i => 16369 + 24 * i
  | .zone i => 17521 + 46 * i
  | .dose i => 18625 + 18 * i
  | .setpoint i => 23233 + 6 * i
  | .stamp => 23377

/-! ### Contents (R182) -/

/-- The C and B fields that a record of each section holds, in field-number order. -/
def nodeFields : List Nat := List.range 13
def pointFields : List Nat := List.range 6
def objectFields : List Nat := List.range 22
def groupFields : List Nat := List.range 11
def zoneFields : List Nat := List.range 6 ++ (List.range 16).map (· + 8)
def deviceFields : List Nat := (List.range 10).map (· + 3) ++ (List.range 19).map (· + 23)

def settingsValues (s : State) : List Half :=
  deviceFields.map (readDevice s) ++ s.counters.toList.map fun c => halfOfNat c.threshold

/-- The dose record of an object. -/
def doseValues (o : Obj) : List Half :=
  [highHalf o.dose, lowHalf o.dose, halfOfNat o.fraction, highHalf o.remaining, lowHalf o.remaining,
    highHalf o.previousYear, lowHalf o.previousYear, halfOfNat o.lastRoll]

def setpointValues (z : Zone) : List Half := [halfOfInt z.rh.setpoint, halfOfInt z.temp.setpoint]

/-- The dose stamp; a save that began while UNSET writes none. -/
def stampValues (date : Option Date) : List Half :=
  match date with
  | some d => [halfOfNat d.year, halfOfNat d.day]
  | none => [0, 0]

/-- The header: the marker, the format as one octet, and the record counts of sections 1 to 7. -/
def headerOctets : List Byte :=
  octetsOf 0x4E4C ++ [1] ++ octetsOfAll [1, 64, 192, 256, 48, 24, 281]

/-- A record's octets before its CRC, copied from its owner as it stands. -/
def recordBody (s : State) (date : Option Date) (r : RecordId) : List Byte :=
  match r with
  | .header => headerOctets
  | .settings => octetsOfAll (settingsValues s)
  | .node i => octetsOfAll (nodeFields.map (readNode (s.node i)))
  | .point i => octetsOfAll (pointFields.map (readPoint (s.point i)))
  | .object i => octetsOfAll (objectFields.map (readObject (s.object i)))
  | .group i => octetsOfAll (groupFields.map (readGroup (s.group i)))
  | .zone i => octetsOfAll (zoneFields.map (readZone (s.zone i)))
  | .dose i => octetsOfAll (doseValues (s.object i))
  | .setpoint i => octetsOfAll (setpointValues (s.zone i))
  | .stamp => octetsOfAll (stampValues date)

/-- R172: the record with its CRC. -/
def withCrc (body : List Byte) : List Byte := body ++ octetsOf (crc16 body)

def recordOctets (s : State) (date : Option Date) (r : RecordId) : List Byte := withCrc (recordBody s date r)

/-! ### The order of a save (R176, R177) -/

def afterStamp (k : SaveKind) : Option RecordId :=
  match k with
  | .hourly => none
  | .full => some .header

/-- The record that follows; none when the save is complete. -/
def nextRecord (k : SaveKind) (stamped : Bool) (r : RecordId) : Option RecordId :=
  match r with
  | .settings => some (.node 0)
  | .node i => some (if i + 1 < 64 then .node (i + 1) else .point 0)
  | .point i => some (if i + 1 < 192 then .point (i + 1) else .object 0)
  | .object i => some (if i + 1 < 256 then .object (i + 1) else .group 0)
  | .group i => some (if i + 1 < 48 then .group (i + 1) else .zone 0)
  | .zone i => some (if i + 1 < 24 then .zone (i + 1) else .dose 0)
  | .dose i => some (if i + 1 < 256 then .dose (i + 1) else .setpoint 0)
  | .setpoint i =>
      if i + 1 < 24 then some (.setpoint (i + 1)) else if stamped then some .stamp else afterStamp k
  | .stamp => afterStamp k
  | .header => none

def firstRecord : SaveKind → RecordId
  | .hourly => .dose 0
  | .full => .settings

/-! ### Pages (R178) -/

def pageBlock : Nat := 64

/-- R178: 20 ms after a page is given, its write has failed. -/
def pageDeadline (s : State) : Nat := s.now + 20 * unitsPerMs

/-- The address of the page in flight. -/
def pageAddress (v : Save) : Nat := recordAddress v.position + v.written

/-- The octets of the page in flight: the rest of the record, within one 64-octet block. -/
def pageOctets (v : Save) : List Byte := (v.octets.drop v.written).take (pageBlock - pageAddress v % pageBlock)

/-- R176, R96: a record is reached: it is copied, and its first page is given (log entry 18). -/
def reachRecord (v : Save) (r : RecordId) (s : State) : State :=
  { s with save := some { v with
      position := r, octets := recordOctets s v.date r, written := 0, deadline := pageDeadline s } }

/-- R176, R177: the start of a save; the date is the Calendar's while it is SET. -/
def startSave (k : SaveKind) (ofRestart : Bool) (s : State) : State :=
  let date := if s.calendar.isSet then some (Date.mk s.calendar.year s.calendar.day) else none
  reachRecord ⟨k, firstRecord k, [], 0, date, ofRestart, 0⟩ (firstRecord k) s

/-- R176: the save of an hour roll. -/
def hourlySave (s : State) : State :=
  if s.save.isNone && s.procedure.restart == .notRunning then startSave .hourly false s else s

end Sys2Proof.Machine
end

