-- ==== Sys2Proof/Machine/SupervisionTimer.lean ====
section
/-! DEFINITION. The Supervision Timer (R168 to R171). -/

namespace Sys2Proof.Machine

/-- The instant at which a window that starts now runs out. -/
def windowEnd (s : State) : Nat := s.now + s.device.supervisionWindow * unitsPerSecond

/-- R170: the return from UNATTENDED. -/
def becomeAttended (s : State) : State :=
  if s.supervision.attended then s
  else clear .mgmtLost 0 { s with supervision := { s.supervision with attended := true } }

/-- R168: a restart. While the window is 0 it changes nothing. -/
def supervisionRestart (s : State) : State :=
  if s.device.supervisionWindow = 0 then s
  else
    let s := becomeAttended s
    { s with supervision := { s.supervision with timer := some (windowEnd s) } }

/-- PRESENCE (R168): the frame carries nothing that is read. It is taken whatever the plant port's enable shows (log
entry 2). -/
def execPresence (f : Frame) (s : State) : Result := .next (supervisionRestart (taken (.presence f) s))

/-- R169: one zone at a revert; an enabled zone so changed has its mode judged. -/
def revertZone (z : Nat) (s : State) : State :=
  match (s.zone z).modeSource with
  | .forced => judgeMode z (s.modZone z fun zn => { zn with modeSource := .auto })
  | .auto => s

/-- R169: every FORCED zone becomes AUTO, enabled and disabled zones alike; lowest index first is the model's choice
(log entry 36). -/
def revertZones (s : State) : State := forEach 24 revertZone s

/-- R169. -/
def supervisionExpiry (s : State) : State :=
  match s.supervision.timer with
  | none => s
  | some _ =>
      let s := raise .mgmtLost 0 0 { s with supervision := ⟨false, none⟩ }
      match s.device.supervisionAction with
      | .hold => s
      | .revert => revertZones s

/-- SUPERVISION_EXPIRY (R169). -/
def execSupervisionExpiry (s : State) : Result := .next (supervisionExpiry (taken .supervisionExpiry s))

/-- R171: the timer after a stored write of the supervision window. -/
def windowStored (s : State) : State :=
  if s.device.supervisionWindow = 0 then
    let s := becomeAttended s
    { s with supervision := { s.supervision with timer := none } }
  else supervisionRestart s

end Sys2Proof.Machine
end

