-- ==== Sys2Proof/Machine/StartUp.lean ====
section
/-! DEFINITION. Reset and the start-up load (R172 to R175, R147): the check and the reading of every record, RESET, and
LOAD_END. The load is cut in two (log entry 13): RESET reads the store and computes the ceilings and setpoints,
LOAD_END builds the poll due list, judges the zone modes, and does what R173 puts after the enabling of the ports. -/

namespace Sys2Proof.Machine

/-! ### Reading a record (R172) -/

/-- The octets of a record as read, without the CRC, when the CRC agrees. -/
def checkedBody (m : List Host.Cell) (r : RecordId) : Option (List Byte) :=
  let n := recordLength r - 2
  let octets := storeReadAll m (recordAddress r) (recordLength r)
  let body := octets.take n
  if octets.drop n = octetsOf (crc16 body) then some body else none

def checkedValues (m : List Host.Cell) (r : RecordId) : Option (List Half) := (checkedBody m r).map halvesOf

/-- One stored field: it must be among the codes of its field, and in its range. -/
def loadField {α : Type} (t : TableId) (put : Nat → Half → α → α × Bool) (acc : Option α) (fv : Nat × Half) :
    Option α :=
  match acc with
  | none => none
  | some a =>
      let (a', changed) := put fv.1 fv.2 a
      if codeAccepted t ⟨0, fv.1⟩ fv.2 && !changed then some a' else none

def loadFields {α : Type} (t : TableId) (put : Nat → Half → α → α × Bool) (fields : List Nat) (values : List Half)
    (base : α) : Option α :=
  (fields.zip values).foldl (loadField t put) (some base)

/-- A value that its field took unchanged. -/
def unchanged {α : Type} (r : α × Bool) : Option α := if r.2 then none else some r.1

/-- A 32-bit value stored high half first. -/
def wholeOf (hi lo : Half) : Nat := hi.toNat * 65536 + lo.toNat

def parseNode (values : List Half) : Option Node :=
  (loadFields .node putNode nodeFields values factoryNode).map fun n =>
    { n with state := if n.enable then .hunting else .absent }

def parsePoint (values : List Half) : Option Point := loadFields .point putPoint pointFields values factoryPoint

/-- The fields of an object record but its two 32-bit values. -/
def objectNarrowFields : List Nat := objectFields.filter fun f => f != 11 && f != 12 && f != 19 && f != 20

/-- The budget and the plan are judged as whole values. -/
def parseObject (values : List Half) : Option Obj := do
  let o ← loadFields .object putObject objectNarrowFields (objectNarrowFields.map fun f => values.getD f 0) factoryObject
  let o ← unchanged (putBudget o (wholeOf (values.getD 11 0) (values.getD 12 0)))
  unchanged (putPlanned o (wholeOf (values.getD 19 0) (values.getD 20 0)))

/-- R97: the commanded level is the cleaning level. -/
def parseGroup (values : List Half) : Option Group :=
  (loadFields .group putGroup groupFields values factoryGroup).map fun g => { g with level := g.cleaning }

/-- The widest bands, against which a stored lo and hi are judged. -/
def widestZone : Zone :=
  { factoryZone with
    rh := { factoryRh with lo := 0, hi := 10000 }
    temp := { factoryTemp with lo := -4000, hi := 8500 } }

def parseZone (values : List Half) : Option Zone := loadFields .zone putZone zoneFields values widestZone

/-- A settings record: the DEVICE fields, then the 17 thresholds. -/
def parseSettings (values : List Half) : Option (Device × List Half) :=
  (loadFields .device putDevice deviceFields values factoryDevice).map fun d => (d, values.drop deviceFields.length)

/-- A dose record (R182). -/
structure DoseRecord where
  dose : Nat
  fraction : Nat
  remaining : Nat
  previousYear : Nat
  lastRoll : Nat
  deriving DecidableEq, Repr

def parseDose (values : List Half) : Option DoseRecord :=
  let h (i : Nat) : Half := values.getD i 0
  let d : DoseRecord := ⟨wholeOf (h 0) (h 1), (h 2).toNat, wholeOf (h 3) (h 4), wholeOf (h 5) (h 6), (h 7).toNat⟩
  if d.fraction ≤ 59 ∧ d.remaining ≤ 527040 ∧ (d.lastRoll = 0 ∨ 1999 ≤ d.lastRoll ∧ d.lastRoll ≤ 2199) then some d
  else none

/-- A setpoint record: each setpoint in its quantity's range. -/
def parseSetpoints (values : List Half) : Option (Int × Int) :=
  let rh : Int := (values.getD 0 0).toNat
  let temp : Int := (values.getD 1 0).toInt
  if rh ≤ 10000 ∧ -4000 ≤ temp ∧ temp ≤ 8500 then some (rh, temp) else none

/-- R182: the dose stamp; R174: one that fails is year 0, day 0. -/
def parseStamp (values : List Half) : Option Date :=
  let y := (values.getD 0 0).toNat
  let d := (values.getD 1 0).toNat
  if y = 0 ∧ d = 0 ∨ 2000 ≤ y ∧ y ≤ 2199 ∧ 1 ≤ d ∧ d ≤ yearLength y then some ⟨y, d⟩ else none

/-! ### The header (R173) -/

inductive HeaderJudgement where
  | noImage
  | failed
  | passed
  deriving DecidableEq, Repr

/-- R173: an erased header has no marker either. -/
def judgeHeader (answers : Bool) (m : List Host.Cell) : HeaderJudgement :=
  if !answers then .failed
  else if storeReadAll m 0 2 ≠ octetsOf 0x4E4C then .noImage
  else if checkedBody m .header = some headerOctets then .passed
  else .failed

/-! ### The load of the sections (R174) -/

def addFaulty (n : Nat) (l : List Nat) : List Nat := if l.contains n then l else l ++ [n]

/-- R177: a section joins the faulty ones. -/
def markFaulty (sec : Nat) (s : State) : State := { s with faulty := addFaulty sec s.faulty }

/-- IMAGE_FAULT with a section as its detail; the section joins the faulty ones (R177). -/
def imageFault (sec : Nat) (s : State) : State :=
  raise .imageFault 0 sec { markFaulty sec s with imageFaultRaised := true }

/-- R174: one configuration record; a failed one leaves its entry disabled, with default fields. -/
def loadRecord {α : Type} (r : RecordId) (parse : List Half → Option α) (place : α → State → State) (s : State) :
    State :=
  match (checkedValues s.store r).bind parse with
  | some a => place a s
  | none => imageFault (recordSection r) s

/-- R65: the Calendar's raise, with the masks as the load has placed them (R147; log entry 12). -/
def raiseClockUnset (s : State) : State := raise .clockUnset 0 0 s

def placeThresholds (values : List Half) (s : State) : State :=
  { s with counters := s.counters.mapFinIdx fun i c _ => { c with threshold := (values.getD i 0).toNat } }

/-- Section 1: the settings, then CLOCK_UNSET, and IMAGE_FAULT when the record failed. -/
def loadSettings (s : State) : State :=
  match (checkedValues s.store .settings).bind parseSettings with
  | some (d, thresholds) => raiseClockUnset (placeThresholds thresholds { s with device := d })
  | none => imageFault 1 (raiseClockUnset s)

def loadNodes (s : State) : State :=
  forEach 64 (fun i => loadRecord (.node i) parseNode fun n s => s.modNode i fun _ => n) s

def loadPoints (s : State) : State :=
  forEach 192 (fun i => loadRecord (.point i) parsePoint fun p s => s.modPoint i fun _ => p) s

def loadObjects (s : State) : State :=
  forEach 256 (fun i => loadRecord (.object i) parseObject fun o s => s.modObject i fun _ => o) s

def loadGroups (s : State) : State :=
  forEach 48 (fun i => loadRecord (.group i) parseGroup fun g s => s.modGroup i fun _ => g) s

def loadZones (s : State) : State :=
  forEach 24 (fun i => loadRecord (.zone i) parseZone fun z s => s.modZone i fun _ => z) s

/-- The dose stamp, where its record passes. -/
def storedStamp (m : List Host.Cell) : Option Date := (checkedValues m .stamp).bind parseStamp

/-- R174: the date of the dose stamp, year 0 and day 0 where it failed. -/
def loadedStamp (m : List Host.Cell) : Date := (storedStamp m).getD ⟨0, 0⟩

/-- R174: the last roll year of an object whose dose record failed. -/
def stampRollYear (stamp : Date) (startDay : Nat) : Nat :=
  if stamp.year = 0 then 0 else rollYear stamp startDay

def placeDose (d : DoseRecord) (o : Obj) : Obj :=
  { o with
    dose := d.dose, fraction := d.fraction, remaining := d.remaining, previousYear := d.previousYear,
    lastRoll := d.lastRoll }

/-- R174, R94: the substitute for a failed dose record. -/
def unknownDose (stamp : Date) (o : Obj) : Obj :=
  { o with
    dose := o.budget, fraction := 0, remaining := o.planned, previousYear := 0,
    lastRoll := stampRollYear stamp o.startDay, unknown := o.enable }

/-- R177: section 7 is faulty where one of its records failed (log entry 17). -/
def markDoses (failed : Bool) (s : State) : State := if failed then markFaulty 7 s else s

/-- R174. -/
def loadDose (stamp : Date) (i : Nat) (s : State) : State :=
  match (checkedValues s.store (.dose i)).bind parseDose with
  | some d => s.modObject i (placeDose d)
  | none =>
      let s := (markDoses true s).modObject i (unknownDose stamp)
      if (s.object i).enable then raise .doseUnknown i (s.object i).zone s else s

/-- The setpoints of a record, or the targets. -/
def placeSetpoints (stored : Option (Int × Int)) (z : Zone) : Zone :=
  { z with
    rh := { z.rh with setpoint := (stored.map Prod.fst).getD z.rh.target }
    temp := { z.temp with setpoint := (stored.map Prod.snd).getD z.temp.target } }

/-- R128, R174. -/
def loadSetpoints (i : Nat) (s : State) : State :=
  let stored := (checkedValues s.store (.setpoint i)).bind parseSetpoints
  (markDoses stored.isNone s).modZone i (placeSetpoints stored)

/-- Sections 1 to 7 in order (R173). -/
def loadSections (s : State) : State :=
  let s := loadZones (loadGroups (loadObjects (loadPoints (loadNodes (loadSettings s)))))
  markDoses (storedStamp s.store).isNone (forEach 24 loadSetpoints (forEach 256 (loadDose (loadedStamp s.store)) s))

/-! ### The straps (R175) -/

/-- R175: an enabled node at the own address is disabled. -/
def disableClash (i : Nat) (s : State) : State :=
  if (s.node i).enable && (s.node i).address == s.device.ownAddress then
    imageFault 2 (s.modNode i fun n => { n with enable := false, state := .absent })
  else s

def settleAddresses (s : State) : State :=
  let s :=
    if s.pins.addrSel0 && s.pins.addrSel1 then
      { s with device := { s.device with ownAddress := 126, mgmtAddress := 0 } }
    else s
  forEach 64 disableClash s

/-! ### The load computations (R77, R128) -/

/-- R77: the ceiling of an enabled object is computed, and a disabled one holds its Cfloor. C is Cfloor before the
computation, and no evaluation is requested for its change (log entry 13). -/
def loadCeiling (i : Nat) (s : State) : State :=
  let s := s.modObject i fun o => { o with ceiling := o.cfloor }
  if (s.object i).enable then computeCeiling i s else s

def clampSetpoints (s : State) : State :=
  { s with zones := s.zones.map fun z => { z with rh := clampSetpoint z.rh, temp := clampSetpoint z.temp } }

def loadComputations (s : State) : State := clampSetpoints (forEach 256 loadCeiling (settleAddresses s))

/-! ### RESET (R173) -/

/-- R178: what the page in flight leaves in the store is not known (log entry 6). -/
def tornOctets (count first : Nat) : List Byte := (List.range count).map fun i => Config.tornByte (first + i)

/-- A page in flight that a reset or a failure cuts off. -/
def tearPage (s : State) : State :=
  match s.save with
  | none => s
  | some v =>
      let n := (pageOctets v).length
      { s with
        store := storeWriteAll s.store (pageAddress v) (tornOctets n s.freeCount)
        freeCount := s.freeCount + n }

/-- Every field at its value after reset, before the load reads anything. What is not the part's stays: the waiting
commands, the store, and the counter of free values. -/
def cleared (pins : Pins) (s : State) : State :=
  { State.reset with
    pending := s.pending, freeCount := s.freeCount, pins := pins, store := s.store,
    conditions := [], latches := ⟨false, true, false⟩ }

/-- R173: the load up to the point where the load computations begin. -/
def readImage (s : State) : State :=
  match judgeHeader s.pins.storeAnswers s.store with
  | .noImage => raiseClockUnset s
  | .failed => imageFault 0 (raiseClockUnset s)
  | .passed => loadSections s

/-- A reset with the given pin levels (00, Reset). -/
def resetPart (pins : Pins) (s : State) : State := loadComputations (readImage (cleared pins (tearPage s)))

/-- RESET (R173). -/
def execReset (pins : Pins) (s : State) : Result := .next (resetPart pins s)

/-! ### LOAD_END (R173) -/

/-- R31: the enabled nodes, in index order, due at once. -/
def buildPollList (s : State) : State :=
  { s with pollList := (indicesWhere 64 fun n => (s.node n).enable).map fun n => ⟨n, runningMs s⟩ }

/-- R97: the mode of one enabled zone is judged and its evaluation requested. -/
def firstEvaluation (z : Nat) (s : State) : State :=
  if (s.zone z).enable then
    requestCore z (s.modZone z fun zn => { zn with mode := judgedMode s.calendar zn })
  else s

/-- R18, R20: the ports take their settings, and the line of an enabled gallery port becomes FREE. -/
def enablePorts (s : State) : State :=
  let s := { s with loading := false, galleryAsm := .hunt, plantAsm := .hunt }
  if s.device.galleryEnable then setAllDue { s with line := .free } else s

/-- R147: one raise report of an unmasked ACTIVE entry, with the entry's stamp. -/
def loadReport (s : State) (c : Condition) : State :=
  if c.state = .active then report c true s else s

/-- R168: the window timer starts from the loaded window. -/
def startSupervision (s : State) : State :=
  if s.device.supervisionWindow = 0 then s
  else { s with supervision := { s.supervision with timer := some (windowEnd s) } }

/-- R173: the end of the load. The zones are evaluated, and offer their TRIMs, in index order: DESIGN CHOICE (log entry
36). -/
def finishLoad (s : State) : State :=
  let s := enablePorts (forEach 24 firstEvaluation (buildPollList s))
  let s := s.conditions.foldl loadReport s
  grant (startSupervision (forEach 24 offerTrim s))

/-- LOAD_END (R173). With no load in progress there is nothing to end. -/
def execLoadEnd (s : State) : Result :=
  let s := taken .loadEnd s
  .next (if s.loading then finishLoad s else s)

end Sys2Proof.Machine
end

