-- ==== Sys2Proof/Machine/CalendarUnit.lean ====
section
/-! DEFINITION. The Calendar (04) and what the blocks do at its events: the minute tick, the hour roll with the Counter
Table's fold (R155), the day roll, and the adoption of CLOCK frames. -/

namespace Sys2Proof.Machine

/-! ### The Counter Table at an hour roll (R155) -/

def foldCounter (c : Counter) : Counter := { c with last := c.current, current := 0 }

def atThreshold (c : Counter) : Bool := decide (c.threshold ≠ 0 ∧ c.threshold ≤ c.last)

/-- The counters of a port (08, The Counter Table). -/
def portCounters : PortId → List Nat
  | .gallery => List.range 8
  | .plant => (List.range 9).map (· + 8)

/-- R155: the lowest-indexed counter of the port that reached its threshold. -/
def portReached (s : State) (p : PortId) : Option Nat :=
  (portCounters p).find? fun i => atThreshold (s.counters[i]?.getD factoryCounter)

def portSubject : PortId → Nat
  | .gallery => 0
  | .plant => 1

def degradedFlag (p : PortId) (d : Degraded) : Bool :=
  match p with
  | .gallery => d.gallery
  | .plant => d.plant

def withDegraded (p : PortId) (v : Bool) (d : Degraded) : Degraded :=
  match p with
  | .gallery => { d with gallery := v }
  | .plant => { d with plant := v }

/-- R155: one port is judged. -/
def judgePort (p : PortId) (s : State) : State :=
  let before := degradedFlag p s.degraded
  match portReached s p with
  | some i => raise .linkDegraded (portSubject p) i { s with degraded := withDegraded p true s.degraded }
  | none =>
      clearIf before .linkDegraded (portSubject p) { s with degraded := withDegraded p false s.degraded }

/-- R155: every counter folds, and the gallery port is judged before the plant port (log entry 33). -/
def foldCounters (s : State) : State :=
  judgePort .plant (judgePort .gallery { s with counters := s.counters.map foldCounter })

/-! ### The rolls -/

/-- What every block does at an hour roll (R52, R91, R137 to R140, R155, R176; the order is log entry 4). -/
def hourWork (s : State) : State := hourlySave (foldCounters (climateHour (setRechecks (foldHours s))))

/-- R68: a roll that the Calendar issued earlier is taken before its next event. -/
def takeRoll (s : State) (c : Instr) : State :=
  match c with
  | .hourRoll => hourWork (taken .hourRoll s)
  | .dayRoll d => dayFoldAndTests d (taken (.dayRoll d) s)
  | _ => s

/-- R68: every roll that still waits. -/
def takeRolls (s : State) : State := s.handed.foldl takeRoll s

/-- The events that were handed on before one that waits; all that wait, where it is not among them. -/
def handedBefore (c : Instr) (s : State) : List Instr := s.handed.takeWhile fun e => e != c

/-- R68: the rolls that the Calendar issued before this one. -/
def rollsBefore (c : Instr) (s : State) : State := (handedBefore c s).foldl takeRoll s

/-- HOUR_ROLL (R66, R68). One that the Calendar has not issued folds all the same (log entry 1). -/
def execHourRoll (s : State) : Result := .next (hourWork (taken .hourRoll (rollsBefore .hourRoll s)))

/-- DAY_ROLL (R66, R68, R92), with the date that it carries. One that the Calendar has not issued, as while UNSET, folds
and tests all the same (log entry 1). -/
def execDayRoll (d : Date) (s : State) : Result :=
  .next (dayFoldAndTests d (taken (.dayRoll d) (rollsBefore (.dayRoll d) s)))

/-! ### The minute tick (R64, R66, R67) -/

/-- R64: what the tick carries. -/
def tickOf (c : Calendar) : Tick := ⟨c.isSet, if c.isSet then c.year else 0, calendarDay c, calendarMinute c⟩

/-- R65, R66: the date after a date. -/
def nextDate (d : Date) : Date :=
  if d.day + 1 ≤ yearLength d.year then ⟨d.year, d.day + 1⟩ else ⟨d.year + 1, 1⟩

/-- R64: the seconds count returns to 0. -/
def restartSeconds (c : Calendar) : Calendar := { c with seconds := 0, phase := 0 }

/-- R66: beyond the last year the Calendar becomes UNSET. -/
def overflowCalendar (c : Calendar) : Calendar := { c with isSet := false, localDay := 0, localMinute := 0 }

/-- R66, steps 1 and 3: past minute 1439. -/
def passMidnight (s : State) : State :=
  let d := nextDate ⟨s.calendar.year, s.calendar.day⟩
  if 2199 < d.year then
    raise .clockUnset 0 0 (handOn .hourRoll { s with calendar := overflowCalendar s.calendar })
  else
    handOn (.dayRoll d) (handOn .hourRoll
      { s with calendar := { s.calendar with year := d.year, day := d.day, minute := 0 } })

/-- R66. -/
def advanceSet (s : State) : State :=
  let m := s.calendar.minute + 1
  if 1440 ≤ m then passMidnight s
  else
    let s := { s with calendar := { s.calendar with minute := m } }
    if m % 60 = 0 then handOn .hourRoll s else s

/-- R67. -/
def advanceUnset (s : State) : State :=
  let m := s.calendar.localMinute + 1
  if 1440 ≤ m then
    handOn .hourRoll { s with calendar :=
      { s.calendar with localMinute := 0, localDay := satAdd top16 s.calendar.localDay 1 } }
  else
    let s := { s with calendar := { s.calendar with localMinute := m } }
    if m % 60 = 0 then handOn .hourRoll s else s

/-- R64, R66, R67: the Calendar's own part of a tick. -/
def advanceCalendar (s : State) : State :=
  let s := { s with calendar := restartSeconds s.calendar }
  if s.calendar.isSet then advanceSet s else advanceUnset s

/-- What the blocks that read points do at a tick (R80, R101, R129; log entry 4). -/
def readersMinute (t : Tick) (s : State) : State := climateMinute (judgeModes (accrue t s))

/-- R55: the Monitor's judgement comes before the readers', or after it. All readers stand on one side of it, which R55
does not ask (log entry 4). -/
def blocksMinute (monitorFirst : Bool) (t : Tick) (s : State) : State :=
  if monitorFirst then readersMinute t (judgePoints s) else judgePoints (readersMinute t s)

/-- R64, R66: the Calendar advances first and the blocks work after it, so the conditions that they raise carry the minute
that begins (R145). R68 leaves this order open, but for the Light Pacing Controller (R101; log entry 4). -/
def minuteTick (monitorFirst : Bool) (s : State) : State :=
  let t := tickOf s.calendar
  blocksMinute monitorFirst t (advanceCalendar s)

/-- MINUTE_TICK (R64). -/
def execMinuteTick (monitorFirst : Bool) (s : State) : Result :=
  .next (minuteTick monitorFirst (takeRolls (taken (.minuteTick monitorFirst) s)))

/-! ### CLOCK frames (R69 to R72) -/

/-- R69. -/
def clockGood (p : ClockPayload) : Bool :=
  decide (2000 ≤ p.year ∧ p.year ≤ 2199 ∧ 1 ≤ p.day ∧ p.day ≤ yearLength p.year ∧ p.minute ≤ 1439)

/-- R71: the days from day 1 of 2000 to day 1 of a year. -/
def daysBefore (year : Nat) : Nat := ((List.range (year - 2000)).map fun i => yearLength (2000 + i)).sum

/-- R71: the minutes from minute 0 of day 1 of 2000. -/
def minuteCount (year day minute : Nat) : Nat := (daysBefore year + (day - 1)) * 1440 + minute

/-- R71: the frame's count minus the Calendar's. -/
def clockDifference (c : Calendar) (p : ClockPayload) : Int :=
  (minuteCount p.year p.day p.minute : Int) - minuteCount c.year c.day c.minute

/-- R64, R70, R71: the Calendar as adopted. -/
def adopted (p : ClockPayload) (c : Calendar) : Calendar :=
  { restartSeconds c with isSet := true, year := p.year, day := p.day, minute := p.minute }

/-- R71: whether the adopted date differs from the old one. -/
def dateChanged (c : Calendar) (p : ClockPayload) : Bool := decide (c.year ≠ p.year ∨ c.day ≠ p.day)

/-- R71: the rolls that an adoption while SET issues. -/
def adoptionRolls (c : Calendar) (p : ClockPayload) : List Instr :=
  if clockDifference c p < 3 then []
  else
    (if dateChanged c p || decide (c.minute / 60 ≠ p.minute / 60) then [.hourRoll] else []) ++
      (if dateChanged c p then [.dayRoll ⟨p.year, p.day⟩] else [])

/-- R70. The zone modes are judged, with their evaluations, before the year-roll tests: which of the two comes first, R68
leaves open (log entry 4). -/
def adoptUnset (p : ClockPayload) (s : State) : State :=
  let s := clear .clockUnset 0 { s with calendar := adopted p s.calendar }
  yearTests ⟨p.year, p.day⟩ (judgeModes s)

/-- R71. The zone modes are judged before the rolls are taken (log entry 4). -/
def adoptSet (p : ClockPayload) (s : State) : State :=
  let rolls := adoptionRolls s.calendar p
  judgeModes { s with calendar := adopted p s.calendar, handed := s.handed ++ rolls }

/-- R69. -/
def takeClock (f : Frame) (s : State) : State :=
  match clockOf f.payload with
  | none => count .clockBad s
  | some p =>
      if clockGood p then (if s.calendar.isSet then adoptSet p s else adoptUnset p s) else count .clockBad s

/-- R13: a CLOCK to broadcast is offered to P2G as well, whether or not it is adopted. The Calendar takes it first, with
the evaluations and the grant that follow, and the offer comes after: which of the two comes first at a FREE line, R13
and R25 leave open (log entry 25). -/
def clockEvent (f : Frame) (s : State) : State :=
  let s := takeClock f s
  if f.dest = broadcast then offerP2g f s else s

/-- R68: the Calendar takes a CLOCK frame after the rolls that it issued before. -/
def calendarClock (f : Frame) (s : State) : State := clockEvent f (takeRolls (taken (.clock f) s))

/-- R69: a CLOCK frame that completed earlier is taken first. -/
def takeWaitingClock (s : State) (c : Instr) : State :=
  match c with
  | .clock f => calendarClock f s
  | _ => s

/-- R69: the CLOCK frames among some waiting events, in the order in which they completed. -/
def takeClocks (l : List Instr) (s : State) : State := l.foldl takeWaitingClock s

/-- CLOCK (R69). It is taken whatever the plant port's enable shows (log entry 2). -/
def execClock (f : Frame) (s : State) : Result :=
  .next (calendarClock f (takeClocks (handedBefore (.clock f) s) s))

end Sys2Proof.Machine
end

