-- ==== Sys2Proof/Machine/Ports.lean ====
section
/-! DEFINITION. Frame assembly at the two ports (R3 to R7), and the end of a plant frame (R17): RECEIVE_CHARACTER,
GAP_TIMER_EXPIRY, PLANT_TRANSMIT_COMPLETE. -/

namespace Sys2Proof.Machine

def assemblerOf (s : State) (p : PortId) : Assembler :=
  match p with
  | .gallery => s.galleryAsm
  | .plant => s.plantAsm

def setAssembler (p : PortId) (a : Assembler) (s : State) : State :=
  match p with
  | .gallery => { s with galleryAsm := a }
  | .plant => { s with plantAsm := a }

def goodCounter : PortId → CounterId
  | .gallery => .galleryGood
  | .plant => .plantGood

def checkErrorCounter : PortId → CounterId
  | .gallery => .galleryCheckErrors
  | .plant => .plantCheckErrors

def charErrorCounter : PortId → CounterId
  | .gallery => .galleryCharErrors
  | .plant => .plantCharErrors

/-- R3, R8, R18: whether a port's receiver takes characters now. -/
def receiving (s : State) (p : PortId) : Bool :=
  portOn s p && (match p with
    | .gallery => !gdeAsserted s
    | .plant => true)

/-- R4: the frame in assembly is abandoned and counted. -/
def abandonFrame (p : PortId) (s : State) : State := count (charErrorCounter p) (setAssembler p .hunt s)

/-- The event that a good frame is handed on as: R9 on the gallery port; on the plant port the kinds of R13 that go to
the Supervision Timer and to the Calendar have rows of their own. -/
def frameEvent (p : PortId) (own : Byte) (f : Frame) : Instr :=
  match p with
  | .gallery => .galleryFrame f
  | .plant =>
      if (f.dest = own ∨ f.dest = broadcast) ∧ f.kind = kindPresence then .presence f
      else if (f.dest = own ∨ f.dest = broadcast) ∧ f.kind = kindClock then .clock f
      else .plantFrame f own

/-- R34, R35: a gallery frame is judged by the line as it completes. One that completes while a window is open for its
SRC is noted in the transaction record until GALLERY_FRAME takes it (log entry 2). -/
def noteAnswer (f : Frame) (s : State) : State :=
  match s.line with
  | .busy t =>
      match t.phase with
      | .window _ =>
          if t.awaited = some f.src then { s with line := .busy { t with answers := t.answers ++ [f] } } else s
      | .sending _ => s
  | _ => s

def noteArrival (p : PortId) (f : Frame) (s : State) : State :=
  match p with
  | .gallery => noteAnswer f s
  | .plant => s

/-- R6: a completed frame is judged, counted once, and a good one is handed on. -/
def judgeFrame (p : PortId) (f : Frame) (s : State) : State :=
  let own := ownOctet s
  if frameGood p own f then handOn (frameEvent p own f) (count (goodCounter p) (noteArrival p f s))
  else count (checkErrorCounter p) s

/-- R3: a new frame begins with its destination. -/
def startFrame (p : PortId) (octet : Byte) (s : State) : State := setAssembler p (.collect [octet] (some s.now)) s

/-- R4: LEN is the fifth octet taken. -/
def oversize (octets : List Byte) (octet : Byte) : Bool := decide (octets.length = 4 ∧ 48 < octet.toNat)

/-- R3, R4: an octet is taken in COLLECT. -/
def collectOctet (p : PortId) (octets : List Byte) (octet : Byte) (s : State) : State :=
  if oversize octets octet then abandonFrame p s
  else
    match frameOfOctets (octets ++ [octet]) with
    | some f => judgeFrame p f (setAssembler p .hunt s)
    | none => setAssembler p (.collect (octets ++ [octet]) (some s.now)) s

/-- R3: a character in HUNT. -/
def huntChar (p : PortId) (c : Character) (s : State) : State :=
  if c.stopGood && c.marker then startFrame p c.octet s else s

/-- R3 to R5: a character in COLLECT. -/
def collectChar (p : PortId) (octets : List Byte) (c : Character) (s : State) : State :=
  if !c.stopGood then abandonFrame p s
  else if c.marker then startFrame p c.octet (abandonFrame p s)
  else collectOctet p octets c.octet s

/-- R3 to R5: a character has been received in full. -/
def endCharacter (p : PortId) (c : Character) (s : State) : State :=
  match assemblerOf s p with
  | .hunt => huntChar p c s
  | .collect octets _ => collectChar p octets c s

/-- R4: the start of a character stops the gap timer until the character ends. -/
def startCharacter (p : PortId) (s : State) : State :=
  match assemblerOf s p with
  | .hunt => s
  | .collect octets _ => setAssembler p (.collect octets none) s

/-- A character whose start bit no command gave is taken to have started in time (log entry 11). -/
def receiveCharacter (p : PortId) (r : Reception) (s : State) : State :=
  if receiving s p then
    match r with
    | .startBit => startCharacter p s
    | .ended c => endCharacter p c s
  else s

/-- RECEIVE_CHARACTER (R3, R4). -/
def execReceiveCharacter (p : PortId) (r : Reception) (s : State) : Result := .next (receiveCharacter p r s)

/-- R4: a gap timer that does not run cannot expire (log entry 1). -/
def gapTimerExpiry (p : PortId) (s : State) : State :=
  match assemblerOf s p with
  | .hunt => s
  | .collect _ none => s
  | .collect _ (some _) => abandonFrame p s

/-- GAP_TIMER_EXPIRY (R4). -/
def execGapTimerExpiry (p : PortId) (s : State) : Result := .next (gapTimerExpiry p (taken (.gapTimerExpiry p) s))

/-- R17, R167: the frame in flight has ended, and the arbiter takes the next. -/
def plantTransmitComplete (s : State) : State :=
  match s.plantTx with
  | none => s
  | some t =>
      let s := { s with plantTx := none }
      plantTake (if t.ofRestart then restartReplyGone s else s)

/-- PLANT_TRANSMIT_COMPLETE (R17). -/
def execPlantTransmitComplete (s : State) : Result := .next (plantTransmitComplete (taken .plantTransmitComplete s))

end Sys2Proof.Machine
end

