-- ==== Sys2Proof/Machine/Replies.lean ====
section
/-! DEFINITION. Gallery arrivals (R9 to R12) and the ends of transactions (R34 to R38, R40): GALLERY_FRAME and
REPLY_WINDOW_EXPIRY. -/

namespace Sys2Proof.Machine

/-! ### Misses (R36, R37) -/

/-- R37: the transaction has ended as a miss, or, for a FORWARD, with no reply. The miss of a COMMAND reaches the Light
Pacing Controller first and then the Monitor, so ACTUATOR_SILENT comes before NODE_SILENT: DESIGN CHOICE (log entry 36). -/
def missTransaction (t : Transaction) (s : State) : State :=
  match t.kind with
  | .poll n => reschedule n (nodeMiss n (count .galleryMisses s))
  | .command g n => nodeMiss n (commandExpiry g (count .galleryMisses s))
  | .forward => s

/-- R37: the window has run out, whatever the clock shows (log entry 1). -/
def replyWindowExpiry (s : State) : State :=
  match s.line with
  | .busy t =>
      match t.phase with
      | .window _ => missTransaction t (beginTurnaround s)
      | .sending _ => s
  | _ => s

/-- REPLY_WINDOW_EXPIRY (R37). -/
def execReplyWindowExpiry (s : State) : Result := .next (replyWindowExpiry (taken .replyWindowExpiry s))

/-! ### The use of a reply (R9, R34, R38) -/

/-- What the Monitor's taking of a reply says to the other blocks: the enabled node the frame is from, whether it was
judged a duplicate, whether its node is DISPLACED before or after, and whether its readings are used. -/
structure Judgement where
  node : Option Nat
  duplicate : Bool
  displaced : Bool
  readingsUsed : Bool
  deriving DecidableEq, Repr

/-- R9, step 1: continuity, for the enabled node with the SRC. Where R40 names the polled node alone, and another entry
has taken its address in flight, that entry is judged: DESIGN CHOICE (log entry 37). Readings are used when the node was ONLINE as the frame arrived and still is (R44, R58; log
entry 21). -/
def judgeReply (f : Frame) (s : State) : State × Judgement :=
  match nodeOfSrc s f.src with
  | none => (s, ⟨none, false, false, false⟩)
  | some n =>
      let before := s.node n
      let s := takeFrame n f s
      let after := s.node n
      (s, { node := some n
            duplicate := isDuplicate before f
            displaced := before.state == .displaced || after.state == .displaced
            readingsUsed := before.state == .online && after.state == .online && !isDuplicate before f })

/-- R9: whether an ECHO may be used. -/
def echoUsable (j : Judgement) : Bool := !j.duplicate && !j.displaced

/-- The entries of an ECHO. -/
def echoEntries (f : Frame) : List EchoEntry := (echoEntriesOf f.payload).getD []

/-- R58: the readings of a SAMPLE that answers a POLL or a FORWARD. -/
def useSample (f : Frame) (j : Judgement) (s : State) : State :=
  match j.node with
  | some n => if f.kind = kindSample ∧ j.readingsUsed = true then applySample n f.payload s else s
  | none => s

/-- R9, R116: the use of a POLL's reply. -/
def usePollReply (f : Frame) (j : Judgement) (s : State) : State :=
  if f.kind = kindEcho then
    match j.node with
    | some n => if echoUsable j then pollEcho n (echoEntries f) s else s
    | none => s
  else useSample f j s

/-- R113, R38: the use of a COMMAND's echo. -/
def useCommandReply (g : Nat) (f : Frame) (j : Judgement) (s : State) : State :=
  if echoUsable j then ownEcho g j.node (echoEntries f) s else commandExpiry g s

/-- R9, R117: an ECHO that answers a forwarded LEVEL, also from an address that no enabled node has (log entry 31). -/
def useForwardReply (t : Transaction) (f : Frame) (j : Judgement) (s : State) : State :=
  if f.kind = kindEcho then
    if t.frame.kind = kindLevel ∧ echoUsable j = true then forwardedEcho j.node f.src (echoEntries f) s else s
  else useSample f j s

/-- R9, step 2. -/
def useReply (t : Transaction) (f : Frame) (j : Judgement) (s : State) : State :=
  match t.kind with
  | .poll _ => usePollReply f j s
  | .command g _ => useCommandReply g f j s
  | .forward => useForwardReply t f j s

/-- R34: the success, and the reschedule of a polled node (R32). -/
def handSuccess (t : Transaction) (j : Judgement) (s : State) : State :=
  match t.kind with
  | .poll n => reschedule n (nodeSuccess n s)
  | .command _ n => nodeSuccess n s
  | .forward =>
      match j.node with
      | some n => nodeSuccess n s
      | none => s

/-! ### The forwarding decision (R10 to R12) -/

/-- R12: every enabled point of the node, and there is one, has forward off. -/
def forwardOff (s : State) (n : Nat) : Bool :=
  s.points.any (fun p => p.enable && p.node == n) && s.points.all fun p => !(p.enable && p.node == n) || !p.forward

/-- R12: a SAMPLE to broadcast that is consumed. -/
def sampleConsumed (f : Frame) (j : Judgement) (s : State) : Bool :=
  f.kind == kindSample && f.dest == broadcast && j.node.any (forwardOff s)

def forwardReply (f : Frame) (j : Judgement) (s : State) : State :=
  if f.dest = ownOctet s then s
  else if j.displaced then count .quarantined s
  else if j.duplicate then s
  else if sampleConsumed f j s then s
  else offerG2p f s

/-! ### GALLERY_FRAME (R34 to R36) -/

/-- R34: the reply, with the line at TURNAROUND from its completion. -/
def takeReply (t : Transaction) (f : Frame) (s : State) : State :=
  let (s, j) := judgeReply f (beginTurnaround s)
  forwardReply f j (useReply t f j (handSuccess t j s))

/-- R34, R35: whether a frame answers the transaction whose window is open. One that `waited` in the handed list was
judged as it completed; any other completes now. -/
def answersWindow (t : Transaction) (f : Frame) (waited : Bool) : Bool :=
  if waited then t.answers.contains f else t.awaited == some f.src

/-- R34, R36: a frame in the window of a transaction. -/
def frameInWindow (t : Transaction) (f : Frame) (waited : Bool) (s : State) : State :=
  if answersWindow t f waited then
    if t.accepts.all fun k => k == f.kind then takeReply t f s else missTransaction t (beginTurnaround s)
  else count .galleryStrays s

/-- R35, R8: a frame taken while the line is SENDING or OFF. None completes then, so one that `waited` completed before,
and finds no window open. -/
def frameAtDeafPort (waited : Bool) (s : State) : State := if waited then count .galleryStrays s else s

/-- R34, R35: a good frame reaches the scheduler. -/
def galleryFrame (f : Frame) (waited : Bool) (s : State) : State :=
  match s.line with
  | .off => frameAtDeafPort waited s
  | .free => count .galleryStrays s
  | .turnaround _ => count .galleryStrays s
  | .busy t =>
      match t.phase with
      | .sending _ => frameAtDeafPort waited s
      | .window _ => frameInWindow t f waited s

/-- GALLERY_FRAME (R34). A frame that would not pass R6 is no good frame, and does nothing (log entry 1). -/
def execGalleryFrame (f : Frame) (s : State) : Result :=
  let waited := s.handed.contains (.galleryFrame f)
  let s := taken (.galleryFrame f) s
  .next (if frameGood .gallery (ownOctet s) f then galleryFrame f waited s else s)

end Sys2Proof.Machine
end

