-- ==== Sys2Proof/Machine/PortSettings.lean ====
section
/-! DEFINITION. What the writes of the port settings do at the ports: enable and disable (R18 to R20, R39) and the rates
(R21). -/

namespace Sys2Proof.Machine

/-- A port's assembler back in HUNT, with nothing counted (R18, R20, R21). -/
def huntQuietly (p : PortId) (s : State) : State :=
  match p with
  | .gallery => { s with galleryAsm := .hunt }
  | .plant => { s with plantAsm := .hunt }

/-- R39: the transaction in flight at a disable, the line being OFF already. -/
def endTransaction (t : Transaction) (s : State) : State :=
  match t.kind, t.phase with
  | .poll _, _ => s
  | .command g _, _ => commandCancelled g s
  | .forward, .sending _ => count .p2gDrops s
  | .forward, .window _ => s

def lineOff (s : State) : State :=
  match s.line with
  | .busy t => endTransaction t { s with line := .off }
  | .off => s
  | .free => { s with line := .off }
  | .turnaround _ => { s with line := .off }

/-- R18: every frame of P2G is removed and counted. -/
def flushP2g (s : State) : State := countMany .p2gDrops s.p2g.length { s with p2g := [] }

/-- R18, R39. -/
def disableGalleryPort (s : State) : State :=
  let s := huntQuietly .gallery { s with device := { s.device with galleryEnable := false } }
  lineOff (flushP2g s)

/-- R20, R31, R39: the line becomes FREE and every due time is set, and the grant of R25 follows the whole request
(R156); during the start-up load only the setting changes. -/
def enableGalleryPort (s : State) : State :=
  let s := huntQuietly .gallery { s with device := { s.device with galleryEnable := true } }
  if s.loading then s else setAllDue { s with line := .free }

/-- The drop counter of the queue a plant frame was taken from (R14). -/
def dropCounter : PlantQueue → CounterId
  | .g2p => .g2pDrops
  | .origin => .plantOriginDrops

/-- R18: the cut-off frame in flight. -/
def cutPlantFrame (s : State) : State :=
  match s.plantTx with
  | none => s
  | some t => count (dropCounter t.source) { s with plantTx := none }

/-- R167: whether the reply of a RESTART waits, or is in flight. -/
def holdsRestartReply (s : State) : Bool :=
  s.plantOrigin.any (fun o => o.tag == .reply true) || s.plantTx.any fun t => t.ofRestart

/-- R18: both queues of the plant port are emptied and counted. -/
def flushPlant (s : State) : State :=
  countMany .plantOriginDrops s.plantOrigin.length
    (countMany .g2pDrops s.g2p.length { s with g2p := [], plantOrigin := [] })

/-- R18, R167. -/
def disablePlantPort (s : State) : State :=
  let holds := holdsRestartReply s
  let s := huntQuietly .plant { s with device := { s.device with plantEnable := false } }
  let s := flushPlant (cutPlantFrame s)
  if holds then restartReplyGone s else s

/-- R20. -/
def enablePlantPort (s : State) : State :=
  huntQuietly .plant { s with device := { s.device with plantEnable := true } }

/-- R18 to R20: a port enable is written; a write of the present value changes nothing (log entry 19). -/
def setPortEnable (p : PortId) (on : Bool) (s : State) : State :=
  match p with
  | .gallery =>
      if s.device.galleryEnable = on then s else if on then enableGalleryPort s else disableGalleryPort s
  | .plant => if s.device.plantEnable = on then s else if on then enablePlantPort s else disablePlantPort s

end Sys2Proof.Machine
end

