-- ==== Sys2Proof/Machine/Service.lean ====
section
/-! DEFINITION. The Service Unit (09): reading and writing one value, the elements of a request, the procedures, and the
reply. The rows of the table that are service requests are in `Requests`. -/

namespace Sys2Proof.Machine

/-! ### Cursors (R158) -/

def cursorOf (s : State) (t : TableId) : Position := s.cursors[tableNumber t]?.getD ⟨0, 0⟩

def setCursor (t : TableId) (p : Position) (s : State) : State :=
  { s with cursors := modifyAt s.cursors (tableNumber t) fun _ => p }

def loadCursor (t : TableId) (c : Option Cursor) (s : State) : State :=
  match c with
  | some c => setCursor t ⟨c.entry.toNat, c.field.toNat⟩ s
  | none => s

/-- R158: the cursor after one value. -/
def stepCursor (t : TableId) (m : StepMode) (s : State) : State := setCursor t (stepPosition t m (cursorOf s t)) s

/-! ### Reading one value (R160) -/

/-- R151 to R153: what a read of a summary latch does to it. -/
def latchRead (t : TableId) (p : Position) (s : State) : State :=
  if t = .device ∧ p.entry = 0 then
    match p.field with
    | 20 => { s with latches := { s.latches with raised := false } }
    | 21 => if alertAsserted s then s else { s with latches := { s.latches with clear := true } }
    | 22 => { s with latches := { s.latches with overflow := false } }
    | _ => s
  else s

/-- R158, R160: a value beyond the table reads 0. -/
def valueAt (s : State) (t : TableId) (p : Position) : Half := if inTable t p then readField s t p else 0

/-- `n` values read at the cursor; the flag says whether one lay beyond the table. -/
def readValues (t : TableId) (m : StepMode) : Nat → State → State × List Half × Bool
  | 0, s => (s, [], false)
  | n + 1, s =>
      let p := cursorOf s t
      let v := valueAt s t p
      let s := stepCursor t m (if inTable t p then latchRead t p s else s)
      let (s, vs, beyond) := readValues t m n s
      (s, v :: vs, beyond || !inTable t p)

/-! ### Writing one value (R161 to R163) -/

/-- OK, or CLAMPED where the value was stored changed. -/
def storedStatus (changed : Bool) : Status := if changed then .clamped else .ok

/-- R162: a write of an enable field. -/
def writeEnable (enabled : Bool) (v : Half) (enableOk disableOk : Bool) (enable' disable' : State → State)
    (s : State) : State × Status :=
  if v = 1 then
    if enabled then (s, .ok) else if enableOk then (enable' s, .ok) else (s, .refError)
  else
    if enabled then (if disableOk then (disable' s, .ok) else (s, .refError)) else (s, .ok)

/-- R163: the own address; an enabled node's address is refused. -/
def writeOwnAddress (v : Half) (s : State) : State × Status :=
  let (d, changed) := putDevice 3 v s.device
  if s.nodes.any fun n => n.enable && n.address == d.ownAddress then (s, .refError)
  else ({ s with device := d }, storedStatus changed)

/-- R148: a kind unmasked while an ACTIVE entry of it is in the table. -/
def maskStored (field : Nat) (v : Half) (s : State) : State :=
  if v = 0 ∧ s.conditions.any (fun c => c.state == .active && conditionCode c.kind == field - 22) = true then
    { s with latches := { s.latches with clear := false } }
  else s

/-- What follows the storing of a field of DEVICE entry 0, the port enables apart. -/
def deviceStored (field : Nat) (v : Half) (s : State) : State :=
  match field with
  | 5 => huntQuietly .gallery s
  | 6 => huntQuietly .plant s
  | 11 => windowStored s
  | f => if 23 ≤ f then maskStored f v s else s

def writeDevice (field : Nat) (v : Half) (s : State) : State × Status :=
  match field with
  | 3 => writeOwnAddress v s
  | 7 => (setPortEnable .gallery (v == 1) s, .ok)
  | 8 => (setPortEnable .plant (v == 1) s, .ok)
  | f =>
      let (d, changed) := putDevice f v s.device
      (deviceStored f v { s with device := d }, storedStatus changed)

/-- R42, R52. -/
def writeNode (n field : Nat) (v : Half) (s : State) : State × Status :=
  if field = 0 then
    writeEnable (s.node n).enable v (nodeEnableAllowed s n) (nodeDisableAllowed s n) (enableNode n) (disableNode n) s
  else
    let before := s.node n
    let changed := (putNode field v before).2
    let s := s.modNode n fun nd => (putNode field v nd).1
    (if before.tagCheck && !(s.node n).tagCheck then tagCheckOff n s else s, storedStatus changed)

/-- R54. -/
def writePoint (i field : Nat) (v : Half) (s : State) : State × Status :=
  if field = 0 then
    writeEnable (s.point i).enable v (pointEnableAllowed s i) (pointDisableAllowed s i) (enablePoint i)
      (disablePoint i) s
  else (s.modPoint i fun p => (putPoint field v p).1, storedStatus (putPoint field v (s.point i)).2)

/-- R78, R79: whether a stored write of a field is followed by a ceiling computation. -/
def ceilingFollows (field : Nat) (before after : Obj) : Bool :=
  (11 ≤ field && field ≤ 14) || field == 22 || field == 23 ||
    ((field == 19 || field == 20) && before.remaining != after.remaining)

/-- R74, R78, R79. -/
def writeObject (i field : Nat) (v : Half) (s : State) : State × Status :=
  if field = 0 then
    writeEnable (s.object i).enable v (objectEnableAllowed s i) true (enableObject i) (disableObject i) s
  else
    let before := s.object i
    let changed := (putObject field v before).2
    let s := s.modObject i fun o => (putObject field v o).1
    (if ceilingFollows field before (s.object i) then ceilingCore i s else s, storedStatus changed)

/-- R97 to R99. -/
def writeGroup (g field : Nat) (v : Half) (s : State) : State × Status :=
  if field = 0 then
    writeEnable (s.group g).enable v (groupEnableAllowed s g) (groupDisableAllowed s g) (enableGroup g)
      (disableGroup g) s
  else
    let changed := (putGroup field v (s.group g)).2
    let s := s.modGroup g fun gr => (putGroup field v gr).1
    let asks := (field == 5 || field == 6 || field == 10) && (s.group g).enable
    (if asks then requestCore (s.group g).zone s else s, storedStatus changed)

/-- R100: the groups that a zone may name as its shade. -/
def shadeServes (s : State) (z g : Nat) : Bool :=
  (s.group g).enable && (s.group g).kind == .shade && (s.group g).zone == z

/-- R100. -/
def writeShade (z : Nat) (v : Half) (s : State) : State × Status :=
  let (shade, changed) := putIndex 47 v
  if shade.all (shadeServes s z) then
    (requestCore z (s.modZone z fun zn => { zn with shade := shade }), storedStatus changed)
  else (s, .refError)

/-- What follows the storing of a zone field (R100, R126, R127). -/
def zoneStored (z field : Nat) (s : State) : State :=
  if 2 ≤ field ∧ field ≤ 5 then judgeModeCore z s
  else if 8 ≤ field ∧ field ≤ 10 then bandStored .rh z s
  else if 11 ≤ field ∧ field ≤ 13 then bandStored .temp z s
  else if 22 ≤ field then offerTrim z s
  else s

/-- R100, R124 to R127. -/
def writeZone (z field : Nat) (v : Half) (s : State) : State × Status :=
  if field = 0 then
    writeEnable (s.zone z).enable v (zoneEnableAllowed s z) (zoneDisableAllowed s z) (enableZone z) (disableZone z) s
  else if field = 1 then writeShade z v s
  else
    let changed := (putZone field v (s.zone z)).2
    (zoneStored z field (s.modZone z fun zn => (putZone field v zn).1), storedStatus changed)

/-- R154. -/
def writeThreshold (i : Nat) (v : Half) (s : State) : State × Status :=
  ({ s with counters := modifyAt s.counters i fun c => { c with threshold := v.toNat } }, .ok)

/-- R161, step 4: the owning block stores, clamps or refuses. -/
def writeOwned (t : TableId) (p : Position) (v : Half) (s : State) : State × Status :=
  match t with
  | .device => writeDevice p.field v s
  | .node => writeNode p.entry p.field v s
  | .point => writePoint p.entry p.field v s
  | .object => writeObject p.entry p.field v s
  | .group => writeGroup p.entry p.field v s
  | .zone => writeZone p.entry p.field v s
  | .condition => (s, .readOnly)
  | .counter => writeThreshold p.entry v s

/-- R161: whether an entry is enabled. -/
def entryEnabled (s : State) (t : TableId) (i : Nat) : Bool :=
  match t with
  | .node => (s.node i).enable
  | .point => (s.point i).enable
  | .object => (s.object i).enable
  | .group => (s.group i).enable
  | .zone => (s.zone i).enable
  | .device => false
  | .condition => false
  | .counter => false

/-- R161: one value, judged in the rule's order; a code that its field does not take is refused as a position beyond
the table is (R162; log entry 14). -/
def writeValue (t : TableId) (p : Position) (v : Half) (s : State) : State × Status :=
  if !inTable t p then (s, .range)
  else if access t p = .readOnly then (s, .readOnly)
  else if !codeAccepted t p v then (s, .range)
  else if access t p = .binding ∧ entryEnabled s t p.entry = true then (s, .enabled)
  else writeOwned t p v s

/-- R161: the first status that is not OK stands. -/
def firstBad (a b : Status) : Status := if a = .ok then b else a

/-- R25: whether a value or a procedure of a request has made a class of the grant cycle ready: an entry has joined the
gallery origin queue, a node has been enabled, or the gallery port has. -/
def asksGrant (before after : State) : Bool :=
  after.galleryOrigin.any (fun g => !before.galleryOrigin.contains g) ||
    (List.range 64).any (fun n => !(before.node n).enable && (after.node n).enable) ||
    (!portOn before .gallery && portOn after .gallery)

/-- What the values of a WRITE leave: the state, the element's status, and whether a grant is to follow the request. -/
structure Written where
  state : State
  status : Status
  grantAsked : Bool
  deriving DecidableEq, Repr

def writeValues (t : TableId) (m : StepMode) : List Half → State → Written
  | [], s => ⟨s, .ok, false⟩
  | v :: vs, s =>
      let (u, st) := writeValue t (cursorOf s t) v s
      let w := writeValues t m vs (stepCursor t m u)
      ⟨w.state, firstBad st w.status, asksGrant s u || w.grantAsked⟩

/-! ### Procedures (R165 to R167) -/

/-- R165, step 1. -/
def callBusy (s : State) (c : Call) : Bool :=
  s.procedure.state == .running || (c == .save && s.save.isSome)

/-- R165, step 2. -/
def callInRange : Call → Bool
  | .doseSet object _ _ => decide (object.toNat ≤ 255)
  | .rehunt node => decide (node.toNat ≤ 63)
  | .capClear group => decide (group.toNat ≤ 47)
  | .save => true
  | .restart => true
  | .clearLatched => true

/-- R165, step 3; none where the procedure is accepted. -/
def callRefusal (s : State) (c : Call) : Option Status :=
  match c with
  | .doseSet object tag _ => if tag = (s.object object.toNat).tag then none else some .tagMismatch
  | .rehunt node => if (s.node node.toNat).enable then none else some .refError
  | .capClear group => if (s.group group.toNat).enable then none else some .refError
  | .save => none
  | .restart => none
  | .clearLatched => none

/-- R165: the first refusal of a CALL. -/
def judgeCall (s : State) (c : Call) : Option Status :=
  if callBusy s c then some .busy else if callInRange c then callRefusal s c else some .range

/-- R146. -/
def clearLatchedEntries (s : State) : State :=
  { s with conditions := s.conditions.filter fun c => c.state == .active }

/-- R165: an immediate procedure is DONE, with result 0. -/
def procedureDone (s : State) : State := { s with procedure := { s.procedure with state := .done, result := 0 } }

/-- R165 to R167: an accepted CALL. The full save of a SAVE starts after the reply (R166). -/
def runCall (c : Call) (s : State) : State :=
  match c with
  | .save => { s with procedure := { s.procedure with state := .running, result := 0 } }
  | .restart => { s with procedure := { s.procedure with state := .running, restart := .awaitingReply } }
  | .doseSet object _ dose => procedureDone (setDose object.toNat dose.toNat s)
  | .rehunt node => procedureDone (rehuntNode node.toNat s)
  | .capClear group => procedureDone (capClear group.toNat s)
  | .clearLatched => procedureDone (clearLatchedEntries s)

def acceptedStatus : Call → Status
  | .save => .started
  | .restart => .started
  | .doseSet _ _ _ => .ok
  | .rehunt _ => .ok
  | .capClear _ => .ok
  | .clearLatched => .ok

/-! ### A request (R156, R157) -/

/-- A request in progress: the state, the results so far, which of SAVE and RESTART it had accepted, and whether a grant
is to follow it. -/
structure Work where
  state : State
  results : List Byte
  saveAsked : Bool
  restartAsked : Bool
  grantAsked : Bool
  deriving DecidableEq, Repr

/-- The payload of a frame holds at most 48 octets. -/
def replyCapacity : Nat := 48

/-- R160: the room that the SEQ, the earlier results and one octet for each later element leave. -/
def roomLeft (used later : Nat) : Nat := replyCapacity - (1 + used + later)

def takeRead (t : TableId) (c : Option Cursor) (m : StepMode) (n later : Nat) (w : Work) : Work :=
  let s := loadCursor t c w.state
  if roomLeft w.results.length later < 1 + 2 * n then
    { w with state := s, results := w.results ++ [statusCode .tooLong] }
  else
    let (s, values, beyond) := readValues t m n s
    { w with
      state := s
      results := w.results ++ statusCode (if beyond then .range else .ok) :: octetsOfAll values }

def takeWrite (t : TableId) (c : Option Cursor) (m : StepMode) (values : List Half) (w : Work) : Work :=
  let r := writeValues t m values (loadCursor t c w.state)
  { w with
    state := r.state, results := w.results ++ [statusCode r.status], grantAsked := w.grantAsked || r.grantAsked }

/-- R165, and the cursor part that R157 and R158 give a CALL. The cursor is loaded first, also where the CALL is refused,
of which R165 says that it changes nothing: DESIGN CHOICE (log entry 40). -/
def takeCall (t : TableId) (cursor : Option Cursor) (c : Call) (w : Work) : Work :=
  let s := loadCursor t cursor w.state
  match judgeCall s c with
  | some st => { w with state := s, results := w.results ++ [statusCode st] }
  | none =>
      { state := runCall c s
        results := w.results ++ [statusCode (acceptedStatus c)]
        saveAsked := w.saveAsked || c == .save
        restartAsked := w.restartAsked || c == .restart
        grantAsked := w.grantAsked || asksGrant s (runCall c s) }

/-- R157: an element that ends the request. It takes nothing, so a cursor part that it carries is not loaded, which R157
and R158 leave open (log entry 32). -/
def takeFormat (w : Work) : Work :=
  { w with state := count .serviceFormatErrors w.state, results := w.results ++ [statusCode .format] }

/-- One element, with the number of elements that come after it. -/
def takeElement (e : Option Element) (later : Nat) (w : Work) : Work :=
  match e with
  | none => takeFormat w
  | some (.read t c m n) => takeRead t c m n later w
  | some (.write t c m values) => takeWrite t c m values w
  | some (.call t c p) => takeCall t c p w

def takeElements : List (Option Element) → Work → Work
  | [], w => w
  | e :: es, w => takeElements es (takeElement e es.length w)

/-- R156: the reply, addressed to the SRC of the request. -/
def replyFrame (rq : Requester) (w : Work) : OriginFrame where
  dest := rq.src
  kind := kindServiceReply
  payload := rq.seq :: w.results
  tag := .reply w.restartAsked

/-- R156: the grant of R25 that the request asked for comes after the whole of it (log entry 25). -/
def grantAfter (asked : Bool) (s : State) : State := if asked then grant s else s

/-- R156, R166: the whole request: the restart of the Supervision Timer, the elements, the reply, the full save that an
accepted SAVE starts after it, and the grant. -/
def serviceRequest (rq : Requester) (elements : List (Option Element)) (s : State) : State :=
  let w := takeElements elements ⟨supervisionRestart s, [], false, false, false⟩
  let s := offerOrigin (replyFrame rq w) w.state
  grantAfter w.grantAsked (if w.saveAsked then startSave .full false s else s)

end Sys2Proof.Machine
end

