-- ==== Sys2Proof/Machine/Requests.lean ====
section
/-! DEFINITION. Plant arrivals (R13), and the rows of the table that are service requests: each is the request that
carries exactly that element, its cursor loaded at the field (log entry 3). -/

namespace Sys2Proof.Machine

/-! ### PLANT_FRAME (R13) -/

def requesterOf (f : Frame) : Requester := ⟨f.src, f.seq⟩

/-- R13, R69: a CLOCK frame reaches the Calendar, after those that wait. -/
def clockArrives (f : Frame) (s : State) : State := calendarClock f (takeClocks s.handed s)

/-- R13: a frame to the own address. -/
def ownFrame (f : Frame) (s : State) : State :=
  if f.kind = kindService then serviceRequest (requesterOf f) (elementsOf f.payload) s
  else if f.kind = kindPresence then supervisionRestart s
  else if f.kind = kindClock then clockArrives f s
  else count .serviceFormatErrors s

/-- R13: a frame to broadcast. -/
def broadcastFrame (f : Frame) (s : State) : State :=
  if f.kind = kindPresence then supervisionRestart s
  else if f.kind = kindClock then clockArrives f s
  else offerP2g f s

/-- R13: the dispatch, with the own address as the frame's assembly completed. -/
def plantFrame (f : Frame) (own : Byte) (s : State) : State :=
  if f.dest = own then ownFrame f s
  else if f.dest = broadcast then broadcastFrame f s
  else offerP2g f s

/-- PLANT_FRAME (R13). A frame that would not pass R6 is no good frame, and does nothing (log entry 1). A
frame that has completed is taken whatever the port's enable shows when its turn comes (log entry 2). -/
def execPlantFrame (f : Frame) (own : Byte) (s : State) : Result :=
  let s := taken (.plantFrame f own) s
  .next (if frameGood .plant own f then plantFrame f own s else s)

/-! ### The elements -/

/-- R157: an element whose count is not 1 to 16 is answered with FORMAT. -/
def readElement (t : TableId) (c : Option Cursor) (m : StepMode) (n : Nat) : Option Element :=
  if countOk n then some (.read t c m n) else none

def writeElement (t : TableId) (c : Option Cursor) (m : StepMode) (values : List Half) : Option Element :=
  if countOk values.length then some (.write t c m values) else none

/-- The write of one field. -/
def fieldElement (t : TableId) (entry : Half) (field : Nat) (v : Half) : Option Element :=
  some (.write t (some ⟨entry, byteOfNat field⟩) .stay [v])

/-- The write of a 32-bit value: the high half and then the low half (R159). -/
def wideElement (t : TableId) (entry : Half) (field : Nat) (v : BitVec 32) : Option Element :=
  some (.write t (some ⟨entry, byteOfNat field⟩) .field [v.extractLsb' 16 16, v.extractLsb' 0 16])

/-- A CALL; its table and count parts are any that are in range (R157). -/
def callElement (c : Call) : Option Element := some (.call .device none c)

/-- A request of one element, taken whatever the plant port's enable and the load show (log entries 2 and 3). -/
def request (rq : Requester) (e : Option Element) (s : State) : Result := .next (serviceRequest rq [e] s)

/-- READ (R160). -/
def execRead (rq : Requester) (t : TableId) (c : Option Cursor) (m : StepMode) (n : Nat) (s : State) : Result :=
  request rq (readElement t c m n) s

/-- The READ of one summary latch. -/
def latchElement (field : Byte) : Option Element := readElement .device (some ⟨0, field⟩) .stay 1

/-- RAISED_SINCE_READ (R151). -/
def execRaisedSinceRead (rq : Requester) (s : State) : Result := request rq (latchElement 20) s

/-- CLEAR_SINCE_READ (R152). -/
def execClearSinceRead (rq : Requester) (s : State) : Result := request rq (latchElement 21) s

/-- OVERFLOW (R153). -/
def execOverflow (rq : Requester) (s : State) : Result := request rq (latchElement 22) s

/-- WRITE (R161). -/
def execWrite (rq : Requester) (t : TableId) (c : Option Cursor) (m : StepMode) (values : List Half) (s : State) :
    Result :=
  request rq (writeElement t c m values) s

/-- ENABLE_WRITE (R162). -/
def execEnableWrite (rq : Requester) (t : TableId) (entry v : Half) (s : State) : Result :=
  request rq (fieldElement t entry 0 v) s

def portEnableField : PortId → Nat
  | .gallery => 7
  | .plant => 8

/-- PORT_ENABLE_WRITE (R18). -/
def execPortEnableWrite (rq : Requester) (p : PortId) (v : Half) (s : State) : Result :=
  request rq (fieldElement .device 0 (portEnableField p) v) s

def rateField : PortId → Nat
  | .gallery => 5
  | .plant => 6

/-- RATE_WRITE (R21). -/
def execRateWrite (rq : Requester) (p : PortId) (v : Half) (s : State) : Result :=
  request rq (fieldElement .device 0 (rateField p) v) s

/-- OWN_ADDRESS_WRITE (R163). -/
def execOwnAddressWrite (rq : Requester) (v : Half) (s : State) : Result := request rq (fieldElement .device 0 3 v) s

/-- SUPERVISION_WINDOW_WRITE (R171). -/
def execSupervisionWindowWrite (rq : Requester) (v : Half) (s : State) : Result :=
  request rq (fieldElement .device 0 11 v) s

/-- MASK_WRITE (R148): the mask of kind n is field 22 + n. -/
def execMaskWrite (rq : Requester) (k : ConditionKind) (v : Half) (s : State) : Result :=
  request rq (fieldElement .device 0 (22 + conditionCode k) v) s

/-- SHADE_GROUP_WRITE (R100). -/
def execShadeGroupWrite (rq : Requester) (zone v : Half) (s : State) : Result :=
  request rq (fieldElement .zone zone 1 v) s

def zoneModeFieldNumber : ZoneModeField → Nat
  | .openFrom => 2
  | .openTo => 3
  | .modeSource => 4
  | .forcedMode => 5

/-- ZONE_MODE_WRITE (R101). -/
def execZoneModeWrite (rq : Requester) (zone : Half) (f : ZoneModeField) (v : Half) (s : State) : Result :=
  request rq (fieldElement .zone zone (zoneModeFieldNumber f) v) s

/-- TAG_CHECK_WRITE (R52). -/
def execTagCheckWrite (rq : Requester) (node v : Half) (s : State) : Result := request rq (fieldElement .node node 4 v) s

def bandFieldNumber : BandField → Nat
  | .rhLo => 8
  | .rhHi => 9
  | .rhHysteresis => 10
  | .tLo => 11
  | .tHi => 12
  | .tHysteresis => 13

/-- BAND_WRITE (R127). -/
def execBandWrite (rq : Requester) (zone : Half) (f : BandField) (v : Half) (s : State) : Result :=
  request rq (fieldElement .zone zone (bandFieldNumber f) v) s

def airHandlerFieldNumber : AirHandlerField → Nat
  | .address => 22
  | .channel => 23

/-- AIR_HANDLER_WRITE (R126). -/
def execAirHandlerWrite (rq : Requester) (zone : Half) (f : AirHandlerField) (v : Half) (s : State) : Result :=
  request rq (fieldElement .zone zone (airHandlerFieldNumber f) v) s

def ceilingElement (object : Half) : CeilingTerm → Option Element
  | .budget v => wideElement .object object 11 v
  | .cmax v => fieldElement .object object 13 v
  | .cfloor v => fieldElement .object object 14 v

/-- CEILING_TERMS_WRITE (R78). -/
def execCeilingTermsWrite (rq : Requester) (object : Half) (t : CeilingTerm) (s : State) : Result :=
  request rq (ceilingElement object t) s

def openMinutesElement (object : Half) : OpenMinutesTerm → Option Element
  | .remaining v => wideElement .object object 22 v
  | .planned v => wideElement .object object 19 v

/-- OPEN_MINUTES_WRITE (R79). -/
def execOpenMinutesWrite (rq : Requester) (object : Half) (t : OpenMinutesTerm) (s : State) : Result :=
  request rq (openMinutesElement object t) s

def groupLimitFieldNumber : GroupLimitField → Nat
  | .lo => 5
  | .hi => 6
  | .cleaning => 10

/-- GROUP_LIMIT_WRITE (R99). -/
def execGroupLimitWrite (rq : Requester) (group : Half) (f : GroupLimitField) (v : Half) (s : State) : Result :=
  request rq (fieldElement .group group (groupLimitFieldNumber f) v) s

/-! ### The procedures -/

/-- SAVE (R166). -/
def execSave (rq : Requester) (s : State) : Result := request rq (callElement .save) s

/-- RESTART (R167). -/
def execRestart (rq : Requester) (s : State) : Result := request rq (callElement .restart) s

/-- DOSE_SET (R95). -/
def execDoseSet (rq : Requester) (object : Half) (tag : CatalogueTag) (dose : BitVec 32) (s : State) : Result :=
  request rq (callElement (.doseSet object tag dose)) s

/-- REHUNT (R53). -/
def execRehunt (rq : Requester) (node : Half) (s : State) : Result := request rq (callElement (.rehunt node)) s

/-- CAP_CLEAR (R122). -/
def execCapClear (rq : Requester) (group : Half) (s : State) : Result := request rq (callElement (.capClear group)) s

/-- CLEAR_LATCHED (R146). -/
def execClearLatched (rq : Requester) (s : State) : Result := request rq (callElement .clearLatched) s

end Sys2Proof.Machine
end

