-- ==== Sys2Proof/Machine/Saves.lean ====
section
/-! DEFINITION. The course of a save (R176 to R178) and its end: PAGE_COMPLETE, PAGE_WRITE_TIMEOUT, and the save and
reset of a RESTART (R167). -/

namespace Sys2Proof.Machine

/-- What the pins show at the reset of a RESTART: levels that no command has given (log entry 9). -/
def freePins (s : State) : Pins :=
  let levels := Config.pinLevels s.freeCount
  ⟨levels.1, levels.2.1, levels.2.2⟩

/-- R167, R173, R175: the reset that ends a RESTART reads the pins as they then stand. -/
def restartReset (s : State) : State := resetPart (freePins s) { s with freeCount := s.freeCount + 1 }

/-- R167, R176: what follows the end of a save: the reset of a RESTART, or the RESTART save that waited. -/
def afterSave (v : Save) (s : State) : State :=
  if v.ofRestart then restartReset s
  else if s.restartWaiting then startSave .hourly true { s with restartWaiting := false }
  else s

/-- R176, R177: the faulty sections that a save's success leaves. -/
def faultyAfter (k : SaveKind) (l : List Nat) : List Nat :=
  match k with
  | .hourly => l.filter fun n => n != 7
  | .full => []

/-- R166: the end of a full save is handed to the Service Unit. -/
def handSaveEnd (k : SaveKind) (state : ProcedureState) (result : Nat) (s : State) : State :=
  match k with
  | .hourly => s
  | .full => { s with procedure := { s.procedure with state := state, result := result } }

/-- R177: IMAGE_FAULT is cleared where the set is left empty and the condition has been raised (log entry 17). -/
def clearImageFault (s : State) : State :=
  if s.faulty.isEmpty && s.imageFaultRaised then clear .imageFault 0 { s with imageFaultRaised := false } else s

/-- R176, R177: the last record has been written. -/
def saveSucceeded (v : Save) (s : State) : State :=
  let s := clearImageFault { s with save := none, faulty := faultyAfter v.kind s.faulty }
  afterSave v (handSaveEnd v.kind .done 0 s)

/-- R178: a write has failed. -/
def saveFailed (v : Save) (s : State) : State :=
  let n := recordSection v.position
  let s := imageFault n { tearPage s with save := none }
  afterSave v (handSaveEnd v.kind .failed n s)

/-- The page in flight is in the store. -/
def pageWritten (v : Save) (s : State) : State :=
  { s with store := storeWriteAll s.store (pageAddress v) (pageOctets v) }

/-- R178: the next page of the record, the next record, or the end. -/
def continueSave (v : Save) (s : State) : State :=
  if v.written < v.octets.length then { s with save := some { v with deadline := pageDeadline s } }
  else
    match nextRecord v.kind v.date.isSome v.position with
    | some r => reachRecord v r s
    | none => saveSucceeded v s

/-- R178: the page is complete, whatever the clock shows (log entry 1). -/
def pageComplete (s : State) : State :=
  match s.save with
  | none => s
  | some v => continueSave { v with written := v.written + (pageOctets v).length } (pageWritten v s)

/-- PAGE_COMPLETE (R178). -/
def execPageComplete (s : State) : Result := .next (pageComplete (taken .pageComplete s))

/-- R178: the write fails wherever a save is in flight, also where its 20 ms have not passed: DESIGN CHOICE (log entry
1). -/
def pageWriteTimeout (s : State) : State :=
  match s.save with
  | none => s
  | some v => saveFailed v s

/-- PAGE_WRITE_TIMEOUT (R178). -/
def execPageWriteTimeout (s : State) : Result := .next (pageWriteTimeout (taken .pageWriteTimeout s))

/-- R167: the RESTART asks for its save. -/
def askRestartSave (s : State) : State :=
  let s := { s with procedure := { s.procedure with restart := .saveAsked } }
  if s.save.isNone then startSave .hourly true s else { s with restartWaiting := true }

/-- R167, R176: the RESTART asks for its save, also where its reply still waits or is in flight: DESIGN CHOICE (log entry
1). Where no RESTART waits for a save it does nothing (log entry 1). -/
def restartSaveStart (s : State) : State :=
  match s.procedure.restart with
  | .notRunning => s
  | .awaitingReply => askRestartSave s
  | .replyGone => askRestartSave s
  | .saveAsked => s

/-- RESTART_SAVE_START (R167). -/
def execRestartSaveStart (s : State) : Result := .next (restartSaveStart (taken .restartSaveStart s))

end Sys2Proof.Machine
end

