-- ==== Sys2Proof/Machine/Dispatch.lean ====
section
/-! DEFINITION. The meaning of every command, one arm per constructor. -/

namespace Sys2Proof.Machine

def exec (i : Instr) (s : State) : Host.Outcome State Fault Refusal :=
  match i with
  | .reset pins => Sys2Proof.Machine.execReset pins s
  | .receiveCharacter port reception => Sys2Proof.Machine.execReceiveCharacter port reception s
  | .gapTimerExpiry port => Sys2Proof.Machine.execGapTimerExpiry port s
  | .galleryFrame frame => Sys2Proof.Machine.execGalleryFrame frame s
  | .plantFrame frame own => Sys2Proof.Machine.execPlantFrame frame own s
  | .presence frame => Sys2Proof.Machine.execPresence frame s
  | .clock frame => Sys2Proof.Machine.execClock frame s
  | .read rq table cursor mode count => Sys2Proof.Machine.execRead rq table cursor mode count s
  | .raisedSinceRead rq => Sys2Proof.Machine.execRaisedSinceRead rq s
  | .clearSinceRead rq => Sys2Proof.Machine.execClearSinceRead rq s
  | .overflow rq => Sys2Proof.Machine.execOverflow rq s
  | .write rq table cursor mode values => Sys2Proof.Machine.execWrite rq table cursor mode values s
  | .enableWrite rq table entry value => Sys2Proof.Machine.execEnableWrite rq table entry value s
  | .portEnableWrite rq port value => Sys2Proof.Machine.execPortEnableWrite rq port value s
  | .rateWrite rq port value => Sys2Proof.Machine.execRateWrite rq port value s
  | .ownAddressWrite rq value => Sys2Proof.Machine.execOwnAddressWrite rq value s
  | .supervisionWindowWrite rq value => Sys2Proof.Machine.execSupervisionWindowWrite rq value s
  | .maskWrite rq kind value => Sys2Proof.Machine.execMaskWrite rq kind value s
  | .shadeGroupWrite rq zone value => Sys2Proof.Machine.execShadeGroupWrite rq zone value s
  | .zoneModeWrite rq zone field value => Sys2Proof.Machine.execZoneModeWrite rq zone field value s
  | .tagCheckWrite rq node value => Sys2Proof.Machine.execTagCheckWrite rq node value s
  | .bandWrite rq zone field value => Sys2Proof.Machine.execBandWrite rq zone field value s
  | .airHandlerWrite rq zone field value => Sys2Proof.Machine.execAirHandlerWrite rq zone field value s
  | .ceilingTermsWrite rq object term => Sys2Proof.Machine.execCeilingTermsWrite rq object term s
  | .openMinutesWrite rq object term => Sys2Proof.Machine.execOpenMinutesWrite rq object term s
  | .groupLimitWrite rq group field value => Sys2Proof.Machine.execGroupLimitWrite rq group field value s
  | .save rq => Sys2Proof.Machine.execSave rq s
  | .restart rq => Sys2Proof.Machine.execRestart rq s
  | .doseSet rq object tag dose => Sys2Proof.Machine.execDoseSet rq object tag dose s
  | .rehunt rq node => Sys2Proof.Machine.execRehunt rq node s
  | .capClear rq group => Sys2Proof.Machine.execCapClear rq group s
  | .clearLatched rq => Sys2Proof.Machine.execClearLatched rq s
  | .restartSaveStart => Sys2Proof.Machine.execRestartSaveStart s
  | .plantTransmitComplete => Sys2Proof.Machine.execPlantTransmitComplete s
  | .galleryTransmitComplete => Sys2Proof.Machine.execGalleryTransmitComplete s
  | .replyWindowExpiry => Sys2Proof.Machine.execReplyWindowExpiry s
  | .turnaroundEnd => Sys2Proof.Machine.execTurnaroundEnd s
  | .pollDue => Sys2Proof.Machine.execPollDue s
  | .settleExpiry group => Sys2Proof.Machine.execSettleExpiry group s
  | .supervisionExpiry => Sys2Proof.Machine.execSupervisionExpiry s
  | .pointAgeSecond => Sys2Proof.Machine.execPointAgeSecond s
  | .minuteTick monitorFirst => Sys2Proof.Machine.execMinuteTick monitorFirst s
  | .hourRoll => Sys2Proof.Machine.execHourRoll s
  | .dayRoll date => Sys2Proof.Machine.execDayRoll date s
  | .pageComplete => Sys2Proof.Machine.execPageComplete s
  | .pageWriteTimeout => Sys2Proof.Machine.execPageWriteTimeout s
  | .loadEnd => Sys2Proof.Machine.execLoadEnd s

end Sys2Proof.Machine
end

