-- ==== Sys2Proof/Machine/Time.lean ====
section
/-! DEFINITION. The passing of time (log entry 5): one time unit of 1/576,000 s, and the events that it makes due. The
events that fall on one instant are handed on in the order of `dueEvents` (log entry 10), and an event that something
taken before it has put off is not taken (R34, R68, R169). -/

namespace Sys2Proof.Machine

/-! ### Whether a timer has run out -/

def plantTxDue (s : State) : Bool := s.plantTx.any fun t => decide (t.ends ≤ s.now)

def galleryTxDue (s : State) : Bool :=
  match s.line with
  | .busy t =>
      match t.phase with
      | .sending ends => decide (ends ≤ s.now)
      | .window _ => false
  | _ => false

def windowDue (s : State) : Bool :=
  match s.line with
  | .busy t =>
      match t.phase with
      | .window ends => decide (ends ≤ s.now)
      | .sending _ => false
  | _ => false

def turnaroundDue (s : State) : Bool :=
  match s.line with
  | .turnaround ends => decide (ends ≤ s.now)
  | _ => false

/-- R4: more than 4 character times since the end of the last character, without the start of another. -/
def gapDue (s : State) (p : PortId) : Bool :=
  match assemblerOf s p with
  | .hunt => false
  | .collect _ none => false
  | .collect _ (some lastEnd) => decide (lastEnd + 4 * charUnits s p < s.now)

/-- R25: the line is FREE and the head of the poll due list is due. -/
def pollIsDue (s : State) : Bool :=
  s.line == .free && (match s.pollList with
    | [] => false
    | e :: _ => decide (e.due ≤ runningMs s))

def settleDue (s : State) (g : Nat) : Bool :=
  match (s.group g).phase with
  | .settling ends => decide (ends ≤ s.now)
  | .idle => false
  | .queued => false
  | .sent => false

def supervisionDue (s : State) : Bool := s.supervision.timer.any fun ends => decide (ends ≤ s.now)

/-- R64: the second that ends the minute is full. -/
def minuteDue (s : State) : Bool := decide (59 ≤ s.calendar.seconds ∧ unitsPerSecond ≤ s.calendar.phase)

def pageDue (s : State) : Bool := s.save.any fun v => decide (v.deadline ≤ s.now)

/-- R173: the load runs for at most one second (log entry 5). -/
def loadDue (s : State) : Bool := s.loading && decide (Config.loadUnits.val ≤ s.now)

/-- Whether a handed event is still to be taken. Frames, rolls and seconds are taken whatever came between. -/
def stillDue (s : State) (c : Instr) : Bool :=
  match c with
  | .plantTransmitComplete => plantTxDue s
  | .galleryTransmitComplete => galleryTxDue s
  | .replyWindowExpiry => windowDue s
  | .turnaroundEnd => turnaroundDue s
  | .gapTimerExpiry p => gapDue s p
  | .pollDue => pollIsDue s
  | .settleExpiry g => settleDue s g
  | .supervisionExpiry => supervisionDue s
  | .minuteTick _ => minuteDue s
  | .pageWriteTimeout => pageDue s
  | .loadEnd => s.loading
  | .restartSaveStart => s.procedure.restart == .replyGone
  | _ => true

/-! ### One time unit -/

/-- R64: the Calendar's second in progress. A second that would end the minute stays full until the tick is taken. -/
def advanceSecond (c : Calendar) : Calendar :=
  if c.phase + 1 < unitsPerSecond then { c with phase := c.phase + 1 }
  else if c.seconds < 59 then { c with phase := 0, seconds := c.seconds + 1 }
  else { c with phase := unitsPerSecond }

/-- An event, where a test of the state says so. -/
def dueEvent (due : Bool) (c : Instr) : List Instr := if due then [c] else []

/-- The events that are due at this instant (log entry 10). -/
def dueEvents (s : State) : List Instr :=
  dueEvent (loadDue s) .loadEnd ++
  dueEvent (plantTxDue s) .plantTransmitComplete ++
  dueEvent (galleryTxDue s) .galleryTransmitComplete ++
  dueEvent (windowDue s) .replyWindowExpiry ++
  dueEvent (turnaroundDue s) .turnaroundEnd ++
  dueEvent (gapDue s .gallery) (.gapTimerExpiry .gallery) ++
  dueEvent (gapDue s .plant) (.gapTimerExpiry .plant) ++
  dueEvent (pollIsDue s) .pollDue ++
  (indicesWhere 48 (settleDue s)).map Instr.settleExpiry ++
  dueEvent (supervisionDue s) .supervisionExpiry ++
  dueEvent (s.now % unitsPerSecond == 0) .pointAgeSecond ++
  dueEvent (minuteDue s) (.minuteTick (Config.monitorFirst s.freeCount)) ++
  dueEvent (pageDue s) .pageWriteTimeout

/-- One time unit passes: the running time and the Calendar's second advance, the counter of free values moves past the
one that a tick has used, and what has become due is handed on. -/
def passTime (s : State) : State :=
  let s := { s with now := s.now + 1, calendar := advanceSecond s.calendar }
  { s with handed := s.handed ++ dueEvents s, freeCount := s.freeCount + 1 }

end Sys2Proof.Machine
end

