-- ==== Sys2Proof/Machine/Step.lean ====
section
/-! DEFINITION. One step: the command at the front of the queue; with none waiting, the oldest event handed on; with
neither, one unit of time passes (log entries 2 and 5). -/

namespace Sys2Proof.Machine

/-- An event handed on is taken, unless what was taken before has put it off. The meaning of every event that is ever
handed on takes it out of `handed` itself. -/
def takeHanded (c : Instr) (s : State) : Host.Outcome State Fault Refusal :=
  if stillDue s c then exec c s else .next (taken c s)

def step (s : State) : Host.Outcome State Fault Refusal :=
  match s.pending with
  | c :: rest => exec c { s with pending := rest }
  | [] =>
      match s.handed with
      | c :: _ => takeHanded c s
      | [] => .next (passTime s)

/-- The state with the command that a table word spells at the front of its queue. -/
def State.withFetchWord (s : State) (nbits w : Nat) : State :=
  match decodeTableWord nbits w with
  | some c => { s with pending := c :: s.pending }
  | none => s

end Sys2Proof.Machine
end

