-- ==== Sys2Proof/Safety.lean ====
section
/-! DEFINITION. What the state always holds: the bounds that the manual gives the queues, the Condition Table, the rings
and the store's form, the relations that it says always hold between fields, what each field of a table reads,
the blanked states that frame statements compare, and the words of the statements about commands. -/

namespace Sys2Proof.Machine

/-- The zone of a waiting TRIM. -/
def trimZone (o : OriginFrame) : Option Nat :=
  match o.tag with
  | .trim z => some z
  | .condition => none
  | .reply _ => none

/-- Kind and subject, by which a condition is known (R142). -/
def conditionKey (c : Condition) : ConditionKind × Nat := (c.kind, c.subject)

/-- R14: no queue holds more frames than its capacity. R16: at most one TRIM per zone waits. -/
structure QueuesBounded (s : State) : Prop where
  g2p : s.g2p.length ≤ g2pCapacity
  p2g : s.p2g.length ≤ p2gCapacity
  origin : s.plantOrigin.length ≤ originCapacity
  trims : (s.plantOrigin.filterMap trimZone).Nodup

/-- R143: never more than 64 entries, and never two of one kind and subject. -/
structure TableBounded (s : State) : Prop where
  length : s.conditions.length ≤ conditionCapacity
  keys : (s.conditions.map conditionKey).Nodup

/-- R137: a ring never holds more than 24 entries. -/
def RingsBounded (s : State) : Prop := ∀ i, (s.zone i).ring.length ≤ ringCapacity

/-- The bounds of the queues, the Condition Table and the rings, and the canonical form of the store. -/
structure Bounded (s : State) : Prop where
  queues : QueuesBounded s
  table : TableBounded s
  rings : RingsBounded s
  store : Memory.wf s.store

/-- R78, R88: Cfloor never exceeds Cmax, and an enabled object's ceiling lies between them. -/
def CeilingsInRange (s : State) : Prop :=
  ∀ i, (s.object i).cfloor ≤ (s.object i).cmax ∧
    ((s.object i).enable = true → (s.object i).cfloor ≤ (s.object i).ceiling ∧ (s.object i).ceiling ≤ (s.object i).cmax)

/-- R139: a setpoint lies within its narrowed band. -/
def setpointInBand (c : Climate) : Prop := nLo c ≤ c.setpoint ∧ c.setpoint ≤ nHi c

/-- R139: both setpoints of every zone lie within their narrowed bands. -/
def SetpointsInBand (s : State) : Prop := ∀ z, setpointInBand (s.zone z).rh ∧ setpointInBand (s.zone z).temp

/-- R163, R175: no enabled node has the own address. -/
def OwnAddressFree (s : State) : Prop := ∀ n, (s.node n).enable = true → (s.node n).address ≠ s.device.ownAddress

/-- R109, with the ranges of R99 that it rests on: a group's commanded level lies within 0 to 1000 and does not exceed
its cap. -/
def levelLegal (g : Group) : Prop :=
  g.lo ≤ g.hi ∧ g.hi ≤ 1000 ∧ g.cleaning ≤ 1000 ∧ g.level ≤ 1000 ∧ ∀ c, g.cap = some c → g.level ≤ c

def LevelsInRange (s : State) : Prop := ∀ g, levelLegal (s.group g)

/-! ### What the fields of an entry read (11: the service tables; R159, R181) -/

/-- R159: the two fields of a 32-bit value, high half first. -/
def wideReads (n : Nat) : List Half := [BitVec.ofNat 16 (n / 65536), BitVec.ofNat 16 (n % 65536)]

/-- R181: what an optional index, a cap or an applied level reads. -/
def optionReads (o : Option Nat) : Half :=
  match o with
  | some n => BitVec.ofNat 16 n
  | none => 0xFFFF

def bitReads (b : Bool) : Half := if b then 1 else 0

/-- R181: what a flag field reads, lowest bit first. -/
def flagReads (bits : List Bool) : Half := BitVec.ofNat 16 (bits.foldr (fun b n => b.toNat + 2 * n) 0)

/-- DEVICE entry 0, fields 0 to 41. -/
def deviceReads (s : State) : List Half :=
  let d := s.device
  let c := s.calendar
  let num := BitVec.ofNat 16
  [0x0C41, 0x0024, 1, num d.ownAddress, num d.mgmtAddress, galleryRateCode d.galleryRate, plantRateCode d.plantRate,
    bitReads d.galleryEnable, bitReads d.plantEnable, num d.replyWindow, num d.silenceThreshold, num d.supervisionWindow,
    supervisionActionCode d.supervisionAction, bitReads (!s.supervision.attended), bitReads c.isSet,
    num (if c.isSet then c.year else 0), num (if c.isSet then c.day else c.localDay),
    num (if c.isSet then c.minute else c.localMinute), procedureStateCode s.procedure.state, num s.procedure.result,
    bitReads s.latches.raised, bitReads s.latches.clear, bitReads s.latches.overflow] ++ d.masks.toList.map bitReads

/-- NODE, fields 0 to 27. -/
def nodeReads (n : Node) : List Half :=
  let num := BitVec.ofNat 16
  [bitReads n.enable, num n.address, roleCode n.role, num n.pollPeriod, bitReads n.tagCheck] ++ n.expectedTag.toList ++
    [nodeStateCode n.state, num n.lastSeq.toNat, num n.runLength, num n.misses, num n.lostReplies, num n.duplicates] ++
    n.receivedTag.toList ++ [bitReads n.recheckDue]

/-- POINT, fields 0 to 10. -/
def pointReads (p : Point) : List Half :=
  let num := BitVec.ofNat 16
  [bitReads p.enable, num p.node, num p.channel, quantityCode p.quantity, num p.zone, bitReads p.forward,
    BitVec.ofInt 16 p.value, pointStateCode p.state, num p.age, BitVec.ofInt 16 (p.pending.getD 0), num p.clamps]

/-- OBJECT, fields 0 to 43. -/
def objectReads (o : Obj) : List Half :=
  let num := BitVec.ofNat 16
  bitReads o.enable :: o.tag.toList ++
    [num o.zone, num o.lightPoint, optionReads o.uvPoint, optionReads o.lampGroup] ++ wideReads o.budget ++
    [num o.cmax, num o.cfloor, num o.assumed, num o.uvLimit, num o.uvSlope, num o.startDay] ++ wideReads o.planned ++
    [num o.overThreshold] ++ wideReads o.remaining ++ wideReads o.dose ++ [num o.fraction] ++ wideReads o.thisHour ++
    wideReads o.lastHour ++ wideReads o.today ++ wideReads o.yesterday ++ wideReads o.previousYear ++ wideReads o.peak ++
    [num o.overMinutes, num o.ceiling, num o.weight, flagReads [o.exhausted, o.paceShort, o.degraded, o.unknown],
      num o.lastRoll]

/-- GROUP, fields 0 to 17. -/
def groupReads (g : Group) : List Half :=
  let num := BitVec.ofNat 16
  [bitReads g.enable, kindCodeOfGroup g.kind, num g.zone, num g.node, num g.channel, num g.lo, num g.hi, num g.step,
    num g.hold, num g.settle, num g.cleaning, num g.level, optionReads g.applied, optionReads g.cap, phaseCode g.phase,
    num g.misses, num g.ratio, flagReads [g.resend, g.unavailable, g.blind, g.mismatch]]

/-- R181: what a ring position reads. -/
def ringReads (ring : List (Option Int)) (i : Nat) : Half :=
  match ring[i]? with
  | some (some mean) => BitVec.ofInt 16 mean
  | some none => 0xFFFF
  | none => 0xFFFF

/-- R181: what a climate value reads, by the code of an unknown one. -/
def valueReads (unknown : Half) (v : Option Int) : Half :=
  match v with
  | some x => BitVec.ofInt 16 x
  | none => unknown

/-- ZONE, fields 0 to 62. -/
def zoneReads (z : Zone) : List Half :=
  let num := BitVec.ofNat 16
  let int := BitVec.ofInt 16
  [bitReads z.enable, optionReads z.shade, num z.openFrom, num z.openTo, modeSourceCode z.modeSource,
    modeCode z.forcedMode, modeCode z.mode, bitReads z.evalPending, int z.rh.lo, int z.rh.hi, int z.rh.hysteresis,
    int z.temp.lo, int z.temp.hi, int z.temp.hysteresis, num z.persistence, int z.rh.spike, int z.temp.spike,
    int z.driftLimit, int z.rh.target, int z.rh.glide, int z.temp.target, int z.temp.glide, num z.airAddress,
    num z.airChannel, valueReads 0xFFFF z.rh.value, valueReads 0x8000 z.temp.value, bandStateCode z.rh.band,
    bandStateCode z.temp.band, num z.rh.timer, num z.temp.timer] ++ wideReads z.hourSum ++
    [num z.hourCount, num z.ring.length, num (z.ring.filterMap id).length] ++ (List.range 24).map (ringReads z.ring) ++
    [int z.span, int z.rh.setpoint, int z.temp.setpoint, flagReads [z.blind, z.drift]]

/-- CONDITION, fields 0 to 5, of a position that may lie beyond the table's length. -/
def conditionReads (c : Option Condition) : List Half :=
  match c with
  | some c =>
      [BitVec.ofNat 16 (conditionCode c.kind), BitVec.ofNat 16 c.subject, conditionStateCode c.state,
        BitVec.ofNat 16 c.day, BitVec.ofNat 16 c.minute, BitVec.ofNat 16 c.detail]
  | none => List.replicate 6 0

/-- COUNTER, fields 0 to 4. -/
def counterReads (c : Counter) : List Half :=
  [BitVec.ofNat 16 c.current, BitVec.ofNat 16 c.last] ++ wideReads c.total ++ [BitVec.ofNat 16 c.threshold]

/-! ### Fields in their ranges (03, 05, 06: the records of the tables) -/

def nodeLegal (n : Node) : Prop := 1 ≤ n.address ∧ n.address ≤ 126 ∧ 2 ≤ n.pollPeriod ∧ n.pollPeriod ≤ 600

def pointLegal (p : Point) : Prop := p.node ≤ 63 ∧ p.channel ≤ 7 ∧ p.zone ≤ 23

def groupLegal (g : Group) : Prop :=
  g.zone ≤ 23 ∧ g.node ≤ 63 ∧ g.channel ≤ 3 ∧ g.lo ≤ g.hi ∧ g.hi ≤ 1000 ∧ 1 ≤ g.step ∧ g.step ≤ 200 ∧ g.hold ≤ 200 ∧
    1 ≤ g.settle ∧ g.settle ≤ 255 ∧ g.cleaning ≤ 1000

def objectLegal (o : Obj) : Prop :=
  o.zone ≤ 23 ∧ o.lightPoint ≤ 191 ∧ (∀ u, o.uvPoint = some u → u ≤ 191) ∧ (∀ g, o.lampGroup = some g → g ≤ 47) ∧
    1 ≤ o.budget ∧ o.budget ≤ 4000000000 ∧ 10 ≤ o.cmax ∧ o.cmax ≤ 1000 ∧ o.cfloor ≤ o.cmax ∧ o.assumed ≤ 1000 ∧
    o.uvLimit ≤ 5000 ∧ o.uvSlope ≤ 20 ∧ 1 ≤ o.startDay ∧ o.startDay ≤ 365 ∧ o.planned ≤ 527040 ∧
    o.overThreshold ≤ 1440

/-- 07, the zone record: a quantity's stored fields, for its range, its widest spike limit and its targets. -/
def climateLegal (bottom top spike : Int) (c : Climate) : Prop :=
  bottom ≤ c.lo ∧ c.lo ≤ c.hi ∧ c.hi ≤ top ∧ 0 ≤ c.hysteresis ∧ c.hysteresis ≤ 1000 ∧ 0 ≤ c.spike ∧ c.spike ≤ spike ∧
    bottom ≤ c.target ∧ c.target ≤ top ∧ 0 ≤ c.glide ∧ c.glide ≤ 500

def zoneLegal (z : Zone) : Prop :=
  (∀ g, z.shade = some g → g ≤ 47) ∧ z.openFrom ≤ 1439 ∧ z.openTo ≤ 1439 ∧ climateLegal 0 10000 10000 z.rh ∧
    climateLegal (-4000) 8500 12500 z.temp ∧ 1 ≤ z.persistence ∧ z.persistence ≤ 120 ∧ 100 ≤ z.driftLimit ∧
    z.driftLimit ≤ 3000 ∧ z.airAddress ≤ 126 ∧ z.airChannel ≤ 255

/-! ### Records of the image (R172, R182) -/

/-- Which records an image has. -/
def inImage : RecordId → Bool
  | .node i => decide (i < 64)
  | .point i => decide (i < 192)
  | .object i => decide (i < 256)
  | .group i => decide (i < 48)
  | .zone i => decide (i < 24)
  | .dose i => decide (i < 256)
  | .setpoint i => decide (i < 24)
  | .header => true
  | .settings => true
  | .stamp => true

/-- R172: whether a record passes its check at the load. -/
def recordPasses (m : List Host.Cell) : RecordId → Bool
  | .header => checkedBody m .header == some headerOctets
  | .settings => ((checkedValues m .settings).bind parseSettings).isSome
  | .node i => ((checkedValues m (.node i)).bind parseNode).isSome
  | .point i => ((checkedValues m (.point i)).bind parsePoint).isSome
  | .object i => ((checkedValues m (.object i)).bind parseObject).isSome
  | .group i => ((checkedValues m (.group i)).bind parseGroup).isSome
  | .zone i => ((checkedValues m (.zone i)).bind parseZone).isSome
  | .dose i => ((checkedValues m (.dose i)).bind parseDose).isSome
  | .setpoint i => ((checkedValues m (.setpoint i)).bind parseSetpoints).isSome
  | .stamp => (storedStamp m).isSome

/-- R174, R177: a record of a section fails its check at the load. -/
def sectionFails (m : List Host.Cell) (n : Nat) : Prop :=
  ∃ r, inImage r = true ∧ recordSection r = n ∧ recordPasses m r = false

/-! ### What a frame statement leaves out

A frame statement compares two states with the fields blanked that the operations named may change. -/

/-- Counters with the named ones blanked. -/
def withoutCounters (ids : List CounterId) (v : Vector Counter 17) : Vector Counter 17 :=
  v.mapFinIdx fun i c _ => if ids.any (fun d => counterIndex d == i) then factoryCounter else c

/-- The state but for what raises, clears, reports and takes of the plant port change (R143, R144, R149, R17): the
Condition Table, the summary latches, the two queues of the plant port with their transmitter, and the drop counters of
these queues. -/
def exceptReports (s : State) : State :=
  { s with
    conditions := [], latches := ⟨false, false, false⟩,
    counters := withoutCounters [.g2pDrops, .plantOriginDrops] s.counters,
    g2p := [], plantOrigin := [], plantTx := none, turn := .origin, plantSeq := 0 }

/-- A group but for what an evaluation, a grant and an echo change (06, The group record). -/
def groupSettings (g : Group) : Group :=
  { g with
    level := 0, applied := none, cap := none, phase := .idle, misses := 0, ratio := 0, resend := true,
    unavailable := false, blind := false, mismatch := false }

/-- A zone but for its waiting evaluation (R102). -/
def zoneSettings (z : Zone) : Zone := { z with evalPending := false }

/-- The state but for what reports, evaluations and echoes change (R102 to R117). -/
def exceptEvaluation (s : State) : State :=
  { exceptReports s with
    galleryOrigin := []
    groups := s.groups.map groupSettings
    zones := s.zones.map zoneSettings }

/-- The counters that reports and grants of the line may raise. -/
def grantCounters : List CounterId :=
  [.galleryCharErrors, .galleryLatePolls, .g2pDrops, .plantOriginDrops, .clampedCommands, .droppedCommands]

/-- The state but for what reports, evaluations and grants of the gallery line change (R24 to R30, R102 to R121). -/
def exceptLight (s : State) : State :=
  { s with
    conditions := [], latches := ⟨false, false, false⟩,
    counters := withoutCounters grantCounters s.counters,
    g2p := [], plantOrigin := [], plantTx := none, turn := .origin, plantSeq := 0,
    galleryAsm := .hunt, gallerySeq := 0, p2g := [], line := .off, pointer := .command, galleryOrigin := [],
    groups := s.groups.map groupSettings
    zones := s.zones.map zoneSettings }

/-! ### The vocabulary of statements about commands -/

/-- R156: the reply to a request of one element that carries no values. -/
def answer (rq : Requester) (st : Status) (s : State) : State :=
  offerOrigin ⟨rq.src, kindServiceReply, [rq.seq, statusCode st], .reply false⟩ s

/-- R156, R25: a request of one value or procedure is answered, and then the grant is made that the change from `before`
to `after` asks for. -/
def answered (rq : Requester) (st : Status) (before after : State) : State :=
  grantAfter (asksGrant before after) (answer rq st after)

/-- R156, R158: the state in which the value of a one-field request is judged: the Supervision Timer has been restarted,
and the cursor of the table stands at the field. -/
def fieldReached (t : TableId) (entry : Half) (field : Nat) (s : State) : State :=
  setCursor t ⟨entry.toNat, field⟩ (supervisionRestart s)

/-- A roll of the Calendar. -/
def isRoll (c : Instr) : Bool :=
  match c with
  | .hourRoll => true
  | .dayRoll _ => true
  | _ => false

/-- A CLOCK frame that the Calendar has not taken yet. -/
def isClock (c : Instr) : Bool :=
  match c with
  | .clock _ => true
  | _ => false

/-- The events that the passing of time makes due (00, Time and events). -/
def isTimed (c : Instr) : Bool :=
  match c with
  | .loadEnd => true
  | .plantTransmitComplete => true
  | .galleryTransmitComplete => true
  | .replyWindowExpiry => true
  | .turnaroundEnd => true
  | .gapTimerExpiry _ => true
  | .pollDue => true
  | .settleExpiry _ => true
  | .supervisionExpiry => true
  | .pointAgeSecond => true
  | .minuteTick _ => true
  | .pageWriteTimeout => true
  | _ => false

/-- R31: the list `placed` is the poll due list `l` with the node's own entry taken out, and put in anew by its due time,
and by node index where the due times are equal. -/
def placedInPollList (n due : Nat) (l placed : List PollEntry) : Prop :=
  ∃ early late, placed = early ++ ⟨n, due⟩ :: late ∧ early ++ late = l.filter (fun e => e.node != n) ∧
    (∀ e ∈ early, e.due < due ∨ e.due = due ∧ e.node < n) ∧
    ∀ e ∈ late.head?, due < e.due ∨ e.due = due ∧ n < e.node

/-- R32: in `t`, the node of a POLL that has ended stands in the poll due list at the later of its beat and the running
time, and alone; one that had left the list is not put back. -/
def polledAgain (n : Nat) (s t : State) : Prop :=
  ((∀ x ∈ s.pollList, x.node ≠ n) → t.pollList = s.pollList) ∧
    ∀ e, s.pollList.find? (fun x => x.node == n) = some e →
      placedInPollList n (max (e.due + (s.node n).pollPeriod * 1000) (runningMs s)) s.pollList t.pollList

/-- No roll of the Calendar is outstanding (R68). -/
def noRollsHanded (s : State) : Prop := ∀ c ∈ s.handed, isRoll c = false

/-- The two commands that do nothing but make a grant (R25), with the state whose FREE line they grant. -/
def makesGrant (c : Instr) (s u : State) : Prop :=
  (c = .pollDue ∧ s.line = .free ∧ u = taken .pollDue s) ∨
    (c = .turnaroundEnd ∧ (∃ ends, s.line = .turnaround ends) ∧ u = { taken .turnaroundEnd s with line := .free })

/-- R42, R54, R74, R97, R124: the enable checks of an entry. -/
def enableAllowed (s : State) (t : TableId) (i : Nat) : Bool :=
  match t with
  | .node => nodeEnableAllowed s i
  | .point => pointEnableAllowed s i
  | .object => objectEnableAllowed s i
  | .group => groupEnableAllowed s i
  | .zone => zoneEnableAllowed s i
  | .device => false
  | .condition => false
  | .counter => false

/-- R42, R54, R76, R98, R125: the disable checks of an entry. -/
def disableAllowed (s : State) (t : TableId) (i : Nat) : Bool :=
  match t with
  | .node => nodeDisableAllowed s i
  | .point => pointDisableAllowed s i
  | .object => true
  | .group => groupDisableAllowed s i
  | .zone => zoneDisableAllowed s i
  | .device => false
  | .condition => false
  | .counter => false

end Sys2Proof.Machine
end

