-- ==== Sys2Proof/WellFormed.lean ====
section
/-! DEFINITION. Which commands the outside can send: the data that an event carries lies in what the manual lets the
event carry. The meanings do not rest on it: a command that is not well formed has an effect too. -/

namespace Sys2Proof

open Sys2Proof.Machine

/-- A SERVICE frame that passed R6 has an SRC of 1 to 126. -/
def Requester.wf (rq : Requester) : Bool := decide (1 ≤ rq.src.toNat ∧ rq.src.toNat ≤ 126)

/-- R179: LEN is 0 to 48. -/
def Frame.fits (f : Frame) : Bool := decide (f.payload.length ≤ 48)

/-- The own address is 1 to 126 (R163). -/
def ownAddressWf (own : Byte) : Bool := decide (1 ≤ own.toNat ∧ own.toNat ≤ 126)

/-- R13: a frame that reaches the Supervision Timer or the Calendar is of their kind. -/
def frameOfKind (kind : Byte) (f : Frame) : Bool := f.kind == kind && f.fits && checkMatches f && headerValid f

/-- The tables whose field 0 is an enable (R162). -/
def hasEnable (t : TableId) : Bool :=
  match t with
  | .node => true
  | .point => true
  | .object => true
  | .group => true
  | .zone => true
  | .device => false
  | .condition => false
  | .counter => false

/-- R65: a date that the Calendar can hold. -/
def Date.wf (d : Date) : Bool :=
  decide (2000 ≤ d.year ∧ d.year ≤ 2199 ∧ 1 ≤ d.day ∧ d.day ≤ yearLength d.year)

/-- R157: a count is one octet. -/
def countWf (n : Nat) : Bool := decide (n ≤ 255)

def Instr.wf (i : Instr) : Bool :=
  match i with
  | .galleryFrame f => f.fits && frameGood .gallery 0 f
  | .plantFrame f own => ownAddressWf own && f.fits && frameGood .plant own f
  | .presence f => frameOfKind kindPresence f
  | .clock f => frameOfKind kindClock f
  | .read rq _ _ _ n => rq.wf && countWf n
  | .write rq _ _ _ values => rq.wf && countWf values.length
  | .enableWrite rq t _ _ => rq.wf && hasEnable t
  | .raisedSinceRead rq => rq.wf
  | .clearSinceRead rq => rq.wf
  | .overflow rq => rq.wf
  | .portEnableWrite rq _ _ => rq.wf
  | .rateWrite rq _ _ => rq.wf
  | .ownAddressWrite rq _ => rq.wf
  | .supervisionWindowWrite rq _ => rq.wf
  | .maskWrite rq _ _ => rq.wf
  | .shadeGroupWrite rq _ _ => rq.wf
  | .zoneModeWrite rq _ _ _ => rq.wf
  | .tagCheckWrite rq _ _ => rq.wf
  | .bandWrite rq _ _ _ => rq.wf
  | .airHandlerWrite rq _ _ _ => rq.wf
  | .ceilingTermsWrite rq _ _ => rq.wf
  | .openMinutesWrite rq _ _ => rq.wf
  | .groupLimitWrite rq _ _ _ => rq.wf
  | .save rq => rq.wf
  | .restart rq => rq.wf
  | .doseSet rq _ _ _ => rq.wf
  | .rehunt rq _ => rq.wf
  | .capClear rq _ => rq.wf
  | .clearLatched rq => rq.wf
  | .settleExpiry g => decide (g < 48)
  | .dayRoll d => d.wf
  | _ => true

end Sys2Proof
end

