-- ==== Sys2Proof/Certificates/Slice0/Obligations.lean ====
section
/-! DEFINITION. The statements for the provers, by chapter of the manual. -/

open Sys2Proof Sys2Proof.Machine

/-! ### Steps, reset and load -/

/-- A step takes the command at the front of the queue. -/
def Obligations.StepRunsFrontCommand : Prop :=
  ∀ (c : Instr) (rest : List Instr) (s : State), s.pending = c :: rest → step s = exec c { s with pending := rest }

/-- With no command waiting, a step takes the oldest event handed on, unless it has been put off, and with none of
these it lets one time unit pass: the clock and the Calendar's second in progress advance, and exactly the events are
handed on whose instant has come (the model's choice: log entries 2 and 5; the end of the load is free, but for the one
second of R173).
When an event has been put off: its timer has been stopped or restarted (R34, R169), the line is no longer FREE (R25), or
the RESTART is past it (R167); frames, rolls and seconds never are (log entry 2). -/
def Obligations.IdleStepTakesEventsThenTime : Prop :=
  (∀ s : State,
     let due := fun c => stillDue s c = true
     (due .plantTransmitComplete ↔ ∃ x, s.plantTx = some x ∧ x.ends ≤ s.now) ∧
     (due .galleryTransmitComplete ↔ ∃ tr e, s.line = .busy tr ∧ tr.phase = .sending e ∧ e ≤ s.now) ∧
     (due .replyWindowExpiry ↔ ∃ tr e, s.line = .busy tr ∧ tr.phase = .window e ∧ e ≤ s.now) ∧
     (due .turnaroundEnd ↔ ∃ e, s.line = .turnaround e ∧ e ≤ s.now) ∧
     (∀ p, due (.gapTimerExpiry p) ↔
       ∃ octets e, assemblerOf s p = .collect octets (some e) ∧ e + 4 * charUnits s p < s.now) ∧
     (due .pollDue ↔ s.line = .free ∧ ∃ e rest, s.pollList = e :: rest ∧ e.due ≤ s.now / unitsPerMs) ∧
     (∀ g, due (.settleExpiry g) ↔ ∃ e, (s.group g).phase = .settling e ∧ e ≤ s.now) ∧
     (due .supervisionExpiry ↔ ∃ e, s.supervision.timer = some e ∧ e ≤ s.now) ∧
     (∀ m, due (.minuteTick m) ↔ 59 ≤ s.calendar.seconds ∧ unitsPerSecond ≤ s.calendar.phase) ∧
     (due .pageWriteTimeout ↔ ∃ v, s.save = some v ∧ v.deadline ≤ s.now) ∧
     (due .loadEnd ↔ s.loading = true) ∧ (due .restartSaveStart ↔ s.procedure.restart = .replyGone) ∧
     due .pointAgeSecond ∧ ∀ c, isTimed c = false → c ≠ .restartSaveStart → due c) ∧
  ∀ s : State, s.pending = [] →
    (∀ (c : Instr) (rest : List Instr), s.handed = c :: rest →
      step s = if stillDue s c then exec c s else .next { s with handed := rest }) ∧
    (s.handed = [] → ∃ t, step s = .next t ∧ t.now = s.now + 1 ∧
      { t with now := s.now, calendar := s.calendar, handed := [], freeCount := s.freeCount } = s ∧
      (let c := s.calendar
       t.calendar =
         if c.phase + 1 < unitsPerSecond then { c with phase := c.phase + 1 }
         else if c.seconds < 59 then { c with phase := 0, seconds := c.seconds + 1 }
         else { c with phase := unitsPerSecond }) ∧
      (.loadEnd ∈ t.handed → s.loading = true) ∧
      (s.loading = true → unitsPerSecond ≤ t.now → .loadEnd ∈ t.handed) ∧
      (.plantTransmitComplete ∈ t.handed ↔ ∃ x, s.plantTx = some x ∧ x.ends ≤ t.now) ∧
      (.galleryTransmitComplete ∈ t.handed ↔ ∃ tr e, s.line = .busy tr ∧ tr.phase = .sending e ∧ e ≤ t.now) ∧
      (.replyWindowExpiry ∈ t.handed ↔ ∃ tr e, s.line = .busy tr ∧ tr.phase = .window e ∧ e ≤ t.now) ∧
      (.turnaroundEnd ∈ t.handed ↔ ∃ e, s.line = .turnaround e ∧ e ≤ t.now) ∧
      (∀ p, .gapTimerExpiry p ∈ t.handed ↔
        ∃ octets e, assemblerOf s p = .collect octets (some e) ∧ e + 4 * charUnits s p < t.now) ∧
      (.pollDue ∈ t.handed ↔ s.line = .free ∧ ∃ e rest, s.pollList = e :: rest ∧ e.due ≤ t.now / unitsPerMs) ∧
      (∀ g, .settleExpiry g ∈ t.handed ↔ g < 48 ∧ ∃ e, (s.group g).phase = .settling e ∧ e ≤ t.now) ∧
      (.supervisionExpiry ∈ t.handed ↔ ∃ e, s.supervision.timer = some e ∧ e ≤ t.now) ∧
      (.pointAgeSecond ∈ t.handed ↔ t.now % unitsPerSecond = 0) ∧
      ((∃ m, .minuteTick m ∈ t.handed) ↔ 59 ≤ s.calendar.seconds ∧ unitsPerSecond ≤ s.calendar.phase + 1) ∧
      (.pageWriteTimeout ∈ t.handed ↔ ∃ v, s.save = some v ∧ v.deadline ≤ t.now) ∧
      ∀ c ∈ t.handed, isTimed c = true)

/-- No step stops: every command has an effect in every state. -/
def Obligations.EveryStepAnswersNext : Prop := ∀ s : State, ∃ t, step s = .next t

/-- RESET with no image in the store, with a header that fails its check, or with no answer from the store (R173):
every table holds its factory defaults, and IMAGE_FAULT is raised but for an empty store, which has no marker. The store
is what a page in flight leaves of it (R178). CLOCK_UNSET is raised at every reset (R65), with the masks as loaded (R147).
The state before LOAD_END and a torn page are the model's choices (log entries 6 and 8), and that CLOCK_UNSET comes
before IMAGE_FAULT is deduced (log entry 12).
R172, R182: the header passes where the store answers and its 19 octets are the marker, the format, the record counts and
their CRC. -/
def Obligations.ResetWithoutImage : Prop :=
  (∀ (answers : Bool) (m : List Host.Cell),
     let values : List Byte := [0x4E, 0x4C, 1, 0, 1, 0, 64, 0, 192, 1, 0, 0, 48, 0, 24, 1, 25]
     judgeHeader answers m = .passed ↔
       answers = true ∧ storeReadAll m 0 19 = values ++ octetsOf (crc16 values)) ∧
  ∀ (pins : Pins) (s : State), judgeHeader pins.storeAnswers (tearPage s).store ≠ .passed →
    let failed := pins.storeAnswers = false ∨ storeReadAll (tearPage s).store 0 2 = octetsOf 0x4E4C
    exec (.reset pins) s = .next { State.reset with
      pending := s.pending
      freeCount := (tearPage s).freeCount
      pins := pins
      store := (tearPage s).store
      device :=
        if pins.addrSel0 && pins.addrSel1 then { factoryDevice with ownAddress := 126, mgmtAddress := 0 }
        else factoryDevice
      conditions :=
        if failed then [⟨.clockUnset, 0, .active, 0, 0, 0⟩, ⟨.imageFault, 0, .active, 0, 0, 0⟩]
        else [⟨.clockUnset, 0, .active, 0, 0, 0⟩]
      faulty := if failed then [0] else []
      imageFaultRaised := if failed then true else false }

/-- RESET with a good header (R173, R174, R175, R77, R128, R177). Each table entry is the one its record holds, or a blank
one where the record fails its check; an enabled node at the own address is disabled; an object takes its dose record, or
the substitute of R174; a zone takes its setpoints, or its targets, brought into the narrowed bands; the faulty sections
are those with a failed record, and section 2 after a clash. IMAGE_FAULT and DOSE_UNKNOWN stand in the Condition Table,
with DOSE_EXHAUSTED and PACE_SHORT where the ceiling computation sets their flags (R89), but that a table full of ACTIVE
entries sets the overflow latch instead (R143).
What waits for LOAD_END and the place of CLOCK_UNSET in the order are the model's (log entries 8, 12 and 13). -/
def Obligations.ResetLoadsRecords : Prop :=
  ∀ (pins : Pins) (s : State), judgeHeader pins.storeAnswers (tearPage s).store = .passed →
    let m := (tearPage s).store
    let settings := (checkedValues m .settings).bind parseSettings
    let device := (settings.map Prod.fst).getD factoryDevice
    let stamp := ((checkedValues m .stamp).bind parseStamp).getD ⟨0, 0⟩
    let node := fun i => ((checkedValues m (.node i)).bind parseNode).getD factoryNode
    ∃ t, exec (.reset pins) s = .next t ∧ t.store = m ∧ t.loading = true ∧ t.line = .off ∧ t.pins = pins ∧
      t.device =
        (if pins.addrSel0 && pins.addrSel1 then { device with ownAddress := 126, mgmtAddress := 0 } else device) ∧
      (∀ i : Fin 17, t.counters[i] =
        ⟨0, 0, 0, ((settings.map fun x => (x.2.getD i 0).toNat).getD 0)⟩) ∧
      (∀ i < 192, t.point i = ((checkedValues t.store (.point i)).bind parsePoint).getD factoryPoint) ∧
      (∀ i < 48, t.group i = ((checkedValues t.store (.group i)).bind parseGroup).getD factoryGroup) ∧
      (let clash := fun i => (node i).enable = true ∧ (node i).address = t.device.ownAddress
       (∀ i < 64, (clash i → t.node i = { node i with enable := false, state := .absent }) ∧
         (¬clash i → t.node i = node i)) ∧
       (∀ n, n ∈ t.faulty ↔ sectionFails m n ∨ n = 2 ∧ ∃ i < 64, clash i) ∧
       (t.imageFaultRaised = true ↔ (∃ n, 1 ≤ n ∧ n ≤ 6 ∧ sectionFails m n) ∨ ∃ i < 64, clash i) ∧
       (t.imageFaultRaised = true →
         (∃ e ∈ t.conditions, e.kind = .imageFault ∧ e.subject = 0 ∧ e.state = .active) ∨
           t.latches.overflow = true)) ∧
      ⟨.clockUnset, 0, .active, 0, 0, 0⟩ ∈ t.conditions ∧
      (∀ i < 256,
        let o := ((checkedValues m (.object i)).bind parseObject).getD factoryObject
        let record := (checkedValues m (.dose i)).bind parseDose
        let dosed := fun c => match record with
          | some d => { o with
              dose := d.dose, fraction := d.fraction, remaining := d.remaining, previousYear := d.previousYear,
              lastRoll := d.lastRoll, unknown := false, ceiling := c }
          | none => { o with
              dose := o.budget, fraction := 0, remaining := o.planned, previousYear := 0,
              lastRoll :=
                if stamp.year = 0 then 0 else if o.startDay ≤ stamp.day then stamp.year else stamp.year - 1,
              unknown := o.enable, ceiling := c }
        t.object i = (if o.enable then pacedCeiling (dosed o.cfloor) else dosed o.cfloor) ∧
          (let stands := fun k => (∃ e ∈ t.conditions, e.kind = k ∧ e.subject = i ∧ e.state = .active) ∨
             t.latches.overflow = true
           (record = none → o.enable = true → stands .doseUnknown) ∧
           (o.enable = true → (t.object i).exhausted = true → stands .doseExhausted) ∧
           (o.enable = true → (t.object i).paceShort = true → stands .paceShort))) ∧
      (∀ i < 24,
        let z := ((checkedValues m (.zone i)).bind parseZone).getD factoryZone
        let record := (checkedValues m (.setpoint i)).bind parseSetpoints
        let placed := fun (c : Climate) (v : Option Int) => clampSetpoint { c with setpoint := v.getD c.target }
        t.zone i = { z with
          rh := placed z.rh (record.map Prod.fst), temp := placed z.temp (record.map Prod.snd) })

/-- LOAD_END (R173, R31, R97, R101, R128, R147, R168): the poll due list is built, the modes of the enabled zones are
judged and their evaluations requested, the ports start, the ACTIVE conditions are reported, the TRIMs are offered, the
window timer starts, and a grant is made; tables, settings and store stay as loaded. The order of the zones is log entry
36.
What is done here and what at RESET is the model's choice (log entry 13), and so is what a LOAD_END does with no load in
progress, and that one is taken whatever the clock shows (log entry 1). -/
def Obligations.LoadEndStartsThePart : Prop :=
  ∀ s : State,
    (s.loading = true →
      let polls := (indicesWhere 64 fun n => (s.node n).enable).map fun n => ⟨n, runningMs s⟩
      let evaluated := (List.range 24).foldl (fun v z =>
          if (v.zone z).enable then
            requestCore z (v.modZone z fun zn => { zn with mode := judgedMode v.calendar zn }) else v)
        { taken .loadEnd s with pollList := polls }
      let started := { evaluated with
        loading := false, galleryAsm := .hunt, plantAsm := .hunt
        line := if s.device.galleryEnable then .free else evaluated.line }
      let reported := started.conditions.foldl (fun v e =>
          if e.state = .latched ∨ masked v e.kind = true then v
          else offerOrigin
            ⟨if v.device.mgmtAddress = 0 then broadcast else byteOfNat v.device.mgmtAddress, kindCondition,
              [byteOfNat (conditionCode e.kind), byteOfNat e.subject, 1] ++
                octetsOfAll [halfOfNat e.detail, halfOfNat e.day, halfOfNat e.minute],
              .condition⟩ v) started
      let trimmed := (List.range 24).foldl (fun v z =>
          let zn := v.zone z
          if zn.enable = true ∧ zn.airAddress ≠ 0 then offerOrigin
            ⟨byteOfNat zn.airAddress, kindTrim,
              byteOfNat zn.airChannel :: (octetsOf (halfOfInt zn.rh.setpoint) ++ octetsOf (halfOfInt zn.temp.setpoint)),
              .trim z⟩ v
          else v) reported
      exec .loadEnd s = .next (grant (if s.device.supervisionWindow = 0 then trimmed
        else { trimmed with supervision := { trimmed.supervision with
          timer := some (s.now + s.device.supervisionWindow * unitsPerSecond) } }))) ∧
    (s.loading = true → ∃ t, exec .loadEnd s = .next t ∧ t.loading = false ∧
      t.galleryAsm = .hunt ∧ t.plantAsm = .hunt ∧
      t.pollList = (indicesWhere 64 fun n => (s.node n).enable).map (fun n => ⟨n, runningMs s⟩) ∧
      t.supervision = (if s.device.supervisionWindow = 0 then s.supervision
        else { s.supervision with timer := some (s.now + s.device.supervisionWindow * unitsPerSecond) }) ∧
      (∀ z < 24, (s.zone z).enable = true → (t.zone z).mode = judgedMode s.calendar (s.zone z)) ∧
      (s.device.galleryEnable = true → t.line ≠ .off) ∧
      (s.device.galleryEnable = false → s.line = .off → t.line = .off) ∧
      t.nodes = s.nodes ∧ t.points = s.points ∧ t.objects = s.objects ∧ t.device = s.device ∧
      t.calendar = s.calendar ∧ t.store = s.store ∧ t.save = s.save ∧ t.procedure = s.procedure ∧
      t.handed = s.handed.erase .loadEnd) ∧
    (s.loading = false → exec .loadEnd s = .next (taken .loadEnd s))

/-! ### The ports (01) -/

/-- RECEIVE_CHARACTER (R3, R4, R6, R8, R18): what a start bit and a character do in HUNT and in COLLECT, but for the
restart of R5. GAP_TIMER_EXPIRY (R4).
The model's choices: an expiry with no gap timer running does nothing, and one is taken whatever the clock shows (log
entry 1), a good frame waits in the handed list,
a gallery frame with the line as it completed (log entry 2; RepliesReachNodeOrPlant says what `noteArrival` notes), and a
character ends within the gap limit where no start bit was given (log entry 11).
R6, R7: which complete frame is good: its CHECK, its addresses, and what its kind asks of its payload at either port; and
the event that it is. When a port takes characters (R8, R18). R154: what counting does, and where each counter stands. -/
def Obligations.AssemblerTakesCharacters : Prop :=
  (∀ (p : PortId) (own : Byte) (f : Frame),
     let n := f.payload.length
     let octet := fun i => (f.payload.getD i 0).toNat
     let wellFormed := match p with
       | .gallery =>
           (f.kind = 0x21 → n ≠ 0 ∧ n ≤ 32 ∧ n % 4 = 0 ∧ ∀ i < n, i % 4 = 0 →
             octet i ≤ 7 ∧ 1 ≤ octet (i + 1) / 16 ∧ octet (i + 1) / 16 ≤ 4 ∧ octet (i + 1) % 16 ≤ 3) ∧
           (f.kind = 0x22 → n = 16) ∧
           (f.kind = 0x23 → n ≠ 0 ∧ n ≤ 12 ∧ n % 3 = 0 ∧ ∀ i < n, i % 3 = 0 →
             octet i ≤ 3 ∧ octet (i + 1) * 256 + octet (i + 2) ≤ 1000)
       | .plant =>
           (f.kind = 0x40 → n = 6) ∧ (f.kind = 0x41 → n = 0) ∧
           (f.kind = 0x30 → f.dest ≠ own → n = 4 ∧ octet 0 ≤ 3 ∧ octet 3 ≤ 60)
     (frameGood p own f = true ↔
       f.check = crc16 (f.dest :: f.src :: f.kind :: f.seq :: BitVec.ofNat 8 n :: f.payload) ∧
       1 ≤ f.dest.toNat ∧ f.dest.toNat ≤ 127 ∧ 1 ≤ f.src.toNat ∧ f.src.toNat ≤ 126 ∧ wellFormed) ∧
     frameEvent .gallery own f = .galleryFrame f ∧
     (let toPart := f.dest = own ∨ f.dest = 127
      (toPart → f.kind = 0x41 → frameEvent .plant own f = .presence f) ∧
      (toPart → f.kind = 0x40 → frameEvent .plant own f = .clock f) ∧
      (¬toPart ∨ f.kind ≠ 0x41 ∧ f.kind ≠ 0x40 → frameEvent .plant own f = .plantFrame f own))) ∧
  (∀ s : State,
     (receiving s .plant = true ↔ s.loading = false ∧ s.device.plantEnable = true) ∧
     (receiving s .gallery = true ↔ s.loading = false ∧ s.device.galleryEnable = true ∧
       ∀ tr e, s.line = .busy tr → tr.phase ≠ .sending e)) ∧
  (∀ (c : CounterId) (n : Nat) (s : State),
     let t := countMany c n s
     (∀ i : Fin 17, t.counters[i] = if i.val = counterIndex c then bumpCounter n s.counters[i] else s.counters[i]) ∧
     { t with counters := s.counters } = s ∧ count c s = countMany c 1 s ∧
     ∀ x : Counter, bumpCounter n x =
       { x with current := min 65535 (x.current + n), total := min 4294967295 (x.total + n) }) ∧
  [CounterId.galleryGood, .galleryCheckErrors, .galleryCharErrors, .galleryStrays, .galleryMisses, .galleryLatePolls,
    .p2gDrops, .quarantined, .plantGood, .plantCheckErrors, .plantCharErrors, .g2pDrops, .plantOriginDrops,
    .clampedCommands, .droppedCommands, .serviceFormatErrors, .clockBad].map counterIndex = List.range 17 ∧
  (∀ (p : PortId) (r : Reception) (s : State), receiving s p = false → exec (.receiveCharacter p r) s = .next s) ∧
  (∀ (p : PortId) (s : State), receiving s p = true →
     (assemblerOf s p = .hunt → exec (.receiveCharacter p .startBit) s = .next s) ∧
     (∀ octets gap, assemblerOf s p = .collect octets gap →
       exec (.receiveCharacter p .startBit) s = .next (setAssembler p (.collect octets none) s))) ∧
  (∀ (p : PortId) (c : Character) (s : State), receiving s p = true →
     let run := exec (.receiveCharacter p (.ended c)) s
     (assemblerOf s p = .hunt →
       run = .next (if c.stopGood && c.marker then setAssembler p (.collect [c.octet] (some s.now)) s else s)) ∧
     (∀ octets gap, assemblerOf s p = .collect octets gap →
       let idle := setAssembler p .hunt s
       (c.stopGood = false → run = .next (count (charErrorCounter p) idle)) ∧
       (c.stopGood = true → c.marker = false → octets.length = 4 → 48 < c.octet.toNat →
         run = .next (count (charErrorCounter p) idle)) ∧
       (c.stopGood = true → c.marker = false → ¬(octets.length = 4 ∧ 48 < c.octet.toNat) →
         (frameOfOctets (octets ++ [c.octet]) = none →
           run = .next (setAssembler p (.collect (octets ++ [c.octet]) (some s.now)) s)) ∧
         (∀ f, frameOfOctets (octets ++ [c.octet]) = some f →
           run =
             .next (if frameGood p (ownOctet s) f then
                 handOn (frameEvent p (ownOctet s) f) (count (goodCounter p) (noteArrival p f idle))
               else count (checkErrorCounter p) idle))))) ∧
  (∀ (p : PortId) (s : State),
     let u := taken (.gapTimerExpiry p) s
     ((assemblerOf s p = .hunt ∨ ∃ octets, assemblerOf s p = .collect octets none) →
         exec (.gapTimerExpiry p) s = .next u) ∧
       (∀ octets e, assemblerOf s p = .collect octets (some e) →
         exec (.gapTimerExpiry p) s = .next (count (charErrorCounter p) (setAssembler p .hunt u))))

/-- R5: a marker-1 character in COLLECT starts a new frame, wherever it arrives. -/
def Obligations.MarkerRestartsFrame : Prop :=
  ∀ (p : PortId) (c : Character) (s : State) (octets : List Byte) (gap : Option Nat),
    receiving s p = true → assemblerOf s p = .collect octets gap → c.marker = true → c.stopGood = true →
    exec (.receiveCharacter p (.ended c)) s =
      .next (count (charErrorCounter p) (setAssembler p (.collect [c.octet] (some s.now)) s))

/-- R3, R179: an assembler makes of the octets of a frame that frame, at its second CHECK octet and not before.
R1: the characters that the part sends for a frame, and their bits; a port sends those of its frame in flight. The time
of a character at each rate, and of a second and a millisecond, in the time units of log entry 5.
R2, R179: the octets of a frame, the CHECK that a frame is built with, the CRC octet by octet with its check value, and
the codes of the kinds. What the payloads of SAMPLE, ECHO, LEVEL, CLOCK and TAG hold (11, the frames). -/
def Obligations.FrameCompletesAtItsCheck : Prop :=
  (let shift := fun r : Half => if r.getLsbD 15 then (r <<< 1) ^^^ 0x1021 else r <<< 1
   crc16 [] = 0xFFFF ∧
     (∀ (octets : List Byte) (b : Byte), crc16 (octets ++ [b]) = shift^[8] (crc16 octets ^^^ (b ++ (0 : Byte)))) ∧
     crc16 [0x31, 0x32, 0x33, 0x34, 0x35, 0x36, 0x37, 0x38, 0x39] = 0x29B1) ∧
  (∀ f : Frame, frameOctets f =
     [f.dest, f.src, f.kind, f.seq, BitVec.ofNat 8 f.payload.length] ++ f.payload ++
       [f.check.extractLsb' 8 8, f.check.extractLsb' 0 8]) ∧
  (∀ (dest src kind seq : Byte) (payload : List Byte), buildFrame dest src kind seq payload =
     ⟨dest, src, kind, seq, payload,
       crc16 (dest :: src :: kind :: seq :: BitVec.ofNat 8 payload.length :: payload)⟩) ∧
  [kindPoll, kindSample, kindTag, kindEcho, kindLevel, kindTrim, kindClock, kindPresence, kindService, kindServiceReply,
    kindCondition, broadcast] = [0x20, 0x21, 0x22, 0x23, 0x30, 0x31, 0x40, 0x41, 0x50, 0x51, 0x52, 127] ∧
  (∀ h : Half, octetsOf h = [h.extractLsb' 8 8, h.extractLsb' 0 8]) ∧
  (readingsOf [] = some [] ∧
     ∀ (ch codes hi lo : Byte) (rest : List Byte) (q : Quantity) (g : Quality),
       ch.toNat ≤ 7 → [none, some Quantity.illum, some .uvr, some .temp, some .rh][codes.toNat / 16]? = some (some q) →
       [Quality.good, .over, .under, .fault][codes.toNat % 16]? = some g →
       readingsOf (ch :: codes :: hi :: lo :: rest) =
         (readingsOf rest).map fun rs => ⟨ch.toNat, q, g, hi ++ lo⟩ :: rs) ∧
  (echoEntriesOf [] = some [] ∧
     ∀ (ch hi lo : Byte) (rest : List Byte), ch.toNat ≤ 3 → (hi ++ lo : Half).toNat ≤ 1000 →
       echoEntriesOf (ch :: hi :: lo :: rest) =
         (echoEntriesOf rest).map fun es => ⟨ch.toNat, (hi ++ lo : Half).toNat⟩ :: es) ∧
  (∀ payload : List Byte,
     (∀ (ch hi lo fade : Byte), payload = [ch, hi, lo, fade] →
       levelOf payload = some ⟨ch.toNat, (hi ++ lo : Half).toNat, fade⟩) ∧
     (∀ (y1 y0 d1 d0 m1 m0 : Byte), payload = [y1, y0, d1, d0, m1, m0] →
       clockOf payload = some ⟨(y1 ++ y0 : Half).toNat, (d1 ++ d0 : Half).toNat, (m1 ++ m0 : Half).toNat⟩) ∧
     (payload.length ≠ 4 → levelOf payload = none) ∧ (payload.length ≠ 6 → clockOf payload = none) ∧
     (payload.length = 16 → ∀ i : Fin 8,
       (tagOf payload)[i] = (payload.getD (2 * i.val) 0 ++ payload.getD (2 * i.val + 1) 0 : Half))) ∧
  (∀ (ch l : Nat) (fade : Byte), levelPayload ch l fade =
     [BitVec.ofNat 8 ch, (BitVec.ofNat 16 l).extractLsb' 8 8, (BitVec.ofNat 16 l).extractLsb' 0 8, fade]) ∧
  (∀ (s : State) (p : PortId),
     let bits := match p, (match p with | .gallery => s.device.galleryRate | .plant => s.device.plantRate) with
       | .gallery, .slow => 19200
       | .gallery, .fast => 38400
       | .plant, .slow => 57600
       | .plant, .fast => 115200
     charUnits s p * bits = 11 * unitsPerSecond) ∧
  unitsPerSecond = 1000 * unitsPerMs ∧
  (∀ f : Frame, f.payload.length ≤ 48 →
     frameOfOctets (frameOctets f) = some f ∧
       ∀ k < (frameOctets f).length, frameOfOctets ((frameOctets f).take k) = none) ∧
  (∀ f : Frame,
     let cs := charactersOf (frameOctets f)
     cs.length = 7 + f.payload.length ∧ cs.map Character.octet = frameOctets f ∧
       ∀ (i : Nat) (c : Character), cs[i]? = some c → c.stopGood = true ∧ (c.marker = true ↔ i = 0)) ∧
  (∀ c : Character,
     let bits := characterBits c
     bits.length = 11 ∧ bits[0]? = some false ∧ (∀ i < 8, bits[i + 1]? = some (c.octet.getLsbD i)) ∧
       bits[9]? = some c.marker ∧ bits[10]? = some c.stopGood) ∧
  (∀ (s : State) (tr : Transaction) (e : Nat), s.line = .busy tr → tr.phase = .sending e →
     gallerySends s = charactersOf (frameOctets tr.frame)) ∧
  (∀ (s : State) (tx : PlantTx), s.plantTx = some tx → plantSends s = charactersOf (frameOctets tx.frame))

/-- PLANT_TRANSMIT_COMPLETE (R17, R2, R167): the transmitter is free, and the arbiter takes the head of the queue that
the turn flag does not name, or of the one that holds frames. That it is taken whatever the clock shows is the model's
choice (log entry 1). -/
def Obligations.ArbiterTakesByTurn : Prop :=
  ∀ (s : State) (tx : PlantTx), s.plantTx = some tx →
    let u0 := { taken .plantTransmitComplete s with plantTx := none }
    let u := if tx.ofRestart then restartReplyGone u0 else u0
    (s.g2p = [] → s.plantOrigin = [] → exec .plantTransmitComplete s = .next u) ∧
    (∀ f rest, s.g2p = f :: rest → (s.plantOrigin = [] ∨ s.turn = .origin) →
      exec .plantTransmitComplete s = .next { u with
        g2p := rest, turn := .g2p,
        plantTx := some ⟨f, .g2p, false, s.now + (7 + f.payload.length) * charUnits s .plant⟩ }) ∧
    (∀ o rest, s.plantOrigin = o :: rest → (s.g2p = [] ∨ s.turn = .g2p) →
      exec .plantTransmitComplete s = .next { u with
        plantOrigin := rest, turn := .origin, plantSeq := s.plantSeq + 1,
        plantTx := some ⟨buildFrame o.dest (ownOctet s) o.kind s.plantSeq o.payload, .origin, o.tag == .reply true,
          s.now + (7 + o.payload.length) * charUnits s .plant⟩ })

/-- PLANT_FRAME (R13, R14, R25): the dispatch of a good frame by its destination and kind, with the own address as its
assembly completed. That it is taken whatever the plant port's enable shows is the model's choice (log entry 2).
A CLOCK reaches the Calendar as the CLOCK command does, after the CLOCK frames and the rolls that wait (R68, R69; that they
wait in the handed list is log entry 2).
SERVICE (R156, R157, R160, R166): the elements of a request are taken in order, each with its result, until one ends the
request with FORMAT; a READ without room in the reply takes nothing and answers TOO_LONG; the reply follows, then the full
save of an accepted SAVE and the grant that a value or a procedure asks for (the order of these two is log entry 25).
R157, R180: the elements that a payload holds. That one with FORMAT loads no cursor is log entry 32, and
that a refused CALL loads its cursor is log entry 40. -/
def Obligations.PlantFrameIsDispatched : Prop :=
  (∀ (rq : Requester) (es : List (Option Element)) (s : State),
     let w := takeElements es ⟨supervisionRestart s, [], false, false, false⟩
     let r := offerOrigin ⟨rq.src, kindServiceReply, rq.seq :: w.results, .reply w.restartAsked⟩ w.state
     serviceRequest rq es s = grantAfter w.grantAsked (if w.saveAsked then startSave .full false r else r)) ∧
  (∀ w : Work,
     takeElements [] w = w ∧
     (∀ e es, takeElements (e :: es) w = takeElements es (takeElement e es.length w)) ∧
     (∀ later, takeElement none later w =
       { w with state := count .serviceFormatErrors w.state, results := w.results ++ [statusCode .format] }) ∧
     (∀ t c m n later,
       let u := loadCursor t c w.state
       let r := readValues t m n u
       let octets := 1 + w.results.length + (1 + 2 * n) + later
       (48 < octets → takeElement (some (.read t c m n)) later w =
         { w with state := u, results := w.results ++ [statusCode .tooLong] }) ∧
       (octets ≤ 48 → takeElement (some (.read t c m n)) later w =
         { w with
           state := r.1
           results := w.results ++ statusCode (if r.2.2 then .range else .ok) :: octetsOfAll r.2.1 })) ∧
     (∀ t c m values later,
       let r := writeValues t m values (loadCursor t c w.state)
       takeElement (some (.write t c m values)) later w =
         { w with
           state := r.state
           results := w.results ++ [statusCode r.status]
           grantAsked := w.grantAsked || r.grantAsked }) ∧
     (∀ t c p later,
       let u := loadCursor t c w.state
       (∀ st, judgeCall u p = some st → takeElement (some (.call t c p)) later w =
         { w with state := u, results := w.results ++ [statusCode st] }) ∧
       (judgeCall u p = none → takeElement (some (.call t c p)) later w =
         { state := runCall p u
           results := w.results ++ [statusCode (if p = .save ∨ p = .restart then .started else .ok)]
           saveAsked := w.saveAsked || p == .save
           restartAsked := w.restartAsked || p == .restart
           grantAsked := w.grantAsked || asksGrant u (runCall p u) }))) ∧
  (elementsOf [] = [] ∧ (∀ b, elementsOf [b] = [none]) ∧
   ∀ (control table : Byte) (rest : List Byte),
     let operation := control.toNat / 64
     let loads := control.toNat / 32 % 2 = 1
     let mode := match control.toNat / 8 % 4 with
       | 1 => StepMode.field
       | 2 => .entry
       | _ => .stay
     let all := elementsOf (control :: table :: rest)
     (8 ≤ table.toNat → all = [none]) ∧
     (loads → rest.length < 3 → all = [none]) ∧
     ∀ t c body, tableNumber t = table.toNat →
       (¬loads ∧ c = none ∧ rest = body ∨ loads ∧ ∃ e1 e0 f, c = some ⟨halfOf e1 e0, f⟩ ∧ rest = e1 :: e0 :: f :: body) →
       (body = [] → all = [none]) ∧
       ∀ n tail, body = n :: tail →
         (n = 0 ∨ 16 < n.toNat ∨ operation = 0 → all = [none]) ∧
         (1 ≤ n.toNat → n.toNat ≤ 16 →
           (operation = 1 → all = some (.read t c mode n.toNat) :: elementsOf tail) ∧
           (operation = 2 →
             (tail.length < 2 * n.toNat → all = [none]) ∧
             (2 * n.toNat ≤ tail.length → all =
               some (.write t c mode (halvesOf (tail.take (2 * n.toNat)))) :: elementsOf (tail.drop (2 * n.toNat)))) ∧
           (operation = 3 →
             (tail = [] → all = [none]) ∧
             ∀ code args, tail = code :: args →
               (code = 1 → all = some (.call t c .save) :: elementsOf args) ∧
               (code = 2 → all = some (.call t c .restart) :: elementsOf args) ∧
               (code = 3 → args.length < 18 → all = [none]) ∧
               (code = 3 → 18 ≤ args.length →
                 let hs := halvesOf (args.take 18)
                 all = some (.call t c (.doseSet (hs.getD 0 0) (Vector.ofFn fun i => hs.getD (i.val + 1) 0)
                   (hs.getD 7 0 ++ hs.getD 8 0))) :: elementsOf (args.drop 18)) ∧
               (code = 4 ∨ code = 5 → args.length < 2 → all = [none]) ∧
               (∀ a b after, args = a :: b :: after →
                 (code = 4 → all = some (.call t c (.rehunt (halfOf a b))) :: elementsOf after) ∧
                 (code = 5 → all = some (.call t c (.capClear (halfOf a b))) :: elementsOf after)) ∧
               (code = 6 → all = some (.call t c .clearLatched) :: elementsOf args) ∧
               (code = 0 ∨ 6 < code.toNat → all = [none])))) ∧
  ∀ (f : Frame) (own : Byte) (s : State), frameGood .plant own f = true →
    let u := taken (.plantFrame f own) s
    (f.dest = own → f.kind = kindService →
      exec (.plantFrame f own) s = .next (serviceRequest ⟨f.src, f.seq⟩ (elementsOf f.payload) u)) ∧
    (f.dest = own → f.kind ≠ kindService → f.kind ≠ kindPresence → f.kind ≠ kindClock →
      exec (.plantFrame f own) s = .next (count .serviceFormatErrors u)) ∧
    ((f.dest = own ∨ f.dest = broadcast) → f.kind = kindPresence →
      exec (.plantFrame f own) s = .next (supervisionRestart u)) ∧
    ((f.dest = own ∨ f.dest = broadcast) → f.kind = kindClock →
      exec (.plantFrame f own) s =
        .next (clockEvent f (takeRolls (taken (.clock f) (takeClocks u.handed u))))) ∧
    (f.dest ≠ own → (f.dest = broadcast → f.kind ≠ kindPresence ∧ f.kind ≠ kindClock) →
      ((portOn s .gallery = false ∨ 8 ≤ s.p2g.length) → exec (.plantFrame f own) s = .next (count .p2gDrops u)) ∧
      (portOn s .gallery = true → s.p2g.length < 8 → s.line ≠ .free →
        exec (.plantFrame f own) s = .next { u with p2g := s.p2g ++ [f] }) ∧
      (portOn s .gallery = true → s.p2g.length < 8 → s.line = .free →
        exec (.plantFrame f own) s = .next (grant { u with p2g := s.p2g ++ [f] })))

/-- R14, R16: an offer to the plant origin queue: it is discarded and counted with the port off or the queue full, and the
reply of a RESTART is then gone (R167); a TRIM takes the place of its zone's waiting one; any other joins the queue, and
is taken at once where the transmitter is free with nothing queued, with the own SRC, the SEQ and the CHECK (R2, R17).
R14, R17: an offer to G2P, while the transmitter is busy, and while it is free with nothing queued.
When a port is on (R18, R173). -/
def Obligations.OfferToPlantOrigin : Prop :=
  (∀ s : State,
     (∀ p, portOn s p = true ↔ s.loading = false ∧ match p with
       | .gallery => s.device.galleryEnable = true
       | .plant => s.device.plantEnable = true) ∧
     restartReplyGone s = (if s.procedure.restart = .awaitingReply then
       { s with handed := s.handed ++ [.restartSaveStart], procedure := { s.procedure with restart := .replyGone } }
       else s)) ∧
  (∀ (o : OriginFrame) (s : State),
     let counted := count .plantOriginDrops s
     let dropped :=
       if o.tag = .reply true ∧ s.procedure.restart = .awaitingReply then
         { counted with
           handed := s.handed ++ [.restartSaveStart], procedure := { s.procedure with restart := .replyGone } }
       else counted
     let replaced := fun w : OriginFrame => ∃ z, o.tag = .trim z ∧ w.tag = .trim z
     (portOn s .plant = false → offerOrigin o s = dropped) ∧
     (portOn s .plant = true → (∃ w ∈ s.plantOrigin, replaced w) →
       ∃ q, offerOrigin o s = { s with plantOrigin := q } ∧ q.length = s.plantOrigin.length ∧
         ∀ (i : Nat) (w : OriginFrame), s.plantOrigin[i]? = some w →
           q[i]? = some (if w.tag = o.tag then o else w)) ∧
     (portOn s .plant = true → (∀ w ∈ s.plantOrigin, ¬replaced w) →
       (24 ≤ s.plantOrigin.length → offerOrigin o s = dropped) ∧
       (s.plantOrigin.length < 24 → s.plantTx ≠ none →
         offerOrigin o s = { s with plantOrigin := s.plantOrigin ++ [o] }) ∧
       (s.plantOrigin = [] → s.g2p = [] → s.plantTx = none →
         let own : Byte := BitVec.ofNat 8 s.device.ownAddress
         let covered := o.dest :: own :: o.kind :: s.plantSeq :: BitVec.ofNat 8 o.payload.length :: o.payload
         offerOrigin o s = { s with
           turn := .origin, plantSeq := s.plantSeq + 1
           plantTx := some ⟨⟨o.dest, own, o.kind, s.plantSeq, o.payload, crc16 covered⟩, .origin, o.tag == .reply true,
             s.now + (7 + o.payload.length) * charUnits s .plant⟩ }))) ∧
  (∀ (f : Frame) (s : State),
     ((portOn s .plant = false ∨ 16 ≤ s.g2p.length) → offerG2p f s = count .g2pDrops s) ∧
     (portOn s .plant = true → s.g2p.length < 16 → s.plantTx ≠ none →
       offerG2p f s = { s with g2p := s.g2p ++ [f] }) ∧
     (portOn s .plant = true → s.g2p = [] → s.plantOrigin = [] → s.plantTx = none →
       offerG2p f s = { s with
         turn := .g2p
         plantTx := some ⟨f, .g2p, false, s.now + (7 + f.payload.length) * charUnits s .plant⟩ }))

/-! ### The gallery line (02) -/

/-- GALLERY_TRANSMIT_COMPLETE (R8, R23, R33): the reply window opens with the length in force, or the turnaround
begins. That it is taken whatever the clock shows is the model's choice (log entry 1). -/
def Obligations.TransmissionOpensWindow : Prop :=
  ∀ (s : State) (tr : Transaction) (e : Nat), s.line = .busy tr → tr.phase = .sending e →
    let u := taken .galleryTransmitComplete s
    (tr.awaited ≠ none → exec .galleryTransmitComplete s =
      .next { u with line := .busy { tr with phase := .window (s.now + s.device.replyWindow * unitsPerMs) } }) ∧
    (tr.awaited = none → exec .galleryTransmitComplete s =
      .next { u with line := .turnaround (s.now + 2 * charUnits s .gallery) })

/-- R24: the class granted is the first non-empty one in the cycle COMMAND, FORWARD, POLL from the pointer.
TURNAROUND_END and POLL_DUE with every class empty (R23, R24): the line stays FREE, and nothing is granted. That either
command is taken whatever the clock shows is the model's choice (log entry 1). -/
def Obligations.GrantFollowsTheCycle : Prop :=
  (∀ s : State,
     let ready := fun c : GrantClass => match c with
       | .command => s.galleryOrigin ≠ []
       | .forward => s.p2g ≠ []
       | .poll => ∃ e rest, s.pollList = e :: rest ∧ e.due ≤ runningMs s
     (chosenClass s = none ↔ ¬ready .command ∧ ¬ready .forward ∧ ¬ready .poll) ∧
     (∀ c, chosenClass s = some c ↔ ready c ∧
       (c = s.pointer ∨ ¬ready s.pointer ∧ (c = classAfter s.pointer ∨ c ≠ s.pointer ∧ ¬ready (classAfter s.pointer))))) ∧
  (∀ (c : Instr) (s u : State), makesGrant c s u → chosenClass u = none → exec c s = .next u)

/-- TURNAROUND_END and POLL_DUE where the turn falls to POLL (R30, R51, R2, R22). That either command is taken whatever the
clock shows is the model's choice (log entry 1). -/
def Obligations.PollGrantSendsPoll : Prop :=
  ∀ (c : Instr) (s u : State), makesGrant c s u → chosenClass u = some .poll →
    ∀ e rest, s.pollList = e :: rest →
      let n := s.node e.node
      let tagPoll := n.state = .tagcheck ∨ n.state = .displaced ∨ n.state = .online ∧ n.recheckDue = true
      ∃ t, exec c s = .next t ∧
        t.line = .busy
          { kind := .poll e.node
            frame := buildFrame (byteOfNat n.address) (ownOctet s) kindPoll s.gallerySeq [if tagPoll then 2 else 1]
            awaited := some (byteOfNat n.address)
            accepts := some (if tagPoll then kindTag else if n.role = .sensor then kindSample else kindEcho)
            phase := .sending (s.now + 8 * charUnits s .gallery)
            answers := [] } ∧
        t.counters[5] =
          (if e.due + n.pollPeriod * 1000 < runningMs s then bumpCounter 1 s.counters[5] else s.counters[5]) ∧
        t.pointer = .command ∧ t.gallerySeq = s.gallerySeq + 1 ∧ t.galleryAsm = .hunt ∧
        t.galleryOrigin = s.galleryOrigin ∧ t.p2g = s.p2g ∧ t.groups = s.groups ∧ t.zones = s.zones ∧
        t.conditions = s.conditions ∧ exceptLight t = exceptLight u

/-- TURNAROUND_END and POLL_DUE where the turn falls to COMMAND and the node can be reached (R28, R112, R2).
TURNAROUND_END and POLL_DUE where the turn falls to a COMMAND whose node cannot be reached, with nothing else to
grant and no evaluation pending (R26, R112): the grant is void. ACTUATOR_SILENT is raised where it becomes active (R111,
R112), before the next class is granted; that it counts as active by the group's record is log entry 20. Which nodes can
be reached (R110, R112). That either command is taken whatever the
clock shows is the model's choice (log entry 1). -/
def Obligations.CommandGrantSendsOrIsVoid : Prop :=
  (∀ (s : State) (n : Nat), nodeReachable s n = true ↔ (s.node n).enable = true ∧ (s.node n).state ≠ .displaced) ∧
  (∀ (c : Instr) (s u : State), makesGrant c s u → chosenClass u = some .command →
     ∀ g rest, s.galleryOrigin = g :: rest → g < 48 → nodeReachable s (s.group g).node = false →
       let gr := s.group g
       let idle := { u with pointer := .forward, galleryOrigin := rest }.modGroup g fun _ =>
         { gr with phase := .idle, resend := true, unavailable := true }
       let declined := if gr.unavailable = false ∧ gr.misses < 3 then raise .actuatorSilent g gr.zone idle else idle
       let atRest :=
         ∀ h < 48, h ≠ g → (s.group h).enable = true → (s.group h).zone = gr.zone → (s.group h).phase = .idle
       (s.zone gr.zone).evalPending = false ∨ ¬atRest → exec c s = .next (grant declined)) ∧
  (∀ (c : Instr) (s u : State), makesGrant c s u → chosenClass u = some .command →
     ∀ g rest, s.galleryOrigin = g :: rest → g < 48 → nodeReachable s (s.group g).node = true →
       let dest := byteOfNat (s.node (s.group g).node).address
       ∃ t, exec c s = .next t ∧
         t.line = .busy
           { kind := .command g (s.group g).node
             frame := buildFrame dest (ownOctet s) kindLevel s.gallerySeq
               (levelPayload (s.group g).channel (s.group g).level 0)
             awaited := some dest
             accepts := some kindEcho
             phase := .sending (s.now + 11 * charUnits s .gallery)
             answers := [] } ∧
         t.pointer = .forward ∧ t.gallerySeq = s.gallerySeq + 1 ∧ t.galleryOrigin = rest ∧ t.p2g = s.p2g ∧
         t.group g = { s.group g with phase := .sent } ∧ (∀ h, h ≠ g → t.group h = s.group h) ∧ t.zones = s.zones ∧
         t.conditions = s.conditions ∧ exceptLight t = exceptLight u) ∧
  (∀ (c : Instr) (s u : State), makesGrant c s u → s.pointer = .command →
     ∀ g, s.galleryOrigin = [g] → g < 48 → s.p2g = [] → pollHeadDue s = false →
       nodeReachable s (s.group g).node = false → (s.zone (s.group g).zone).evalPending = false →
       (let gr := s.group g
        let idle := { u with pointer := .forward, galleryOrigin := [] }.modGroup g fun _ =>
          { gr with phase := .idle, resend := true, unavailable := true }
        exec c s = .next
          (if gr.unavailable = false ∧ gr.misses < 3 then raise .actuatorSilent g gr.zone idle else idle)) ∧
       ∃ t, exec c s = .next t ∧ t.line = .free ∧ t.galleryOrigin = [] ∧ t.pointer = .forward ∧
         t.gallerySeq = s.gallerySeq ∧
         t.group g = { s.group g with phase := .idle, resend := true, unavailable := true } ∧
         (∀ h, h ≠ g → t.group h = s.group h) ∧ exceptLight t = exceptLight u)

/-- TURNAROUND_END and POLL_DUE where the turn falls to a FORWARD that no group's level limits (R29, R118): the frame
goes out as it arrived.
TURNAROUND_END and POLL_DUE where the turn falls to a LEVEL (R26, R29, R118 to R120): the frame goes out as it is
presented, and one that is declined leaves a void grant, after which the next class is granted. That either command is
taken whatever the clock shows is the model's choice (log entry 1). -/
def Obligations.ForwardGrantSendsFrame : Prop :=
  ∀ (c : Instr) (s u : State), makesGrant c s u → chosenClass u = some .forward → ∀ f rest, s.p2g = f :: rest →
    let sending : Frame → Line := fun x => .busy
      { kind := .forward
        frame := x
        awaited := if x.dest = broadcast then none else some x.dest
        accepts := none
        phase := .sending (s.now + (7 + x.payload.length) * charUnits s .gallery)
        answers := [] }
    ((f.kind = kindLevel → ∃ p, levelOf f.payload = some p ∧
        if f.dest = broadcast then channelBound s p.channel = false else groupsReached s f.dest p.channel = []) →
      ∃ t, exec c s = .next t ∧ t.line = sending f ∧
        t.pointer = .poll ∧ t.gallerySeq = s.gallerySeq ∧ t.p2g = rest ∧ t.galleryOrigin = s.galleryOrigin ∧
        t.groups = s.groups ∧ t.zones = s.zones ∧ t.conditions = s.conditions ∧ exceptLight t = exceptLight u) ∧
    (f.kind = kindLevel →
      let v := { u with pointer := .poll, p2g := rest }
      (∀ w x, presentLevel f v = (w, some x) →
        ∃ t, exec c s = .next t ∧ t.line = sending x ∧
          t.pointer = .poll ∧ t.gallerySeq = s.gallerySeq ∧ t.p2g = rest ∧ t.galleryOrigin = s.galleryOrigin ∧
          t.groups = w.groups ∧ t.zones = w.zones ∧ t.conditions = s.conditions ∧
          t.counters[13] = w.counters[13] ∧ exceptLight t = exceptLight u) ∧
      (∀ w, presentLevel f v = (w, none) → exec c s = .next (grant w)))

/-- REPLY_WINDOW_EXPIRY (R32, R36, R37, R48, R114): a miss for a POLL or a COMMAND, nothing more for a FORWARD; a polled
node is put back into the poll due list. A node that becomes SILENT raises NODE_SILENT with its address, and its points
are LOST (R48, R56). A group whose third miss this is raises ACTUATOR_SILENT (R111, R114), and the pending evaluation of
its zone runs where the zone has come to rest (R102); that the condition counts as active by the group's record is log
entry 20, and that it comes before the evaluation and before the node's own is log entry 36.
That the command is taken whatever the clock shows is the model's choice (log entry 1). -/
def Obligations.WindowExpiryIsAMiss : Prop :=
  (∀ (s : State) (tr : Transaction) (e : Nat), s.line = .busy tr → tr.phase = .window e →
    let counted := count .galleryMisses
      { taken .replyWindowExpiry s with line := .turnaround (s.now + 2 * charUnits s .gallery) }
    let missed := fun (n : Nat) (v : State) =>
      let nd := v.node n
      let misses := min 255 (nd.misses + 1)
      let silent := { v.modNode n fun _ => { nd with misses := misses, state := .silent, recheckDue := false } with
        points := v.points.map fun p => if p.enable && p.node == n then { p with state := .lost, pending := none } else p }
      if nd.enable = false then v
      else if nd.state = .online ∧ v.device.silenceThreshold ≤ misses then raise .nodeSilent n nd.address silent
      else v.modNode n fun _ => { nd with misses := misses }
    (∀ n, tr.kind = .poll n → ∃ t, exec .replyWindowExpiry s = .next t ∧ polledAgain n s t ∧
      { t with pollList := s.pollList } = missed n counted) ∧
    (∀ g n, tr.kind = .command g n → exec .replyWindowExpiry s = .next (missed n (commandExpiry g counted)))) ∧
  (∀ (g : Nat) (s : State),
    let gr := s.group g
    let idle := s.modGroup g fun _ =>
      { gr with phase := .idle, resend := true, misses := min 255 (gr.misses + 1) }
    let judged := if gr.unavailable = false ∧ gr.misses = 2 then raise .actuatorSilent g gr.zone idle else idle
    let atRest := ∀ h < 48, h ≠ g → (s.group h).enable = true → (s.group h).zone = gr.zone → (s.group h).phase = .idle
    (gr.enable = false ∨ gr.phase ≠ .sent → commandExpiry g s = s) ∧
    (g < 48 → gr.enable = true → gr.phase = .sent →
      ((s.zone gr.zone).evalPending = false ∨ ¬atRest → commandExpiry g s = judged) ∧
      ((s.zone gr.zone).evalPending = true → atRest → commandExpiry g s =
        evaluate gr.zone (judged.modZone gr.zone fun zn => { zn with evalPending := false })))) ∧
  ∀ (s : State) (tr : Transaction) (e : Nat), s.line = .busy tr → tr.phase = .window e →
    (tr.kind = .forward → exec .replyWindowExpiry s =
      .next { taken .replyWindowExpiry s with line := .turnaround (s.now + 2 * charUnits s .gallery) }) ∧
    (∀ n, (tr.kind = .poll n ∨ ∃ g, tr.kind = .command g n) → n < 64 → (s.node n).enable = true →
      ∃ t, exec .replyWindowExpiry s = .next t ∧ t.line = .turnaround (s.now + 2 * charUnits s .gallery) ∧
        t.counters[4] = bumpCounter 1 s.counters[4] ∧
        (t.node n).misses = min 255 ((s.node n).misses + 1) ∧
        (t.node n).state = (if (s.node n).state = .online ∧ s.device.silenceThreshold ≤ (t.node n).misses then .silent
          else (s.node n).state) ∧
        (∀ k, k ≠ n → t.node k = s.node k) ∧ t.objects = s.objects ∧ t.device = s.device ∧ t.calendar = s.calendar ∧
        t.store = s.store) ∧
    (∀ g n, tr.kind = .command g n → g < 48 → (s.group g).enable = true → (s.group g).phase = .sent →
      (s.zone (s.group g).zone).evalPending = false →
      ∃ t, exec .replyWindowExpiry s = .next t ∧
        t.group g = { s.group g with
          phase := .idle, resend := true, misses := min 255 ((s.group g).misses + 1) } ∧
        (∀ h, h ≠ g → t.group h = s.group h) ∧ t.pollList = s.pollList) ∧
    (∀ n, tr.kind = .poll n → ∃ t, exec .replyWindowExpiry s = .next t ∧ polledAgain n s t)

/-- R35: a good frame for which no window is open counts one stray and is discarded. While the line is SENDING, the
gallery port takes no character. A frame that completed before, in an open window, is RepliesReachNodeOrPlant's.
That a frame which does not wait in the handed list completes when it is taken is the model's choice (log entry 2). That
a waiting frame, taken after the window that it answered has ended, counts too is deduced from R34 (log entry 2). -/
def Obligations.StrayIsCountedAndDiscarded : Prop :=
  (∀ (r : Reception) (s : State) (tr : Transaction) (e : Nat), s.line = .busy tr → tr.phase = .sending e →
    exec (.receiveCharacter .gallery r) s = .next s) ∧
  ∀ (f : Frame) (s : State), frameGood .gallery (ownOctet s) f = true →
    (s.line = .free ∨ (∃ e, s.line = .turnaround e) ∨
      .galleryFrame f ∉ s.handed ∧ ∃ tr e, s.line = .busy tr ∧ tr.phase = .window e ∧ tr.awaited ≠ some f.src) →
    exec (.galleryFrame f) s = .next (count .galleryStrays (taken (.galleryFrame f) s))

/-- GALLERY_FRAME in the window of its transaction.
R32, R34, R43, R48: a proper reply to a POLL or a COMMAND ends the transaction as a success for the node.
R36: a reply of another kind than the one accepted is a miss, as the expiry of the window is.
R113, R116, R38: the ECHO that answers a COMMAND is applied to its group, where it may be used and has an entry for the
group's channel; else it counts as an expiry. ACTUATOR_SILENT is cleared (R111), LEVEL_MISMATCH raised with an evaluation
requested, or cleared (R116), and the entries for other channels are taken as a poll echo's after the group's own, or after
the expiry where it has none, with the pending evaluation it may run (log entries 27 and 36).
R9, R34, R43, R58: which node a reply is judged for, the success that the Monitor counts, and the use of a SAMPLE, whose
readings are taken where the node was ONLINE and still is (log entry 21).
R116: the ECHO that answers a POLL, where it may be used, is applied entry by entry to the groups bound to its channels:
the applied level, the misses with ACTUATOR_SILENT (R111), and the mismatch test with the evaluation that it requests,
which follows the raise (log entry 36). That a reply is judged for another entry which has taken the polled node's address
in flight is the model's choice (log entry 37).
R117: the ECHO that answers a forwarded LEVEL is applied too, and clears a MISMATCH but sets none; which groups it names
where its sender has no enabled node entry is the model's choice (log entry 31), and which of two groups on one channel it
names is too (log entry 16).
R10 to R12: what passes to the plant side, from a sender with a node entry or with none.
R34, R35: a frame that waits in the handed list is judged by the line as it completed: it answers the window that was open
for its SRC, and is a stray where there was none, or where that window has ended since (that it waits, and how its
completion is noted, is log entry 2). -/
def Obligations.RepliesReachNodeOrPlant : Prop :=
  (∀ (tr : Transaction) (f : Frame) (j : Judgement) (s : State),
     let bound := fun n => n < 64 ∧ (s.node n).enable = true ∧ (s.node n).address = f.src.toNat
     let succeeds := fun n => if (s.node n).enable then s.modNode n fun nd => { nd with misses := 0 } else s
     let t := handSuccess tr j s
     (∀ n, nodeOfSrc s f.src = some n ↔ bound n ∧ ∀ m < n, ¬bound m) ∧
     (judgeReply f s).1 = (match nodeOfSrc s f.src with
       | some n => takeFrame n f s
       | none => s) ∧
     ((judgeReply f s).2.readingsUsed = true ↔ ∃ n, nodeOfSrc s f.src = some n ∧ (s.node n).state = .online ∧
       f.seq ≠ (s.node n).lastSeq ∧ ((takeFrame n f s).node n).state = .online) ∧
     (∀ n, tr.kind = .poll n → polledAgain n s t ∧ { t with pollList := s.pollList } = succeeds n) ∧
     (∀ g n, tr.kind = .command g n → t = succeeds n) ∧
     (tr.kind = .forward → t = match j.node with
       | some n => succeeds n
       | none => s) ∧
     ((∀ g n, tr.kind ≠ .command g n) →
       (f.kind ≠ kindEcho → useReply tr f j s = match j.node with
         | some n => if f.kind = kindSample ∧ j.readingsUsed = true then applySample n f.payload s else s
         | none => s) ∧
       (f.kind = kindEcho → (tr.kind = .forward → tr.frame.kind ≠ kindLevel) → j.node = none →
         useReply tr f j s = s) ∧
       (f.kind = kindEcho → tr.kind = .forward → tr.frame.kind ≠ kindLevel → useReply tr f j s = s))) ∧
  (∀ (g : Nat) (entries : List EchoEntry) (s : State),
     let gr := s.group g
     let t := ownEchoGroup g entries s
     (gr.enable = false ∨ gr.phase ≠ .sent → t = s) ∧
     (g < 48 → gr.enable = true → gr.phase = .sent →
       ((∀ x ∈ entries, x.channel ≠ gr.channel) → t = commandExpiry g s) ∧
       ∀ before x after, entries = before ++ x :: after → x.channel = gr.channel →
         (∀ y ∈ after, y.channel ≠ gr.channel) →
         let settled := { gr with
           applied := some x.level, misses := 0, resend := false,
           phase := .settling (s.now + gr.settle * unitsPerSecond) }
         let heard := s.modGroup g fun _ => settled
         let w := if gr.unavailable = false ∧ 3 ≤ gr.misses then clear .actuatorSilent g heard else heard
         let far := 20 < x.level - gr.level ∨ 20 < gr.level - x.level
         (far → gr.mismatch = false → t = requestCore gr.zone
           (raise .levelMismatch g gr.zone (w.modGroup g fun _ => { settled with mismatch := true, resend := true }))) ∧
         (¬far → gr.mismatch = true →
           t = clear .levelMismatch g (w.modGroup g fun _ => { settled with mismatch := false })) ∧
         ((far ↔ gr.mismatch = true) → t = w))) ∧
  (∀ (g : Nat) (node : Option Nat) (entries : List EchoEntry) (s : State),
     ownEcho g node entries s = match node with
       | some n => entries.foldl (pollEchoEntry n (some g)) (ownEchoGroup g entries s)
       | none => ownEchoGroup g entries s) ∧
  (∀ (n g : Nat) (s : State) (x : EchoEntry), pollEchoEntry n (some g) s x =
     if groupOnChannel s n x.channel = some g then s else pollEchoEntry n none s x) ∧
  (∀ (f : Frame) (s : State),
     noteArrival .plant f s = s ∧
     (∀ tr e, s.line = .busy tr → tr.phase = .window e → tr.awaited = some f.src →
       noteArrival .gallery f s = { s with line := .busy { tr with answers := tr.answers ++ [f] } }) ∧
     ((∀ tr e, s.line = .busy tr → tr.phase = .window e → tr.awaited ≠ some f.src) →
       noteArrival .gallery f s = s)) ∧
  (∀ (f : Frame) (s : State), frameGood .gallery (ownOctet s) f = true →
     let u := taken (.galleryFrame f) s
     let deaf := s.line = .off ∨ ∃ tr e, s.line = .busy tr ∧ tr.phase = .sending e
     (.galleryFrame f ∈ s.handed → (∀ tr e, s.line = .busy tr → tr.phase = .window e → f ∉ tr.answers) →
       exec (.galleryFrame f) s = .next (count .galleryStrays u)) ∧
     (.galleryFrame f ∉ s.handed → deaf → exec (.galleryFrame f) s = .next u)) ∧
  (∀ (n ch : Nat) (src : Byte) (s : State),
     let bound := fun h => (s.group h).enable = true ∧ (s.group h).node = n ∧ (s.group h).channel = ch
     (∀ g, groupOnChannel s n ch = some g ↔ g < 48 ∧ bound g ∧ ∀ h < g, ¬bound h) ∧
     echoGroups s (some n) src ch = (groupOnChannel s n ch).toList ∧
     ∀ g, g ∈ echoGroups s none src ch ↔
       g < 48 ∧ (s.group g).enable = true ∧ (s.group g).channel = ch ∧ (s.node (s.group g).node).address = src.toNat) ∧
  (∀ (n g : Nat) (x : EchoEntry) (s : State),
     let gr := s.group g
     let heard := s.modGroup g fun _ => { gr with applied := some x.level, misses := 0 }
     let w := if gr.unavailable = false ∧ 3 ≤ gr.misses then clear .actuatorSilent g heard else heard
     let matched := clear .levelMismatch g (w.modGroup g fun r => { r with mismatch := false })
     let far := 20 < x.level - gr.level ∨ 20 < gr.level - x.level
     let tested := gr.phase = .idle ∨ ∃ e, gr.phase = .settling e
     let t := pollEchoEntry n none s x
     (groupOnChannel s n x.channel = none → t = s) ∧
     (groupOnChannel s n x.channel = some g →
       (tested → far → gr.mismatch = false → t = requestCore gr.zone
         (raise .levelMismatch g gr.zone (w.modGroup g fun r => { r with mismatch := true, resend := true }))) ∧
       (tested → ¬far → gr.mismatch = true → t = matched) ∧
       (¬tested ∨ (far ↔ gr.mismatch = true) → t = w)) ∧
     (g < 48 → forwardedEchoGroup x.level s g = if gr.mismatch = true ∧ ¬far then matched else w)) ∧
  ∀ (f : Frame) (s : State) (tr : Transaction) (e : Nat), frameGood .gallery (ownOctet s) f = true →
    s.line = .busy tr → tr.phase = .window e → tr.awaited = some f.src →
    (.galleryFrame f ∈ s.handed → f ∈ tr.answers) →
    let u := { taken (.galleryFrame f) s with line := .turnaround (s.now + 2 * charUnits s .gallery) }
    (∀ n, (tr.kind = .poll n ∨ ∃ g, tr.kind = .command g n) → tr.accepts = some f.kind → n < 64 →
      nodeOfSrc s f.src = some n → (s.node n).state ≠ .absent →
      ∃ t, exec (.galleryFrame f) s = .next t ∧ t.line = .turnaround (s.now + 2 * charUnits s .gallery) ∧
        (t.node n).misses = 0 ∧ (t.node n).lastSeq = f.seq ∧ (t.node n).enable = true ∧
        (∀ k, k ≠ n → t.node k = s.node k) ∧ (tr.kind = .poll n → polledAgain n s t) ∧ t.device = s.device ∧
        t.calendar = s.calendar ∧ t.objects = s.objects ∧ t.store = s.store) ∧
    (∀ k, tr.accepts = some k → f.kind ≠ k →
      exec (.galleryFrame f) s = .next (replyWindowExpiry (taken (.galleryFrame f) s)) ∧
      ∀ n, (tr.kind = .poll n ∨ ∃ g, tr.kind = .command g n) → n < 64 → (s.node n).enable = true →
        ∃ t, exec (.galleryFrame f) s = .next t ∧ t.line = .turnaround (s.now + 2 * charUnits s .gallery) ∧
          t.counters[4] = bumpCounter 1 s.counters[4] ∧ (t.node n).misses = min 255 ((s.node n).misses + 1)) ∧
    (∀ g n, tr.kind = .command g n → tr.accepts = some kindEcho → f.kind = kindEcho →
      nodeOfSrc s f.src = some n → g < 48 → (s.group g).enable = true → (s.group g).phase = .sent →
      let gr := s.group g
      let usable := (s.node n).state ≠ .displaced ∧ ¬((s.node n).state = .online ∧ f.seq = (s.node n).lastSeq)
      (∀ before x after, usable → echoEntries f = before ++ x :: after → x.channel = gr.channel →
        (∀ y ∈ after, y.channel ≠ gr.channel) →
        let far := 20 < x.level - gr.level ∨ 20 < gr.level - x.level
        ∃ t, exec (.galleryFrame f) s = .next t ∧ t.group g = { gr with
          applied := some x.level, misses := 0, phase := .settling (s.now + gr.settle * unitsPerSecond),
          mismatch := if far then true else false,
          resend := if far ∧ gr.mismatch = false then true else false }) ∧
      ((¬usable ∨ ∀ x ∈ echoEntries f, x.channel ≠ gr.channel ∧
          ∀ h < 48, (s.group h).enable = true → (s.group h).node = n → (s.group h).channel ≠ x.channel) →
        (s.zone gr.zone).evalPending = false →
        ∃ t, exec (.galleryFrame f) s = .next t ∧
          t.group g = { gr with phase := .idle, resend := true, misses := min 255 (gr.misses + 1) })) ∧
    (∀ g n, tr.kind = .command g n →
      let j := (judgeReply f u).2
      let v := handSuccess tr j (judgeReply f u).1
      useReply tr f j v =
        if j.duplicate = false ∧ j.displaced = false then ownEcho g j.node (echoEntries f) v else commandExpiry g v) ∧
    (tr.kind = .forward → tr.accepts = none → nodeOfSrc s f.src = none →
      ¬(f.kind = kindEcho ∧ tr.frame.kind = kindLevel) →
      exec (.galleryFrame f) s = .next (if f.dest = ownOctet s then u else offerG2p f u)) ∧
    (tr.kind = .forward → tr.accepts = none → tr.frame.kind = kindLevel → f.kind = kindEcho →
      (∀ n, nodeOfSrc s f.src = some n →
        (s.node n).state ≠ .displaced ∧ ¬((s.node n).state = .online ∧ f.seq = (s.node n).lastSeq)) →
      let j := (judgeReply f u).2
      let v := handSuccess tr j (judgeReply f u).1
      useReply tr f j v = (echoEntries f).foldl
        (fun a x => (echoGroups a j.node f.src x.channel).foldl (forwardedEchoGroup x.level) a) v ∧
      ∃ t, exec (.galleryFrame f) s = .next t ∧ ∀ g < 48,
        let gr := s.group g
        let mine := (echoEntries f).filter fun x => g ∈ echoGroups s (nodeOfSrc s f.src) f.src x.channel
        let allFar := ∀ x ∈ mine, 20 < x.level - gr.level ∨ 20 < gr.level - x.level
        (mine = [] → t.group g = gr) ∧
        (∀ x, mine.getLast? = some x → t.group g = { gr with
          applied := some x.level, misses := 0, mismatch := if allFar then gr.mismatch else false })) ∧
    (∀ n m, tr.kind = .poll n → tr.accepts = some kindEcho → f.kind = kindEcho → nodeOfSrc s f.src = some m →
      let usable := (s.node m).state ≠ .displaced ∧ ¬((s.node m).state = .online ∧ f.seq = (s.node m).lastSeq)
      let j := (judgeReply f u).2
      let v := handSuccess tr j (judgeReply f u).1
      (¬usable → useReply tr f j v = v ∧ ∃ t, exec (.galleryFrame f) s = .next t ∧ t.groups = s.groups) ∧
      (usable → useReply tr f j v = (echoEntries f).foldl (pollEchoEntry m none) v ∧
        ∃ t, exec (.galleryFrame f) s = .next t ∧ ∀ g < 48,
          let mine := (echoEntries f).filter fun x => groupOnChannel s m x.channel = some g
          (mine = [] → (t.group g).applied = (s.group g).applied ∧ (t.group g).misses = (s.group g).misses ∧
            (t.group g).mismatch = (s.group g).mismatch) ∧
          (∀ x, mine.getLast? = some x → (t.group g).applied = some x.level ∧ (t.group g).misses = 0))) ∧
    ((∀ k, tr.accepts = some k → f.kind = k) →
      let j := (judgeReply f u).2
      let used := useReply tr f j (handSuccess tr j (judgeReply f u).1)
      let run := exec (.galleryFrame f) s
      let consumed := f.kind = kindSample ∧ f.dest = broadcast ∧ ∃ n, j.node = some n ∧
        (∃ i < 192, (s.point i).enable = true ∧ (s.point i).node = n) ∧
        ∀ i < 192, (s.point i).enable = true → (s.point i).node = n → (s.point i).forward = false
      (j.node = nodeOfSrc s f.src ∧
        ∀ n, j.node = some n →
          (j.duplicate = true ↔ (s.node n).state = .online ∧ f.seq = (s.node n).lastSeq) ∧
          (j.displaced = true ↔
            (s.node n).state = .displaced ∨ ((takeFrame n f u).node n).state = .displaced)) ∧
      (j.node = none → j.duplicate = false ∧ j.displaced = false) ∧
      (f.dest = ownOctet s → run = .next used) ∧
      (f.dest ≠ ownOctet s → j.displaced = true → run = .next (count .quarantined used)) ∧
      (f.dest ≠ ownOctet s → j.displaced = false → (j.duplicate = true ∨ consumed) → run = .next used) ∧
      (f.dest ≠ ownOctet s → j.displaced = false → j.duplicate = false → ¬consumed →
        run = .next (offerG2p f used)))

/-- R118, R119, R120, R121: a LEVEL that reaches groups leaves at the least of its own level, 1000 and their levels, counted
as clamped where that is not its own; its CHECK is then computed anew over the rewritten payload (R2, R120). Each group
reached takes that level and the cap, its settle timer starts unless a command of its own waits or is sent, and a cap
raised or removed asks for an evaluation of its zone, which waits; while UNATTENDED with the action REVERT the LEVEL is
declined and counted. -/
def Obligations.ForwardedLevelIsLimited : Prop :=
  ∀ (f : Frame) (s : State) (p : LevelPayload), levelOf f.payload = some p →
    (f.dest = broadcast → channelBound s p.channel = true →
      presentLevel f s = (count .droppedCommands s, none)) ∧
    (f.dest ≠ broadcast → groupsReached s f.dest p.channel ≠ [] →
      (s.supervision.attended = false → s.device.supervisionAction = .revert →
        presentLevel f s = (count .droppedCommands s, none)) ∧
      ((s.supervision.attended = true ∨ s.device.supervisionAction = .hold) →
        let reached := groupsReached s f.dest p.channel
        ∃ t f' p', presentLevel f s = (t, some f') ∧ levelOf f'.payload = some p' ∧
          p'.channel = p.channel ∧ p'.fade = p.fade ∧ f'.dest = f.dest ∧ f'.src = f.src ∧ f'.seq = f.seq ∧
          f'.kind = f.kind ∧ (p'.level = p.level → f' = f) ∧
          (p'.level ≠ p.level → f'.payload = levelPayload p.channel p'.level p.fade ∧
            f'.check = crc16 (f'.dest :: f'.src :: f'.kind :: f'.seq :: byteOfNat f'.payload.length :: f'.payload)) ∧
          p'.level ≤ 1000 ∧ p'.level ≤ p.level ∧ (∀ g ∈ reached, p'.level ≤ (s.group g).level) ∧
          (p'.level = 1000 ∨ p'.level = p.level ∨ ∃ g ∈ reached, p'.level = (s.group g).level) ∧
          t.counters[13] = (if p'.level = p.level then s.counters[13] else bumpCounter 1 s.counters[13]) ∧
          (∀ g ∈ reached, t.group g = { s.group g with
            level := p'.level
            cap := if 1000 ≤ p.level then none else some p.level
            phase := match (s.group g).phase with
              | .queued => .queued
              | .sent => .sent
              | _ => .settling (s.now + (s.group g).settle * unitsPerSecond) }) ∧
          (∀ g, g ∉ reached → t.group g = s.group g) ∧
          (∀ g ∈ reached, ∀ b, (s.group g).cap = some b → (1000 ≤ p.level ∨ b < p.level) →
            (s.group g).zone < 24 → (t.zone (s.group g).zone).evalPending = true) ∧
          t.galleryOrigin = s.galleryOrigin ∧ t.conditions = s.conditions ∧ exceptLight t = exceptLight s))

/-! ### Nodes and points (03) -/

/-- R44 to R47, R49, R50: a frame taken, from every state of its node: the record it leaves, the points judged as the node
enters or leaves ONLINE (R55, R56), NODE_DISPLACED raised with the node's address and cleared, NODE_SILENT cleared.
R111: what the return of a node from DISPLACED does to its groups: UNAVAILABLE is cleared, ACTUATOR_SILENT where it was
active by that alone, and an evaluation requested, in index order and each clear first (log entry 36; that the conditions
count as active by the group's record is log entry 20).
R46: a frame taken from an ONLINE node, by its gap; a TAG compared with the expected tag is left to the part after it.
R44, R45, R47, R49, R50: the states that a taken frame leads to from each state. That the TAG of a DISPLACED node is
compared whatever tag check holds is the model's choice (log entry 34), and that a TAG is stored as the received tag also
in a state whose own rule does not say so, as R49 does not, is deduced (log entry 28). -/
def Obligations.FramesJudgeContinuityAndState : Prop :=
  (∀ (n : Nat) (f : Frame) (s : State), n < 64 →
     let nd := s.node n
     let gap := (f.seq - nd.lastSeq).toNat
     let run := if nd.runLength ≠ 0 ∧ gap = 1 then nd.runLength + 1 else 1
     let isTag := f.kind = kindTag
     let equal := tagOf f.payload = nd.expectedTag
     let noted := { nd with lastSeq := f.seq, receivedTag := if isTag then tagOf f.payload else nd.receivedTag }
     let counted := { noted with lostReplies := min 65535 (nd.lostReplies + (gap - 1)) }
     let becomes := fun x : Node => s.modNode n fun _ => x
     let ofNode := fun p : Point => p.enable && p.node == n
     let leaves := fun x : Node => { becomes x with
       points := s.points.map fun p => if ofNode p then { p with state := .lost, pending := none } else p }
     let enters := fun x : Node => { becomes x with
       points := s.points.map fun p => if ofNode p then judgedPoint x p else p }
     let displaced := raise .nodeDisplaced n nd.address
     let t := takeFrame n f s
     (nd.state = .absent → t = s) ∧
     (nd.state = .hunting →
       (run < 3 → t = becomes { noted with runLength := run }) ∧
       (3 ≤ run → nd.tagCheck = true → t = becomes { noted with runLength := run, state := .tagcheck }) ∧
       (3 ≤ run → nd.tagCheck = false → t = enters { noted with runLength := run, state := .online })) ∧
     (nd.state = .tagcheck →
       (¬isTag → t = becomes noted) ∧
       (isTag → equal → t = enters { noted with state := .online }) ∧
       (isTag → ¬equal → t = displaced (becomes { noted with state := .displaced, recheckDue := false }))) ∧
     (nd.state = .online →
       (gap = 0 → t = becomes { nd with duplicates := min 65535 (nd.duplicates + 1) }) ∧
       (1 ≤ gap → gap ≤ 16 →
         (¬isTag ∨ nd.tagCheck = false → t = becomes counted) ∧
         (isTag → nd.tagCheck = true → equal → t = becomes { counted with recheckDue := false }) ∧
         (isTag → nd.tagCheck = true → ¬equal →
           t = displaced (leaves { counted with state := .displaced, recheckDue := false }))) ∧
       (17 ≤ gap → t = leaves { noted with state := .hunting, runLength := 1, recheckDue := false })) ∧
     (nd.state = .silent → t = clear .nodeSilent n (becomes { noted with state := .hunting, runLength := 1 })) ∧
     (nd.state = .displaced →
       (isTag → equal →
         t = nodeBack n (clear .nodeDisplaced n (becomes { noted with state := .hunting, runLength := 1 }))) ∧
       (¬isTag ∨ ¬equal → t = becomes noted))) ∧
  (∀ (n : Nat) (s : State),
     let back := fun (u : State) (g : Nat) =>
       let gr := u.group g
       let able := u.modGroup g fun _ => { gr with unavailable := false }
       if gr.enable = true ∧ gr.node = n ∧ gr.unavailable = true then
         requestCore gr.zone (if gr.misses < 3 then clear .actuatorSilent g able else able)
       else u
     nodeBack n s = (List.range 48).foldl back s) ∧
  (∀ (n : Nat) (f : Frame) (s : State), n < 64 → (s.node n).state = .online →
     (f.kind = kindTag → (s.node n).tagCheck = false) →
     let nd := s.node n
     let gap := (f.seq - nd.lastSeq).toNat
     let tag := if f.kind = kindTag then tagOf f.payload else nd.receivedTag
     let t := takeFrame n f s
     (∀ k, k ≠ n → t.node k = s.node k) ∧
     (gap = 0 → t = s.modNode n fun _ => { nd with duplicates := min 65535 (nd.duplicates + 1) }) ∧
     (1 ≤ gap → gap ≤ 16 → t = s.modNode n fun _ =>
       { nd with lastSeq := f.seq, receivedTag := tag, lostReplies := min 65535 (nd.lostReplies + (gap - 1)) }) ∧
     (17 ≤ gap →
       t.node n = { nd with
         lastSeq := f.seq, receivedTag := tag, state := .hunting, runLength := 1, recheckDue := false } ∧
       ∀ i < 192, (s.point i).enable = true → (s.point i).node = n →
         (t.point i).state = .lost ∧ (t.point i).pending = none)) ∧
  (∀ (n : Nat) (f : Frame) (s : State), n < 64 →
     let nd := s.node n
     let gap := (f.seq - nd.lastSeq).toNat
     let run := if nd.runLength ≠ 0 ∧ gap = 1 then nd.runLength + 1 else 1
     let equal := tagOf f.payload = nd.expectedTag
     let t := (takeFrame n f s).node n
     (nd.state = .hunting → t.runLength = run ∧ t.lastSeq = f.seq ∧
       t.state = if run < 3 then .hunting else if nd.tagCheck then .tagcheck else .online) ∧
     (nd.state = .tagcheck → t.lastSeq = f.seq ∧
       t.state = if f.kind = kindTag then (if equal then .online else .displaced) else .tagcheck) ∧
     (nd.state = .online → f.kind = kindTag → nd.tagCheck = true → 1 ≤ gap → gap ≤ 16 →
       t.lastSeq = f.seq ∧ t.receivedTag = tagOf f.payload ∧ t.recheckDue = false ∧
         t.state = if equal then .online else .displaced) ∧
     (nd.state = .silent → t.lastSeq = f.seq ∧ t.state = .hunting ∧ t.runLength = 1) ∧
     (nd.state = .displaced → t.lastSeq = f.seq ∧
       t.state = if f.kind = kindTag ∧ equal then .hunting else .displaced))

/-- R55: the state of a point, the first case that holds. That this order stands where R56, R59, R62 and R63
name another state is the model's choice (log entry 38). At a minute tick every enabled point is judged. -/
def Obligations.PointStateIsFirstCase : Prop :=
  (∀ s : State, judgePoints s =
     { s with points := s.points.map fun p => if p.enable then judgedPoint (s.node p.node) p else p }) ∧
  ∀ (n : Node) (p : Point),
    let old := 3 * n.pollPeriod ≤ p.age
    (judgedPoint n p).pending = (if old then none else p.pending) ∧
    (judgedPoint n p).state =
      (if n.state ≠ .online ∨ p.accepted = false then .lost
      else if p.fault then .faulted
      else if ¬old ∧ p.pending ≠ none then .held
      else if ¬old then .fresh
      else .stale) ∧
    { judgedPoint n p with pending := p.pending, state := p.state } = p

/-- R58: the readings of a SAMPLE are applied in payload order, each to the enabled point of the node and channel; one of
another quantity is ignored and counted at the node. Which of two such points is taken is the model's choice (log entry
16).
R60: the value of a reading by its quality, and the clamp count. A reading is accepted at once where the quantity has no
spike limit, or a limit of 0, or no value has been accepted yet; a pending reading is discarded then (R63).
R62, R63: a TEMP or RH reading of a point with an accepted value, with a spike limit above 0, is accepted, is held,
or settles the one held; a reading held past three poll periods is discarded (R55).
R59, R61: an accepted value and a FAULT reading at their point, with POINT_FAULT and the evaluation that an ILLUM value
requests (that the clear comes before the evaluation is log entry 36, and that POINT_FAULT counts as active where the
point's fault marker is set is log entry 20); nothing else of the point changes. That a FAULT reading leaves a point LOST
that has accepted nothing, and that a reading held by a point already three poll periods old is discarded at once, are the
model's choices (log entry 38). -/
def Obligations.ReadingsReachTheirPoint : Prop :=
  (∀ (n : Nat) (s : State),
     (∀ payload, applySample n payload s = ((readingsOf payload).getD []).foldl (applyReading n) s) ∧
     ∀ r : Reading,
       let bound := fun i => (s.point i).enable = true ∧ (s.point i).node = n ∧ (s.point i).channel = r.channel
       ((∀ i < 192, ¬bound i) → applyReading n s r = s) ∧
       (∀ i < 192, bound i → (∀ j < i, ¬bound j) →
         (r.quantity ≠ (s.point i).quantity → applyReading n s r =
           s.modNode n fun nd => { nd with duplicates := min 65535 (nd.duplicates + 1) }) ∧
         (r.quantity = (s.point i).quantity → r.quality = .fault → applyReading n s r = faultReading i s) ∧
         (r.quantity = (s.point i).quantity → r.quality ≠ .fault → applyReading n s r = valueReading i r s))) ∧
  (∀ r : Reading,
     let sent : Int := if r.quantity = .temp then r.raw.toInt else r.raw.toNat
     let low : Int := if r.quantity = .temp then -4000 else 0
     let high : Int := match r.quantity with
       | .illum => 65000
       | .uvr => 5000
       | .temp => 8500
       | .rh => 10000
     (r.quality = .good → readingValue r = max low (min high sent)) ∧
     (r.quality = .over → readingValue r = high) ∧ (r.quality = .under → readingValue r = low) ∧
     sentValue r.quantity r.raw = sent) ∧
  (∀ (i : Nat) (r : Reading) (s : State), i < 192 →
     let p := s.point i
     let n := s.node p.node
     let v := readingValue r
     let clamps := if v = sentValue r.quantity r.raw then p.clamps else min 65535 (p.clamps + 1)
     let t := valueReading i r s
     (spikeLimit s p = match p.quantity with
       | .temp => (s.zone p.zone).temp.spike
       | .rh => (s.zone p.zone).rh.spike
       | .illum => 0
       | .uvr => 0) ∧
     (t.point i).clamps = clamps ∧
     ((spikeLimit s p = 0 ∨ p.pending = none ∧ p.accepted = false) →
       t.point i = judgedPoint n { p with
         value := v, age := 0, accepted := true, fault := false, pending := none, clamps := clamps })) ∧
  (∀ (i : Nat) (r : Reading) (s : State), i < 192 →
     (s.point i).quantity = r.quantity → (r.quantity = .temp ∨ r.quantity = .rh) →
     (s.point i).accepted = true → spikeLimit s (s.point i) > 0 →
     let p := s.point i
     let v := readingValue r
     let x := spikeLimit s p
     let near := fun a b : Int => a - b ≤ x ∧ b - a ≤ x
     let t := (valueReading i r s).point i
     (p.pending = none → near v p.value → t.value = v ∧ t.age = 0 ∧ t.pending = none) ∧
     (p.pending = none → ¬near v p.value → t.value = p.value ∧ t.age = p.age ∧
       t.pending = if 3 * (s.node p.node).pollPeriod ≤ p.age then none else some v) ∧
     (∀ q, p.pending = some q →
       ((near v q ∨ near v p.value) → t.value = v ∧ t.age = 0 ∧ t.pending = none) ∧
       (¬near v q → ¬near v p.value → t.value = p.value ∧ t.age = p.age ∧
         t.pending = if 3 * (s.node p.node).pollPeriod ≤ p.age then none else some v))) ∧
  (∀ (i : Nat) (v : Int) (s : State), i < 192 →
     let p := s.point i
     let n := s.node p.node
     ((acceptValue i v s).point i = judgedPoint n { p with value := v, age := 0, accepted := true, fault := false }) ∧
     ((faultReading i s).point i = judgedPoint n { p with fault := true, pending := none }) ∧
     (let judged := fun (q : Point) (u : State) => u.modPoint i fun _ => judgedPoint n q
      let kept := { p with value := v, age := 0, accepted := true, fault := false }
      let quiet := s.modPoint i fun _ => kept
      let taken := judged kept (if p.fault then clear .pointFault i quiet else quiet)
      let failed := judged { p with fault := true, pending := none } s
      i < 192 →
        acceptValue i v s = (if p.quantity = .illum then requestEvaluation p.zone taken else taken) ∧
        faultReading i s = (if p.fault then failed else raise .pointFault i p.zone failed)) ∧
     (∀ j, j ≠ i → (acceptValue i v s).point j = s.point j ∧ (faultReading i s).point j = s.point j) ∧
     (∀ t, (t = acceptValue i v s ∨ t = faultReading i s) →
       t.nodes = s.nodes ∧ t.objects = s.objects ∧ t.device = s.device ∧ t.calendar = s.calendar ∧ t.store = s.store))

/-- POINT_AGE_SECOND (R57): the age of every point rises, whatever its state and its node's. An accepted value sets
it to 0. A pending reading and a FAULT reading leave it. That the command is a second whatever the clock shows is the
model's choice (log entry 1). -/
def Obligations.AgeRisesEachSecond : Prop :=
  (∀ s : State, exec .pointAgeSecond s = .next
    { taken .pointAgeSecond s with points := s.points.map fun p => { p with age := min 65535 (p.age + 1) } }) ∧
  ∀ (i : Nat) (v : Int) (s : State), i < 192 →
    ((acceptValue i v s).point i).age = 0 ∧ ((holdValue i v s).point i).age = (s.point i).age ∧
      ((faultReading i s).point i).age = (s.point i).age

/-! ### Calendar and minute tick (04, 05) -/

/-- MINUTE_TICK (R64, R66, R67): what the tick carries, the Calendar's advance, and the rolls it issues; CLOCK_UNSET is
raised after the last day of 2199 (R66). R65: how long a year is. R55, R80, R101, R129: what the blocks do at the tick,
object by object and zone by zone, with the points judged before them or after; the order of the blocks is the model's
(log entry 4).
Rolls wait in the handed list (log entry 2). That the tick is taken whatever the seconds count shows, and sets it to 0, is
the model's choice (log entry 1). -/
def Obligations.TickAdvancesTheCalendar : Prop :=
  (∀ y : Nat, yearLength y = if y % 4 = 0 ∧ (y % 100 ≠ 0 ∨ y % 400 = 0) then 366 else 365) ∧
  (∀ s : State,
     let c := { s.calendar with seconds := 0, phase := 0 }
     let becomes := fun (c : Calendar) (rolls : List Instr) => { s with calendar := c, handed := s.handed ++ rolls }
     let hour := fun m => if m % 60 = 0 then [Instr.hourRoll] else []
     let t := advanceCalendar s
     (c.isSet = true →
       (c.minute + 1 < 1440 → t = becomes { c with minute := c.minute + 1 } (hour (c.minute + 1))) ∧
       (1440 ≤ c.minute + 1 → c.day + 1 ≤ yearLength c.year → c.year ≤ 2199 →
         t = becomes { c with day := c.day + 1, minute := 0 } [.hourRoll, .dayRoll ⟨c.year, c.day + 1⟩]) ∧
       (1440 ≤ c.minute + 1 → yearLength c.year < c.day + 1 → c.year < 2199 →
         t = becomes { c with year := c.year + 1, day := 1, minute := 0 } [.hourRoll, .dayRoll ⟨c.year + 1, 1⟩]) ∧
       (1440 ≤ c.minute + 1 → yearLength c.year < c.day + 1 → c.year = 2199 →
         t = raise .clockUnset 0 0 (becomes { c with isSet := false, localDay := 0, localMinute := 0 } [.hourRoll]))) ∧
     (c.isSet = false →
       (c.localMinute + 1 < 1440 →
         t = becomes { c with localMinute := c.localMinute + 1 } (hour (c.localMinute + 1))) ∧
       (1440 ≤ c.localMinute + 1 →
         t = becomes { c with localMinute := 0, localDay := min 65535 (c.localDay + 1) } [.hourRoll]))) ∧
  (∀ (m : Bool) (s : State),
    let u := takeRolls (taken (.minuteTick m) s)
    let readers := fun v : State =>
      (List.range 24).foldl (fun v z => climateMinuteZone z v)
        ((List.range 24).foldl (fun v z => judgeMode z v)
          ((List.range 256).foldl (fun v i => accrueObject (tickOf u.calendar) i v) v))
    let a := advanceCalendar u
    (noRollsHanded s → u = taken (.minuteTick m) s) ∧
    exec (.minuteTick m) s = .next (if m then readers (judgePoints a) else judgePoints (readers a))) ∧
  (∀ c : Calendar, tickOf c =
    if c.isSet then ⟨true, c.year, c.day, c.minute⟩ else ⟨false, 0, c.localDay, c.localMinute⟩) ∧
  ∀ (m : Bool) (s : State), noRollsHanded s →
    let c := { s.calendar with seconds := 0, phase := 0 }
    let h := s.handed.erase (.minuteTick m)
    ∃ t, exec (.minuteTick m) s = .next t ∧
      (c.isSet = true → c.minute + 1 < 1440 →
        t.calendar = { c with minute := c.minute + 1 } ∧
        t.handed = if (c.minute + 1) % 60 = 0 then h ++ [.hourRoll] else h) ∧
      (c.isSet = true → 1440 ≤ c.minute + 1 → c.day + 1 ≤ yearLength c.year → c.year ≤ 2199 →
        t.calendar = { c with day := c.day + 1, minute := 0 } ∧
        t.handed = h ++ [.hourRoll, .dayRoll ⟨c.year, c.day + 1⟩]) ∧
      (c.isSet = true → 1440 ≤ c.minute + 1 → yearLength c.year < c.day + 1 → c.year < 2199 →
        t.calendar = { c with year := c.year + 1, day := 1, minute := 0 } ∧
        t.handed = h ++ [.hourRoll, .dayRoll ⟨c.year + 1, 1⟩]) ∧
      (c.isSet = true → 1440 ≤ c.minute + 1 → yearLength c.year < c.day + 1 → c.year = 2199 →
        t.calendar.isSet = false ∧ t.calendar.localDay = 0 ∧ t.calendar.localMinute = 0 ∧ t.handed = h ++ [.hourRoll]) ∧
      (c.isSet = false → c.localMinute + 1 < 1440 →
        t.calendar = { c with localMinute := c.localMinute + 1 } ∧
        t.handed = if (c.localMinute + 1) % 60 = 0 then h ++ [.hourRoll] else h) ∧
      (c.isSet = false → 1440 ≤ c.localMinute + 1 →
        t.calendar = { c with localMinute := 0, localDay := min 65535 (c.localDay + 1) } ∧
        t.handed = h ++ [.hourRoll]) ∧
      t.nodes = s.nodes ∧ t.device = s.device ∧ t.store = s.store ∧ t.save = s.save ∧ t.cursors = s.cursors ∧
      t.supervision = s.supervision ∧ t.procedure = s.procedure

/-- MINUTE_TICK (R80 to R88): what the minute adds to an enabled object, from the points as judged before the tick or at
it, as R55 lets either be; whether the minute was an open one (R86), and whether the sources are fresh (R83).
One object at the tick, whole: SOURCE_DEGRADED follows its flag (R83), OVER_CEILING is raised with its marker where the
minutes over the ceiling have reached the threshold (R87), and the ceiling is computed again.
R89, R90: a ceiling computation, with DOSE_EXHAUSTED and then PACE_SHORT following their flags (log entry 33), and the
evaluation that a change of C requests (what `follow` does is in RaiseAndClearRecord).
The order of the blocks at a tick is the model's (log entry 4), and so are that a negative value of a point reads as 0 (log
entry 35) and that the tick is taken whatever the seconds count shows (log entry 1). -/
def Obligations.TickAccruesTheMinute : Prop :=
  (∀ (m : Bool) (s : State) (i : Nat), noRollsHanded s → i < 256 → (s.object i).enable = true →
    ∃ t, exec (.minuteTick m) s = .next t ∧
      let r := if m then judgePoints s else s
      let o := s.object i
      let p := r.point o.lightPoint
      let fresh := fun i => (r.point i).state == .fresh || (r.point i).state == .held
      let e := if fresh o.lightPoint then p.value.toNat else max p.value.toNat o.assumed
      let w := match o.uvPoint with
        | none => 1000
        | some u =>
            if fresh u then
              (if o.uvLimit < (r.point u).value.toNat then
                min 4000 (1000 + o.uvSlope * ((r.point u).value.toNat - o.uvLimit)) else 1000)
            else o.weight
      let eff := e * w / 1000
      let z := s.zone o.zone
      let now := s.calendar.minute
      let hours := z.openFrom < z.openTo ∧ z.openFrom ≤ now ∧ now < z.openTo ∨
        z.openTo < z.openFrom ∧ (z.openFrom ≤ now ∨ now < z.openTo)
      let isOpen := z.enable = true ∧
        (z.modeSource = .auto ∧ s.calendar.isSet = true ∧ hours ∨
          z.modeSource = .forced ∧ z.forcedMode = .opened)
      (t.object i).dose = min 4294967295 (o.dose + (o.fraction + eff) / 60) ∧
      (t.object i).fraction = (o.fraction + eff) % 60 ∧
      (t.object i).thisHour = min 4294967295 (o.thisHour + eff) ∧
      (t.object i).today = min 4294967295 (o.today + eff) ∧
      (t.object i).peak = max o.peak eff ∧
      (t.object i).weight = w ∧
      (isOpen → (t.object i).remaining = o.remaining - 1) ∧ (¬isOpen → (t.object i).remaining = o.remaining) ∧
      (t.object i).overMinutes = (if o.ceiling < e then min 65535 (o.overMinutes + 1) else o.overMinutes) ∧
      ((t.object i).degraded = false ↔ fresh o.lightPoint = true ∧ ∀ u, o.uvPoint = some u → fresh u = true) ∧
      (t.object i).ceiling = (pacedCeiling (t.object i)).ceiling) ∧
  (∀ (t : Tick) (i : Nat) (s : State), i < 256 →
     let o := s.object i
     let z := s.zone o.zone
     let fresh := fun j => (s.point j).state == .fresh || (s.point j).state == .held
     let light := (s.point o.lightPoint).value.toNat
     let e := if fresh o.lightPoint then light else max light o.assumed
     let w := match o.uvPoint with
       | none => 1000
       | some u =>
           let v := (s.point u).value.toNat
           if fresh u then (if o.uvLimit < v then min 4000 (1000 + o.uvSlope * (v - o.uvLimit)) else 1000) else o.weight
     let eff := e * w / 1000
     let hours :=
       z.openFrom < z.openTo ∧ z.openFrom ≤ t.minute ∧ t.minute < z.openTo ∨
         z.openTo < z.openFrom ∧ (z.openFrom ≤ t.minute ∨ t.minute < z.openTo)
     let isOpen := z.enable = true ∧
       (z.modeSource = .auto ∧ t.isSet = true ∧ hours ∨ z.modeSource = .forced ∧ z.forcedMode = .opened)
     let degraded := !(fresh o.lightPoint && o.uvPoint.all fresh)
     let x := { o with
       dose := min 4294967295 (o.dose + (o.fraction + eff) / 60), fraction := (o.fraction + eff) % 60,
       thisHour := min 4294967295 (o.thisHour + eff), today := min 4294967295 (o.today + eff), peak := max o.peak eff,
       weight := w, remaining := if isOpen then o.remaining - 1 else o.remaining,
       overMinutes := if o.ceiling < e then min 65535 (o.overMinutes + 1) else o.overMinutes, degraded := degraded }
     let a := follow .sourceDegraded i o.zone o.degraded degraded (s.modObject i fun _ => x)
     let due : Prop := o.ceiling < e ∧ o.overThreshold ≠ 0 ∧ o.overThreshold ≤ x.overMinutes ∧ o.overMarker = false
     let b :=
       if due then raise .overCeiling i o.zone (a.modObject i fun _ => { x with overMarker := true }) else a
     (o.enable = false → accrueObject t i s = s) ∧ (o.enable = true → accrueObject t i s = ceilingEvent i b)) ∧
  (∀ (i : Nat) (s : State), i < 256 →
     let o := s.object i
     let c := pacedCeiling o
     let computed := follow .paceShort i o.zone o.paceShort c.paceShort
       (follow .doseExhausted i o.zone o.exhausted c.exhausted (s.modObject i fun _ => c))
     (o.enable = false → ceilingCore i s = s ∧ ceilingEvent i s = s) ∧
     (o.enable = true → c.ceiling = o.ceiling → ceilingCore i s = computed ∧ ceilingEvent i s = computed) ∧
     (o.enable = true → c.ceiling ≠ o.ceiling →
       ceilingCore i s = requestCore o.zone computed ∧ ceilingEvent i s = requestEvaluation o.zone computed))

/-- CLOCK (R69, R70, R71, R73, R101): a bad one is counted, a good one adopted, with CLOCK_UNSET cleared and the year-roll
tests at an adoption from UNSET (R70), and the judgement of the modes, before the year-roll tests and before the rolls are
taken (log entry 4). R71: the difference in minutes from day 1 of 2000; R65: the length of a year; R86: the open hours.
R101: what the judgement of one zone's mode does. R13: what an offer to P2G does. One to broadcast is then offered to P2G
(R13).
The CLOCK frames and the rolls that came before are taken first (R68, R69; that they wait in the handed list is log entry
2). That a payload of another length counts as bad is the model's choice (log entry 1), and so are that the Calendar comes
before the offer (log entry 25) and that a CLOCK is taken whatever the plant port's enable shows (log entry 2). -/
def Obligations.ClockIsCheckedAndAdopted : Prop :=
  (∀ (f : Frame) (s : State),
     exec (.clock f) s = .next (calendarClock f (takeClocks (handedBefore (.clock f) s) s)) ∧
     handedBefore (.clock f) s = s.handed.takeWhile (fun e => e != .clock f) ∧
     (∀ l v, takeClocks l v = l.foldl (fun w c => match c with
       | .clock g => calendarClock g w
       | _ => w) v) ∧
     calendarClock f s = clockEvent f (takeRolls (taken (.clock f) s)) ∧
     clockEvent f s = (if f.dest = broadcast then offerP2g f (takeClock f s) else takeClock f s) ∧
     (portOn s .gallery = false ∨ 8 ≤ s.p2g.length → offerP2g f s = count .p2gDrops s) ∧
     (portOn s .gallery = true → s.p2g.length < 8 → offerP2g f s = grant { s with p2g := s.p2g ++ [f] })) ∧
  (∀ (z : Nat) (s : State),
     let zn := s.zone z
     let m := judgedMode s.calendar zn
     let w := s.modZone z fun zn => { zn with mode := m }
     (zn.enable = true → zn.mode ≠ m → judgeModeCore z s = requestCore z w ∧ judgeMode z s = requestEvaluation z w) ∧
     (zn.enable = false ∨ zn.mode = m → judgeModeCore z s = s ∧ judgeMode z s = s)) ∧
  (∀ (f : Frame) (s : State),
     let length := fun y => if y % 4 = 0 ∧ (y % 100 ≠ 0 ∨ y % 400 = 0) then 366 else 365
     let minutes := fun y d m : Nat =>
       (((List.range (y - 2000)).map fun i => length (2000 + i)).sum + (d - 1)) * 1440 + m
     let u := takeRolls (taken (.clock f) (takeClocks (handedBefore (.clock f) s) s))
     let offered := fun t => if f.dest = broadcast then offerP2g f t else t
     let run := exec (.clock f) s
     (noRollsHanded s → (∀ c ∈ s.handed, c = .clock f ∨ isClock c = false) → u = taken (.clock f) s) ∧
     (clockOf f.payload = none → run = .next (offered (count .clockBad u))) ∧
     ∀ p, clockOf f.payload = some p →
       let good := 2000 ≤ p.year ∧ p.year ≤ 2199 ∧ 1 ≤ p.day ∧ p.day ≤ length p.year ∧ p.minute ≤ 1439
       (¬good → run = .next (offered (count .clockBad u))) ∧
       (good → ∃ t, run = .next (offered t) ∧
         t.calendar = { u.calendar with
           isSet := true, year := p.year, day := p.day, minute := p.minute, seconds := 0, phase := 0 } ∧
         (u.calendar.isSet = false → t.handed = u.handed ∧
           t = (List.range 256).foldl (fun v i => testObject ⟨p.year, p.day⟩ i v)
             ((List.range 24).foldl (fun v z => judgeMode z v) (clear .clockUnset 0 { u with calendar := t.calendar })) ∧
           ∀ i < 256,
             let o := u.object i
             let due := o.enable = true ∧ (o.lastRoll + 1 < p.year ∨ o.lastRoll + 1 = p.year ∧ o.startDay ≤ p.day)
             (due →
               (t.object i).previousYear = o.dose ∧ (t.object i).dose = 0 ∧ (t.object i).fraction = 0 ∧
               (t.object i).remaining = o.planned ∧ (t.object i).unknown = false ∧
               (t.object i).lastRoll = (if o.startDay ≤ p.day then p.year else p.year - 1) ∧
               (t.object i).ceiling = (pacedCeiling (t.object i)).ceiling) ∧
             (¬due → t.object i = o)) ∧
         (u.calendar.isSet = true → t.objects = u.objects ∧
           let d : Int :=
             (minutes p.year p.day p.minute : Int) - minutes u.calendar.year u.calendar.day u.calendar.minute
           let judged := fun rolls => (List.range 24).foldl (fun v z => judgeMode z v)
             { u with calendar := t.calendar, handed := u.handed ++ rolls }
           let newDate := u.calendar.year ≠ p.year ∨ u.calendar.day ≠ p.day
           let newHour := u.calendar.minute / 60 ≠ p.minute / 60
           (d < 3 → t = judged [] ∧ t.handed = u.handed) ∧
           (3 ≤ d → newDate → t = judged [.hourRoll, .dayRoll ⟨p.year, p.day⟩] ∧
             t.handed = u.handed ++ [.hourRoll, .dayRoll ⟨p.year, p.day⟩]) ∧
           (3 ≤ d → ¬newDate → newHour → t = judged [.hourRoll] ∧ t.handed = u.handed ++ [.hourRoll]) ∧
           (3 ≤ d → ¬newDate → ¬newHour → t = judged [] ∧ t.handed = u.handed)) ∧
         (∀ z < 24, (u.zone z).enable = true → (t.zone z).mode = judgedMode t.calendar (u.zone z)) ∧
         t.nodes = u.nodes ∧ t.points = u.points ∧ t.device = u.device ∧ t.store = u.store)) ∧
  (∀ (c : Calendar) (z : Zone),
     let hours := z.openFrom < z.openTo ∧ z.openFrom ≤ c.minute ∧ c.minute < z.openTo ∨
       z.openTo < z.openFrom ∧ (z.openFrom ≤ c.minute ∨ c.minute < z.openTo)
     let openNow := c.isSet = true ∧ hours
     (z.modeSource = .forced → judgedMode c z = z.forcedMode) ∧
     (z.modeSource = .auto → openNow → judgedMode c z = .opened) ∧
     (z.modeSource = .auto → ¬openNow → judgedMode c z = .closed))

/-- HOUR_ROLL (R52, R91, R137 to R140, R155, R176): the folds of the hour, the drift and the glide of the zones with their
TRIMs, and the start of the dose save, after the rolls issued before (R68; that they wait in the handed list is log entry
2). RH_DRIFT follows the DRIFT flag, with the span as its detail (R138). The plant origin drop counter is left out, since
the roll's own offers may count in it.
The order of the blocks at a roll is the model's (log entry 4), and so are that the gallery port is judged before the plant
port, which R155 does not order (log entry 33), and what an hour roll does that the Calendar has not issued (log entry
1). -/
def Obligations.HourRollFolds : Prop :=
  (∀ s : State,
     takeRolls s = s.handed.foldl takeRoll s ∧
     (∀ c, rollsBefore c s = (s.handed.takeWhile fun e => e != c).foldl takeRoll s) ∧
     takeRoll s .hourRoll =
       hourlySave (foldCounters (forEach 24 climateHourZone (setRechecks (foldHours (taken .hourRoll s))))) ∧
     (∀ d, takeRoll s (.dayRoll d) = (List.range 256).foldl (fun v i => testObject d i v)
       ((List.range 256).foldl (fun v i => foldDayObject i v) (taken (.dayRoll d) s))) ∧
     ∀ c, isRoll c = false → takeRoll s c = s) ∧
  (∀ (z : Nat) (s : State),
     let zn := s.zone z
     let present := zn.ring.filterMap id
     (present.length < 6 → judgeDrift z s = s) ∧
     (6 ≤ present.length → ∀ top ∈ present, ∀ bottom ∈ present, (∀ x ∈ present, bottom ≤ x ∧ x ≤ top) →
       let span := top - bottom
       let after :=
         if zn.drift then decide (0 < span ∧ zn.driftLimit - zn.rh.hysteresis < span) else decide (zn.driftLimit < span)
       judgeDrift z s =
         follow .rhDrift z span.toNat zn.drift after (s.modZone z fun _ => { zn with span := span, drift := after }))) ∧
  (∀ s : State, ∃ t, exec .hourRoll s = .next t ∧
    let u := taken .hourRoll (rollsBefore .hourRoll s)
    ((∀ c ∈ handedBefore .hourRoll s, isRoll c = false) → u = taken .hourRoll s) ∧
    t = hourlySave (foldCounters (forEach 24 climateHourZone (setRechecks (foldHours u)))) ∧
    t.objects = u.objects.map (fun o => { o with lastHour := o.thisHour, thisHour := 0 }) ∧
    t.nodes = u.nodes.map (fun n =>
      { n with recheckDue := n.recheckDue || (n.enable && n.state == .online && n.tagCheck) }) ∧
    (∀ i : Fin 17, i ≠ 12 →
      t.counters[i] = { u.counters[i] with last := u.counters[i].current, current := 0 }) ∧
    (∀ z < 24,
      let zn := u.zone z
      let rounded := (2 * zn.hourSum + zn.hourCount) / (2 * zn.hourCount)
      let mean : Option Int := if zn.hourCount = 0 then none else some rounded
      let ring := (if 24 ≤ zn.ring.length then zn.ring.drop 1 else zn.ring) ++ [mean]
      let present := ring.filterMap id
      let glided := fun (g : Int) (c : Climate) =>
        clampSetpoint { c with setpoint := c.setpoint + max (-g) (min g (c.target - c.setpoint)) }
      (zn.enable = false → t.zone z = zn) ∧
      (zn.enable = true → ∃ span drift, t.zone z = { zn with
          ring := ring, hourSum := 0, hourCount := 0, span := span, drift := drift
          rh := glided (if drift then zn.rh.glide / 2 else zn.rh.glide) zn.rh
          temp := glided zn.temp.glide zn.temp } ∧
        (present.length < 6 → span = zn.span ∧ drift = zn.drift) ∧
        (6 ≤ present.length →
          (∃ top ∈ present, ∃ bottom ∈ present, span = top - bottom ∧ ∀ x ∈ present, bottom ≤ x ∧ x ≤ top) ∧
          (zn.drift = true → (drift = true ↔ 0 < span ∧ zn.driftLimit - zn.rh.hysteresis < span)) ∧
          (zn.drift = false → (drift = true ↔ zn.driftLimit < span))))) ∧
    (u.save ≠ none ∨ u.procedure.restart ≠ .notRunning → t.save = u.save) ∧
    (u.save = none → u.procedure.restart = .notRunning → ∃ v, t.save = some v ∧ v.kind = .hourly ∧
      v.position = .dose 0 ∧ v.written = 0 ∧ v.octets = recordOctets t v.date (.dose 0) ∧
      v.date = if u.calendar.isSet then some ⟨u.calendar.year, u.calendar.day⟩ else none) ∧
    (t.degraded.gallery = true ↔
      ∃ i : Fin 17, i.val < 8 ∧ u.counters[i].threshold ≠ 0 ∧ u.counters[i].threshold ≤ u.counters[i].current) ∧
    t.points = u.points ∧ t.groups = u.groups ∧ t.calendar = u.calendar ∧ t.device = u.device ∧ t.store = u.store ∧
    t.handed = u.handed) ∧
  (∀ s : State, foldCounters s = judgePort .plant (judgePort .gallery
     { s with counters := s.counters.map fun c => { c with last := c.current, current := 0 } })) ∧
  (∀ (p : PortId) (s : State),
     let subject := match p with
       | .gallery => 0
       | .plant => 1
     let reached := fun i : Fin 17 =>
       (p = .gallery ∧ i.val < 8 ∨ p = .plant ∧ 8 ≤ i.val) ∧
         s.counters[i].threshold ≠ 0 ∧ s.counters[i].threshold ≤ s.counters[i].last
     let flag := match p with
       | .gallery => s.degraded.gallery
       | .plant => s.degraded.plant
     let flagged := fun v => match p with
       | .gallery => { s with degraded := { s.degraded with gallery := v } }
       | .plant => { s with degraded := { s.degraded with plant := v } }
     (∀ i, reached i → (∀ j, reached j → i ≤ j) → judgePort p s = raise .linkDegraded subject i (flagged true)) ∧
     ((∀ i, ¬reached i) → flag = true → judgePort p s = clear .linkDegraded subject (flagged false)) ∧
     ((∀ i, ¬reached i) → flag = false → judgePort p s = s)) ∧
  (∀ (z : Nat) (s : State), z < 24 → (s.zone z).enable = true →
     let t := climateHourZone z s
     let v := (judgeDrift z (s.modZone z closeHour)).modZone z glide
     t.zone z = v.zone z ∧
     ((s.zone z).airAddress = 0 → t = v) ∧
     ((s.zone z).airAddress ≠ 0 → t = offerOrigin
       ⟨byteOfNat (s.zone z).airAddress, kindTrim,
         byteOfNat (s.zone z).airChannel ::
           (octetsOf (halfOfInt (t.zone z).rh.setpoint) ++ octetsOf (halfOfInt (t.zone z).temp.setpoint)),
         .trim z⟩ v))

/-- DAY_ROLL (R92, R73, R93): the fold of every object, with OVER_CEILING cleared where its marker was set (R92), and the
year roll of an enabled object that is due, with DOSE_UNKNOWN cleared where it stood (R93) and the ceiling computed, after
the rolls issued before (R68; that they wait in the handed list is log entry 2). That OVER_CEILING counts as active by the
object's marker, and DOSE_UNKNOWN by its UNKNOWN flag, is deduced (log entry 20). What a day roll does that the Calendar has
not issued is the model's choice (log entry 1). -/
def Obligations.DayRollFoldsAndRolls : Prop :=
  (∀ (d : Date) (s : State),
     let u := taken (.dayRoll d) (rollsBefore (.dayRoll d) s)
     exec (.dayRoll d) s = .next ((List.range 256).foldl (fun v i => testObject d i v)
       ((List.range 256).foldl (fun v i => foldDayObject i v) u))) ∧
  (∀ (i : Nat) (s : State), i < 256 →
     let o := s.object i
     let x := s.modObject i fun _ => { o with
       yesterday := o.today, today := 0, peak := 0, overMinutes := 0, overMarker := false }
     foldDayObject i s = if o.overMarker then clear .overCeiling i x else x) ∧
  (∀ (d : Date) (i : Nat) (s : State), i < 256 →
     let o := s.object i
     let due := o.enable = true ∧ (o.lastRoll + 1 < d.year ∨ o.lastRoll + 1 = d.year ∧ o.startDay ≤ d.day)
     let x := s.modObject i fun _ => { o with
       previousYear := o.dose, dose := 0, fraction := 0, remaining := o.planned, unknown := false,
       lastRoll := if o.startDay ≤ d.day then d.year else d.year - 1 }
     (due → testObject d i s = ceilingEvent i (if o.unknown then clear .doseUnknown i x else x)) ∧
     (¬due → testObject d i s = s)) ∧
  ∀ (d : Date) (s : State), ∃ t, exec (.dayRoll d) s = .next t ∧
    let u := taken (.dayRoll d) (rollsBefore (.dayRoll d) s)
    ((∀ c ∈ handedBefore (.dayRoll d) s, isRoll c = false) → u = taken (.dayRoll d) s) ∧
    (∀ i < 256,
      let o := u.object i
      let due := o.enable = true ∧ (o.lastRoll + 1 < d.year ∨ o.lastRoll + 1 = d.year ∧ o.startDay ≤ d.day)
      (t.object i).yesterday = o.today ∧ (t.object i).today = 0 ∧ (t.object i).peak = 0 ∧
        (t.object i).overMinutes = 0 ∧ (t.object i).overMarker = false ∧ (t.object i).thisHour = o.thisHour ∧
      (due →
        (t.object i).previousYear = o.dose ∧ (t.object i).dose = 0 ∧ (t.object i).fraction = 0 ∧
        (t.object i).remaining = o.planned ∧ (t.object i).unknown = false ∧
        (t.object i).lastRoll = (if o.startDay ≤ d.day then d.year else d.year - 1) ∧
        (t.object i).ceiling = (pacedCeiling (t.object i)).ceiling) ∧
      (¬due → t.object i = { o with
        yesterday := o.today, today := 0, peak := 0, overMinutes := 0, overMarker := false })) ∧
    t.nodes = u.nodes ∧ t.points = u.points ∧ t.calendar = u.calendar ∧ t.device = u.device ∧ t.store = u.store ∧
    t.handed = u.handed

/-- R88: the ceiling computation, the first case that holds. -/
def Obligations.CeilingIsFirstCase : Prop :=
  ∀ o : Obj,
    let left := if o.dose < o.budget then o.budget - o.dose else 0
    let paced := left * 60 / o.remaining
    let c := pacedCeiling o
    (left = 0 → c.ceiling = o.cfloor ∧ c.exhausted = true ∧ c.paceShort = false) ∧
    (left ≠ 0 → o.remaining = 0 → c.ceiling = o.cmax ∧ c.exhausted = false ∧ c.paceShort = false) ∧
    (left ≠ 0 → o.remaining ≠ 0 →
      c.ceiling = (if o.cmax < paced then o.cmax else if paced < o.cfloor then o.cfloor else paced) ∧
      c.exhausted = false ∧ c.paceShort = decide (paced < o.cfloor)) ∧
    (o.cfloor ≤ o.cmax → o.cfloor ≤ c.ceiling ∧ c.ceiling ≤ o.cmax) ∧
    { c with ceiling := o.ceiling, exhausted := o.exhausted, paceShort := o.paceShort } = o

/-! ### Light control and climate (06, 07) -/

/-- SETTLE_EXPIRY (R115, R102, R25): a SETTLING group becomes IDLE, and the pending evaluation of its zone runs when every
group of the zone has come to rest; the grant of what it commands follows (log entry 25).
That a group which is not SETTLING is left as it is, and that the expiry is taken whatever the clock shows, is the model's
choice (log entry 1). -/
def Obligations.SettleExpiryEndsSettling : Prop :=
  ∀ (g e : Nat) (s : State), g < 48 →
    let u := taken (.settleExpiry g) s
    let z := (s.group g).zone
    let idle := u.modGroup g fun gr => { gr with phase := .idle }
    let atRest := ∀ h < 48, h ≠ g → (s.group h).enable = true → (s.group h).zone = z → (s.group h).phase = .idle
    ((s.group g).phase = .settling e → (s.zone z).evalPending = true → atRest →
      exec (.settleExpiry g) s =
        .next (grantJoined (evaluate z (idle.modZone z fun zn => { zn with evalPending := false })))) ∧
    ((s.group g).phase = .settling e → ((s.zone z).evalPending = false ∨ ¬atRest) →
      exec (.settleExpiry g) s = .next (grantJoined idle)) ∧
    ((∀ e', (s.group g).phase ≠ .settling e') → exec (.settleExpiry g) s = .next u)

/-- R102: a request runs the evaluation where every enabled group of the zone is IDLE, and leaves it pending otherwise; the
grant of R25 follows (log entry 25).
R104, R105: the ratios of objects, zones and lamp groups.
R106 to R109: the target of a group, by the mode of its zone.
R103, R110: the evaluation judges the ratios of the zone's groups, and commands each group whose target or resend marker
asks for it: with a node that can be reached the group takes its target, is QUEUED and joins the gallery origin queue, in
index order; else its resend and unavailable markers are set, and ACTUATOR_SILENT raised where it becomes active (R111, log
entry 20). GROUP_BLIND follows BLIND (R105).
Which group a zone's shade field names is the model's reading (log entry 22), and so are that a negative value of a light
point reads as 0 and that an object of another zone has no ratio (log entry 35). The order in which the groups are judged
BLIND and UNAVAILABLE is the model's choice (log entry 36). -/
def Obligations.EvaluationCommandsTheGroups : Prop :=
  (∀ (s : State) (z g : Nat), namedShade s z = some g ↔
     (s.zone z).shade = some g ∧ (s.group g).enable = true ∧ (s.group g).zone = z ∧ (s.group g).kind = .shade) ∧
  (∀ (z g : Nat) (s : State), g < 48 →
     let gr := s.group g
     let blind := lampBlind s z g
     (gr.kind = .shade → judgeLamp z g s = s) ∧
     (gr.kind = .lamp → judgeLamp z g s = follow .groupBlind g gr.zone gr.blind blind
       (s.modGroup g fun _ => { gr with blind := blind, ratio := (lampRatio s z g).getD gr.ratio })) ∧
     (∀ t,
       let asked := t ≠ gr.level ∨ gr.resend = true
       let barred := s.modGroup g fun _ => { gr with resend := true, unavailable := true }
       (¬asked → commandGroup g t s = s) ∧
       (asked → nodeReachable s gr.node = true → commandGroup g t s =
         { s.modGroup g fun _ => { gr with level := t, phase := .queued } with galleryOrigin := s.galleryOrigin ++ [g] }) ∧
       (asked → nodeReachable s gr.node = false → commandGroup g t s =
         if gr.unavailable = false ∧ gr.misses < 3 then raise .actuatorSilent g gr.zone barred else barred))) ∧
  (∀ (z : Nat) (s : State),
     let inZone := (List.range 48).filter fun g => (s.group g).enable && (s.group g).zone == z
     let stored := match namedShade s z, zoneRatio s z with
       | some g, some q => s.modGroup g fun gr => { gr with ratio := q }
       | _, _ => s
     let judged := inZone.foldl (fun u g => judgeLamp z g u) stored
     evaluate z s = inZone.foldl (fun u g => commandGroup g (target judged z g) u) judged) ∧
  (∀ (z : Nat) (s : State),
     let atRest := ∀ h < 48, (s.group h).enable = true → (s.group h).zone = z → (s.group h).phase = .idle
     (atRest → requestCore z s = evaluate z s) ∧
     (¬atRest → requestCore z s = s.modZone z fun zn => { zn with evalPending := true }) ∧
     requestEvaluation z s = if (requestCore z s).galleryOrigin = [] then requestCore z s else grant (requestCore z s)) ∧
  (∀ (s : State) (o : Obj),
     let p := s.point o.lightPoint
     ((p.state = .fresh ∨ p.state = .held) →
       objectRatio s o = some (if p.value.toNat = 0 then 4000 else min 4000 (o.ceiling * 1000 / p.value.toNat))) ∧
     (p.state ≠ .fresh → p.state ≠ .held → objectRatio s o = none)) ∧
  (∀ (s : State) (z g : Nat),
     let inZone := fun i => i < 256 ∧ (s.object i).enable = true ∧ (s.object i).zone = z
     let member := fun i => i < 256 ∧ (s.object i).enable = true ∧ (s.object i).lampGroup = some g
     let least := fun (of : Nat → Prop) (r : Option Nat) => ∀ q, r = some q ↔
       (∃ i, of i ∧ objectRatio s (s.object i) = some q) ∧ ∀ i, of i → ∀ x, objectRatio s (s.object i) = some x → q ≤ x
     least inZone (zoneRatio s z) ∧
     ((∀ i, ¬member i) → lampRatio s z g = zoneRatio s z) ∧
     ((∃ i, member i) → least (fun i => member i ∧ (s.object i).zone = z) (lampRatio s z g)) ∧
     (lampBlind s z g = true ↔ (∃ i, member i) ∧ lampRatio s z g = none)) ∧
  (∀ (s : State) (z g : Nat),
     let gr := s.group g
     let named := namedShade s z = some g
     let highest := match gr.cap with
       | some c => min gr.hi c
       | none => gr.hi
     let capped := fun n => match gr.cap with
       | some c => min n c
       | none => n
     let lowered := fun q => min (max gr.lo (min (gr.level - 1) (gr.level * q / 1000))) highest
     let raised := min highest (gr.level + gr.step)
     let held := min gr.level highest
     let shadeDown := ∃ h, namedShade s z = some h ∧ nodeReachable s (s.group h).node = true ∧
       (s.group h).misses < 3 ∧ (s.group h).lo < (s.group h).level
     let lampsTop := ∀ h < 48, (s.group h).enable = true → (s.group h).zone = z → (s.group h).kind = .lamp →
       (s.group h).level = match (s.group h).cap with
         | some c => min (s.group h).hi c
         | none => (s.group h).hi
     (gr.kind = .shade → ¬named → target s z g = gr.level) ∧
     (gr.kind = .shade → named → (s.zone z).mode ≠ .opened → target s z g = capped gr.lo) ∧
     (gr.kind = .lamp → (s.zone z).mode = .closed → target s z g = capped gr.cleaning) ∧
     (gr.kind = .lamp → (s.zone z).mode = .dark → target s z g = capped 0) ∧
     ((s.zone z).mode = .opened → (gr.kind = .lamp ∨ named) →
       (zoneRatio s z = none → target s z g = held) ∧
       (∀ qz, zoneRatio s z = some qz → gr.kind = .lamp →
         (lampRatio s z g = none → target s z g = held) ∧
         (∀ q, lampRatio s z g = some q →
           (qz < 1000 → ¬shadeDown → q < 1000 → gr.lo < gr.level → target s z g = lowered q) ∧
           (qz < 1000 → (shadeDown ∨ 1000 ≤ q ∨ gr.level ≤ gr.lo) → target s z g = held) ∧
           (1000 ≤ qz → 1000 + gr.hold ≤ q → gr.level < highest → target s z g = raised) ∧
           (1000 ≤ qz → (q < 1000 + gr.hold ∨ highest ≤ gr.level) → target s z g = held))) ∧
       (∀ qz, zoneRatio s z = some qz → gr.kind = .shade →
         (qz < 1000 → shadeDown → target s z g = lowered qz) ∧
         (qz < 1000 → ¬shadeDown → target s z g = held) ∧
         (1000 ≤ qz → gr.level < highest → 1000 + gr.hold ≤ qz → lampsTop → target s z g = raised) ∧
         (1000 ≤ qz → (highest ≤ gr.level ∨ qz < 1000 + gr.hold ∨ ¬lampsTop) → target s z g = held)))) ∧
  (∀ (z : Nat) (s : State),
     let t := evaluate z s
     let inZone := fun g => (s.group g).enable && (s.group g).zone == z
     let asked := fun g => inZone g && (target s z g != (s.group g).level || (s.group g).resend)
     let commanded := fun g => asked g && nodeReachable s (s.group g).node
     let lamp := fun g => (s.group g).kind = .lamp
     t.galleryOrigin = s.galleryOrigin ++ indicesWhere 48 commanded ∧
     (∀ g < 48, inZone g = true → t.group g = { s.group g with
       level := if commanded g then target s z g else (s.group g).level
       phase := if commanded g then .queued else (s.group g).phase
       resend := (s.group g).resend || asked g && !commanded g
       unavailable := (s.group g).unavailable || asked g && !commanded g
       blind := if lamp g then lampBlind s z g else (s.group g).blind
       ratio :=
         if lamp g then (lampRatio s z g).getD (s.group g).ratio
         else if namedShade s z = some g then (zoneRatio s z).getD (s.group g).ratio
         else (s.group g).ratio }) ∧
     (∀ g < 48, inZone g = false → t.group g = s.group g) ∧
     t.zones = s.zones ∧ exceptEvaluation t = exceptEvaluation s)

/-- R133 to R136: one step of a band machine, from each state by the value; and the condition that follows it.
MINUTE_TICK (R129 to R132): the zone values, BLIND, the sum of the hour, and one step of each band machine, for every
enabled zone; ZONE_BLIND follows BLIND, its detail 1 for RH, 2 for TEMP, 3 for both (R131). R123, R127: the narrowed band,
and a setpoint brought into it. The order of the blocks at a tick is the model's (log entry 4), and so is that the tick is
taken whatever the seconds count shows (log entry 1). -/
def Obligations.BandMachineSteps : Prop :=
  (∀ c : Climate,
     let empty := c.hi - c.hysteresis < c.lo + c.hysteresis
     let mid := (c.lo + c.hi) / 2
     nLo c = (if empty then mid else c.lo + c.hysteresis) ∧ nHi c = (if empty then mid else c.hi - c.hysteresis) ∧
     clampSetpoint c = { c with setpoint := max (nLo c) (min (nHi c) c.setpoint) }) ∧
  (∀ (z : Nat) (s : State), z < 24 →
     let zn := s.zone z
     let points := fun q => s.points.toList.filter fun p => p.enable && p.zone == z && p.quantity == q
     let used := fun q => (points q).filter fun p => p.state == .fresh || p.state == .held
     let value := fun q => if used q = [] then none else
         some ((2 * ((used q).map Point.value).sum + (used q).length) / (2 * (used q).length))
     let blindOf := fun q => !(points q).isEmpty && (value q).isNone
     let blind := blindOf .rh || blindOf .temp
     let detail := if blindOf .rh then (if blindOf .temp then 3 else 1) else if blindOf .temp then 2 else 0
     let x := { zn with
       rh := { zn.rh with value := value .rh }, temp := { zn.temp with value := value .temp }, blind := blind }
     let judged := follow .zoneBlind z detail zn.blind blind (s.modZone z fun _ => x)
     let summed := match value .rh with
       | none => x
       | some v => { x with
           hourSum := min 4294967295 (zn.hourSum + v.toNat), hourCount := min 65535 (zn.hourCount + 1) }
     (zn.enable = false → climateMinuteZone z s = s) ∧
     (zn.enable = true →
       climateMinuteZone z s = stepBand .temp z (stepBand .rh z (judged.modZone z fun _ => summed)))) ∧
  (∀ (q : ClimateQuantity) (z : Nat) (s : State), (climateOf q (s.zone z)).value = none → stepBand q z s = s) ∧
  (∀ (m : Bool) (s : State) (z : Nat), noRollsHanded s → z < 24 → (s.zone z).enable = true →
     ∃ t, exec (.minuteTick m) s = .next t ∧
       let r := if m then judgePoints s else s
       let zn := s.zone z
       let points := fun q => r.points.toList.filter fun p => p.enable && p.zone == z && p.quantity == q
       let used := fun q => (points q).filter fun p => p.state == .fresh || p.state == .held
       let value := fun q => if used q = [] then none else
         some ((2 * ((used q).map Point.value).sum + (used q).length) / (2 * (used q).length))
       let stepped := fun (c : Climate) (v : Option Int) => match v with
         | none => { c with value := none }
         | some x => movedBand zn.persistence (bandMove { c with value := v } x) { c with value := v }
       (t.zone z).rh = stepped zn.rh (value .rh) ∧ (t.zone z).temp = stepped zn.temp (value .temp) ∧
       ((t.zone z).blind = true ↔
         points .rh ≠ [] ∧ value .rh = none ∨ points .temp ≠ [] ∧ value .temp = none) ∧
       (value .rh = none → (t.zone z).hourSum = zn.hourSum ∧ (t.zone z).hourCount = zn.hourCount) ∧
       (∀ x, value .rh = some x → (t.zone z).hourSum = min 4294967295 (zn.hourSum + x.toNat) ∧
         (t.zone z).hourCount = min 65535 (zn.hourCount + 1)) ∧
       (t.zone z).ring = zn.ring ∧ (t.zone z).drift = zn.drift ∧ (t.zone z).span = zn.span) ∧
  (∀ (q : ClimateQuantity) (z : Nat) (v : Int) (s : State), (climateOf q (s.zone z)).value = some v →
     let move := bandMove (climateOf q (s.zone z)) v
     let w := s.modZone z fun zn => withClimate q (movedBand zn.persistence move (climateOf q zn)) zn
     let u := if move.cleared then clear (excursionKind q) z w else w
     let completes := move.tested = true ∧ (s.zone z).persistence ≤ move.timer
     (completes → move.band = .pendingHigh → stepBand q z s = raise (excursionKind q) z 1 u) ∧
     (completes → move.band = .pendingLow → stepBand q z s = raise (excursionKind q) z 2 u) ∧
     (completes → (move.band = .returningHigh ∨ move.band = .returningLow) →
       stepBand q z s = clear (excursionKind q) z u) ∧
     (¬completes → stepBand q z s = u)) ∧
  ∀ (c : Climate) (v : Int) (persistence : Nat), c.lo ≤ c.hi →
    let high := c.hi < v
    let low := v < c.lo
    let t := movedBand persistence (bandMove c v) c
    let rising := fun (from' to' : BandState) (n : Nat) =>
      if persistence ≤ n then t = { c with band := to', timer := 0 } else t = { c with band := from', timer := n }
    (c.band = .inBand → high → rising .pendingHigh .high 1) ∧
    (c.band = .inBand → low → rising .pendingLow .low 1) ∧
    (c.band = .inBand → ¬high → ¬low → t = { c with timer := 0 }) ∧
    (c.band = .pendingHigh → high → rising .pendingHigh .high (c.timer + 1)) ∧
    (c.band = .pendingHigh → low → rising .pendingLow .low 1) ∧
    (c.band = .pendingHigh → ¬high → ¬low → t = { c with band := .inBand, timer := 0 }) ∧
    (c.band = .pendingLow → low → rising .pendingLow .low (c.timer + 1)) ∧
    (c.band = .pendingLow → high → rising .pendingHigh .high 1) ∧
    (c.band = .pendingLow → ¬high → ¬low → t = { c with band := .inBand, timer := 0 }) ∧
    (c.band = .high → ¬low → nHi c < v → t = { c with timer := 0 }) ∧
    (c.band = .high → ¬low → ¬high → v ≤ nHi c → rising .returningHigh .inBand 1) ∧
    (c.band = .high → low → rising .pendingLow .low 1 ∧ (bandMove c v).cleared = true) ∧
    (c.band = .low → ¬high → v < nLo c → t = { c with timer := 0 }) ∧
    (c.band = .low → ¬high → ¬low → nLo c ≤ v → rising .returningLow .inBand 1) ∧
    (c.band = .low → high → rising .pendingHigh .high 1 ∧ (bandMove c v).cleared = true) ∧
    (c.band = .returningHigh → high → t = { c with band := .high, timer := 0 }) ∧
    (c.band = .returningHigh → low → rising .pendingLow .low 1 ∧ (bandMove c v).cleared = true) ∧
    (c.band = .returningHigh → ¬high → ¬low →
      if nLo c ≤ v ∧ v ≤ nHi c then rising .returningHigh .inBand (c.timer + 1) else t = c) ∧
    (c.band = .returningLow → low → t = { c with band := .low, timer := 0 }) ∧
    (c.band = .returningLow → high → rising .pendingHigh .high 1 ∧ (bandMove c v).cleared = true) ∧
    (c.band = .returningLow → ¬high → ¬low →
      if nLo c ≤ v ∧ v ≤ nHi c then rising .returningLow .inBand (c.timer + 1) else t = c)

/-! ### Conditions (08) -/

/-- R143, R144: the Condition Table and the latches after a raise, and after a clear.
R148, R149, R147: an unmasked one offers its CONDITION frame, and a masked one, or one of the load, offers none.
What it is for a condition to follow a flag: raised as the flag becomes set, cleared as it becomes clear. -/
def Obligations.RaiseAndClearRecord : Prop :=
  ∀ (k : ConditionKind) (a d : Nat) (s : State),
    let new : Condition := ⟨k, a, .active, calendarDay s.calendar, calendarMinute s.calendar, d⟩
    let is := fun e : Condition => e.kind = k ∧ e.subject = a
    let t := raise k a d s
    ((∃ e ∈ s.conditions, is e) → t.conditions = s.conditions.map fun e => if is e then new else e) ∧
    ((∀ e ∈ s.conditions, ¬is e) → s.conditions.length < 64 → t.conditions = s.conditions ++ [new]) ∧
    ((∀ e ∈ s.conditions, ¬is e) → 64 ≤ s.conditions.length → ∀ early e late,
      s.conditions = early ++ e :: late → (∀ x ∈ early, x.state = .active) → e.state = .latched →
      t.conditions = early ++ late ++ [new]) ∧
    ((∀ e ∈ s.conditions, ¬is e) → 64 ≤ s.conditions.length → (∀ e ∈ s.conditions, e.state = .active) →
      t.conditions = s.conditions ∧ t.latches.overflow = true) ∧
    (masked s k = false → t.latches.raised = true ∧ t.latches.clear = false) ∧
    (masked s k = true → t.latches.raised = s.latches.raised ∧ t.latches.clear = s.latches.clear ∧
      t.plantOrigin = s.plantOrigin) ∧
    (let report : Byte → Nat → OriginFrame := fun transition detail =>
       ⟨if s.device.mgmtAddress = 0 then broadcast else byteOfNat s.device.mgmtAddress, kindCondition,
         [byteOfNat (conditionCode k), byteOfNat a, transition] ++
           octetsOfAll [halfOfNat detail, halfOfNat (calendarDay s.calendar), halfOfNat (calendarMinute s.calendar)],
         .condition⟩
     let quiet := masked s k = true ∨ s.loading = true
     let raised := { s with conditions := t.conditions, latches := t.latches }
     let cleared := { s with conditions := (clear k a s).conditions }
     (quiet → t = raised ∧ clear k a s = cleared) ∧
     (¬quiet → t = offerOrigin (report 1 d) raised ∧
       (∀ early e late, s.conditions = early ++ e :: late → (∀ x ∈ early, ¬is x) → is e →
         clear k a s = offerOrigin (report 0 e.detail) cleared) ∧
       ((∀ e ∈ s.conditions, ¬is e) → clear k a s = offerOrigin (report 0 0) cleared))) ∧
    (∀ before after : Bool,
      follow k a d before after s =
        (if after = true ∧ before = false then t
         else if before = true ∧ after = false then clear k a s else s) ∧
      clearIf before k a s = if before = true then clear k a s else s) ∧
    exceptReports t = exceptReports s ∧
    (clear k a s).conditions = (s.conditions.map fun e => if is e then { e with state := .latched } else e) ∧
    (clear k a s).latches = s.latches ∧ exceptReports (clear k a s) = exceptReports s

/-! ### Supervision (09) -/

/-- PRESENCE (R168, R170): the restart of the window timer, and the return from UNATTENDED. That it is taken whatever the
plant port's enable shows is the model's choice (log entry 2).
SUPERVISION_EXPIRY (R169, R101): UNATTENDED, MGMT_LOST, and with REVERT every FORCED zone becomes AUTO and its mode is
judged, zone by zone (log entry 36), whatever the clock shows (log entry 1). MGMT_LOST stands in the
Condition Table, but that a table full of ACTIVE entries sets the overflow latch instead (R143). -/
def Obligations.SupervisionWindow : Prop :=
  (∀ (f : Frame) (s : State),
     let u := taken (.presence f) s
     (s.device.supervisionWindow = 0 → exec (.presence f) s = .next u) ∧
     (s.device.supervisionWindow ≠ 0 → ∃ t, exec (.presence f) s = .next t ∧
       t.supervision = ⟨true, some (s.now + s.device.supervisionWindow * unitsPerSecond)⟩ ∧
       (s.supervision.attended = true → t = { u with supervision := t.supervision }) ∧
       (s.supervision.attended = false → t = { clear .mgmtLost 0 { u with supervision := ⟨true, s.supervision.timer⟩ } with
         supervision := t.supervision }))) ∧
  (∀ (s : State) (e : Nat), s.supervision.timer = some e →
     let u := raise .mgmtLost 0 0 { taken .supervisionExpiry s with supervision := ⟨false, none⟩ }
     (s.device.supervisionAction = .hold → exec .supervisionExpiry s = .next u) ∧
     (s.device.supervisionAction = .revert → exec .supervisionExpiry s =
       .next ((List.range 24).foldl (fun v z =>
         if (v.zone z).modeSource = .forced then judgeMode z (v.modZone z fun zn => { zn with modeSource := .auto })
         else v) u)) ∧
     (s.device.supervisionAction = .revert → ∃ t, exec .supervisionExpiry s = .next t ∧
       t.supervision = ⟨false, none⟩ ∧
       ((∃ e ∈ t.conditions, e.kind = .mgmtLost ∧ e.subject = 0 ∧ e.state = .active) ∨ t.latches.overflow = true) ∧
       (∀ z < 24,
         (t.zone z).modeSource = .auto ∧ (t.zone z).forcedMode = (s.zone z).forcedMode ∧
         (t.zone z).mode =
           if (s.zone z).modeSource = .forced ∧ (s.zone z).enable = true then
             judgedMode s.calendar { s.zone z with modeSource := .auto }
           else (s.zone z).mode) ∧
       (∀ g, (t.group g).cap = (s.group g).cap) ∧
       t.nodes = s.nodes ∧ t.points = s.points ∧ t.objects = s.objects ∧ t.device = s.device ∧
       t.calendar = s.calendar ∧ t.store = s.store))

/-! ### Service requests (09): reads and writes -/

/-- READ (R157, R158, R160): a request of one READ element; the values are read one after another from the cursor, which
steps after each.
R159, R164, R181: what every field of every table reads, the descriptors among them, with the codes of the named values
and those of unknown, absent and none.
The row stands for a request of one element (log entry 3). The step from an entry beyond the table is the model's choice
(log entry 15), and so is that an element answered FORMAT leaves the cursor that it carries unloaded (log entry 32). -/
def Obligations.ReadAnswersItsValues : Prop :=
  (∀ (table : TableId) (m : StepMode) (s : State),
     readValues table m 0 s = (s, [], false) ∧
     ∀ n,
       let p := cursorOf s table
       let u := setCursor table (stepPosition table m p) (if inTable table p then latchRead table p s else s)
       readValues table m (n + 1) s =
         ((readValues table m n u).1,
           (if inTable table p then readField s table p else 0) :: (readValues table m n u).2.1,
           (readValues table m n u).2.2 || !inTable table p)) ∧
  (∀ s : State,
     let entry := fun (t : TableId) (e : Nat) => (List.range (fieldCount t e)).map fun f => readField s t ⟨e, f⟩
     let enabled := fun (size : Nat) (on : Nat → Bool) => BitVec.ofNat 16 ((List.range size).filter on).length
     entry .device 0 = deviceReads s ∧
     (List.range 7).map (fun i => entry .device (i + 1)) =
       [[0x4E01, 64, 28, enabled 64 fun n => (s.node n).enable], [0x4E02, 192, 11, enabled 192 fun i => (s.point i).enable],
         [0x4E03, 256, 44, enabled 256 fun i => (s.object i).enable],
         [0x4E04, 48, 18, enabled 48 fun g => (s.group g).enable], [0x4E05, 24, 63, enabled 24 fun z => (s.zone z).enable],
         [0x4E06, 64, 6, BitVec.ofNat 16 s.conditions.length], [0x4E07, 17, 5, 17]] ∧
     (∀ n < 64, entry .node n = nodeReads (s.node n)) ∧
     (∀ i < 192, entry .point i = pointReads (s.point i)) ∧
     (∀ i < 256, entry .object i = objectReads (s.object i)) ∧
     (∀ g < 48, entry .group g = groupReads (s.group g)) ∧
     (∀ z < 24, entry .zone z = zoneReads (s.zone z)) ∧
     (∀ i < 64, entry .condition i = conditionReads s.conditions[i]?) ∧
     (∀ i : Fin 17, entry .counter i = counterReads s.counters[i])) ∧
  (∀ e : Nat,
     [Role.sensor, .actuator].map roleCode = [1, 2] ∧ [GroupKind.lamp, .shade].map kindCodeOfGroup = [1, 2] ∧
     [Quantity.illum, .uvr, .temp, .rh].map quantityCode = [1, 2, 3, 4] ∧
     [NodeState.absent, .hunting, .tagcheck, .online, .silent, .displaced].map nodeStateCode = [0, 1, 2, 3, 4, 5] ∧
     [PointState.lost, .fresh, .stale, .faulted, .held].map pointStateCode = [0, 1, 2, 3, 4] ∧
     [CommandPhase.idle, .queued, .sent, .settling e].map phaseCode = [0, 1, 2, 3] ∧
     [ModeSource.auto, .forced].map modeSourceCode = [0, 1] ∧ [Mode.opened, .closed, .dark].map modeCode = [1, 2, 3] ∧
     [BandState.inBand, .pendingHigh, .pendingLow, .high, .low, .returningHigh, .returningLow].map bandStateCode =
       [0, 1, 2, 3, 4, 5, 6] ∧
     [ConditionState.active, .latched].map conditionStateCode = [1, 2] ∧
     [SupervisionAction.hold, .revert].map supervisionActionCode = [0, 1] ∧
     [ProcedureState.idle, .running, .done, .failed].map procedureStateCode = [0, 1, 2, 3] ∧
     [Rate.slow, .fast].map galleryRateCode = [192, 384] ∧ [Rate.slow, .fast].map plantRateCode = [576, 1152] ∧
     [ConditionKind.nodeSilent, .nodeDisplaced, .pointFault, .doseExhausted, .paceShort, .sourceDegraded, .overCeiling,
       .doseUnknown, .groupBlind, .actuatorSilent, .levelMismatch, .rhExcursion, .tExcursion, .rhDrift, .zoneBlind,
       .linkDegraded, .mgmtLost, .clockUnset, .imageFault].map conditionCode = (List.range 19).map (· + 1)) ∧
  (∀ (table : TableId) (p : Position),
     let next := if p.entry + 1 < entryCount table then p.entry + 1 else 0
     (inTable table p = true ↔ p.entry < entryCount table ∧ p.field < fieldCount table p.entry) ∧
     stepPosition table .stay p = p ∧ stepPosition table .entry p = ⟨next, p.field⟩ ∧
     stepPosition table .field p =
       if p.entry < entryCount table ∧ p.field + 1 < fieldCount table p.entry then ⟨p.entry, p.field + 1⟩
       else ⟨next, 0⟩) ∧
  ∀ (rq : Requester) (table : TableId) (c : Option Cursor) (m : StepMode) (n : Nat) (s : State),
    (1 ≤ n ∧ n ≤ 16 →
      let u := loadCursor table c (supervisionRestart s)
      let r := readValues table m n u
      exec (.read rq table c m n) s = .next (offerOrigin
        ⟨rq.src, kindServiceReply,
          rq.seq :: statusCode (if r.2.2 then .range else .ok) :: octetsOfAll r.2.1, .reply false⟩ r.1) ∧
      r.2.1.length = n ∧
      (n = 1 → r.2.1 = [valueAt u table (cursorOf u table)] ∧ r.2.2 = !inTable table (cursorOf u table) ∧
        cursorOf r.1 table = stepPosition table m (cursorOf u table)) ∧
      { r.1 with cursors := u.cursors, latches := u.latches } = u) ∧
    (¬(1 ≤ n ∧ n ≤ 16) →
      exec (.read rq table c m n) s = .next (answer rq .format (count .serviceFormatErrors (supervisionRestart s))))

/-- RAISED_SINCE_READ, CLEAR_SINCE_READ and OVERFLOW (R151, R152, R153): the value of the latch is answered, and the
latch then changes.
R150, R148: ALERT is asserted exactly while an ACTIVE entry of an unmasked kind stands in the Condition Table.
The row stands for a request of one element (log entry 3). -/
def Obligations.LatchReadsChangeTheLatch : Prop :=
  (∀ s : State,
    (alertAsserted s = true ↔ ∃ e ∈ s.conditions, e.state = .active ∧ masked s e.kind = false) ∧
    ∀ (k : ConditionKind) (i : Fin 19), i.val + 1 = conditionCode k → masked s k = s.device.masks[i]) ∧
  ∀ (rq : Requester) (s : State),
    let u := supervisionRestart s
    let reply := fun (v : Bool) (t : State) => offerOrigin
      ⟨rq.src, kindServiceReply, rq.seq :: 0 :: [0, if v then 1 else 0], .reply false⟩ t
    exec (.raisedSinceRead rq) s = .next (reply u.latches.raised
      { setCursor .device ⟨0, 20⟩ u with latches := { u.latches with raised := false } }) ∧
    exec (.clearSinceRead rq) s = .next (reply u.latches.clear
      { setCursor .device ⟨0, 21⟩ u with
        latches := { u.latches with clear := u.latches.clear || !alertAsserted u } }) ∧
    exec (.overflow rq) s = .next (reply u.latches.overflow
      { setCursor .device ⟨0, 22⟩ u with latches := { u.latches with overflow := false } })

/-- WRITE (R157, R158, R161): a request of one WRITE element; the values are written one after another at the cursor, which
steps after each, and the first status that is not OK stands. The grant that a value has asked for comes after the whole
request (R156, R25, log entry 25). The codes of the eleven statuses (11).
The row stands for a request of one element (log entry 3). That an element answered FORMAT leaves the cursor that it
carries unloaded is the model's choice (log entry 32). -/
def Obligations.WriteAnswersItsStatus : Prop :=
  [Status.ok, .clamped, .readOnly, .range, .refError, .enabled, .tagMismatch, .busy, .tooLong, .format, .started].map
    statusCode = [0, 1, 2, 3, 4, 5, 6, 7, 8, 9, 10] ∧
  (∀ (table : TableId) (m : StepMode) (s : State),
     writeValues table m [] s = ⟨s, .ok, false⟩ ∧
     ∀ v vs,
       let r := writeValue table (cursorOf s table) v s
       let w := writeValues table m vs (setCursor table (stepPosition table m (cursorOf r.1 table)) r.1)
       writeValues table m (v :: vs) s =
         ⟨w.state, if r.2 = .ok then w.status else r.2, asksGrant s r.1 || w.grantAsked⟩) ∧
  (∀ s t : State,
     (asksGrant s t = true ↔ (∃ g ∈ t.galleryOrigin, g ∉ s.galleryOrigin) ∨
       (∃ n < 64, (s.node n).enable = false ∧ (t.node n).enable = true) ∨
       portOn s .gallery = false ∧ portOn t .gallery = true) ∧
     grantAfter true s = grant s ∧ grantAfter false s = s) ∧
  ∀ (rq : Requester) (table : TableId) (c : Option Cursor) (m : StepMode) (values : List Half) (s : State),
    let u := loadCursor table c (supervisionRestart s)
    (1 ≤ values.length → values.length ≤ 16 →
      exec (.write rq table c m values) s =
        .next (let w := writeValues table m values u
          grantAfter w.grantAsked (answer rq w.status w.state))) ∧
    (¬(1 ≤ values.length ∧ values.length ≤ 16) →
      exec (.write rq table c m values) s = .next (answer rq .format (count .serviceFormatErrors (supervisionRestart s)))) ∧
    (∀ v, values = [v] → exec (.write rq table c m values) s =
      .next (let r := writeValue table (cursorOf u table) v u
        answered rq r.2 u (stepCursor table m r.1)))

/-- R161, R162: the order in which a value is judged. A code that its field does not take is judged before the enable
(log entry 14). Which fields are configuration and which binding, and the codes that each field takes (11, the service
tables).
R42, R54, R74, R99, R126, R154, R159, R163, R181: what a value that passes is stored as, and when it answers CLAMPED, in
each field that has no row of its own. -/
def Obligations.WriteIsJudgedInOrder : Prop :=
  (∀ (t : TableId) (p : Position) (v : Half),
     let config : List Nat := match t with
       | .device => if p.entry = 0 then (List.range 10).map (· + 3) ++ (List.range 19).map (· + 23) else []
       | .node => [0] ++ (List.range 10).map (· + 3)
       | .point => [0, 5]
       | .object => [0] ++ (List.range 13).map (· + 11)
       | .group => [0] ++ (List.range 6).map (· + 5)
       | .zone => List.range 6 ++ (List.range 16).map (· + 8)
       | .condition => []
       | .counter => [4]
     let binding : List Nat := match t with
       | .node => [1, 2]
       | .point => [1, 2, 3, 4]
       | .object => (List.range 10).map (· + 1)
       | .group => [1, 2, 3, 4]
       | _ => []
     let flags : List (TableId × Nat) := [(.device, 7), (.device, 8), (.device, 12), (.node, 0), (.node, 4), (.point, 0),
       (.point, 5), (.object, 0), (.group, 0), (.zone, 0), (.zone, 4)] ++ (List.range 19).map fun k => (.device, k + 23)
     let top : TableId × Nat → Option Nat := fun x =>
       if x = (.node, 2) ∨ x = (.group, 1) then some 2
       else if x = (.zone, 5) then some 3 else if x = (.point, 3) then some 4 else none
     inTable t p = true →
       (access t p = .config ↔ p.field ∈ config) ∧ (access t p = .binding ↔ p.field ∈ binding) ∧
       ((t, p.field) ∈ flags → (codeAccepted t p v = true ↔ v.toNat ≤ 1)) ∧
       (∀ n, top (t, p.field) = some n → (codeAccepted t p v = true ↔ 1 ≤ v.toNat ∧ v.toNat ≤ n)) ∧
       ((t, p.field) ∉ flags → top (t, p.field) = none → codeAccepted t p v = true)) ∧
  (∀ (v : Half) (s : State),
     let put := fun lo hi => max lo (min hi v.toNat)
     let st := fun lo hi => if put lo hi = v.toNat then Status.ok else .clamped
     let index := fun top => if v = 0xFFFF then none else some (min top v.toNat)
     let stIndex := fun top => if v = 0xFFFF ∨ v.toNat ≤ top then Status.ok else .clamped
     let putInt := fun (lo hi x : Int) => max lo (min hi x)
     let stInt := fun (lo hi x : Int) => if putInt lo hi x = x then Status.ok else .clamped
     let number : Int := v.toNat
     (writeValue .device ⟨0, 4⟩ v s =
         ({ s with device := { s.device with mgmtAddress := put 0 126 } }, st 0 126) ∧
       writeValue .device ⟨0, 9⟩ v s =
         ({ s with device := { s.device with replyWindow := put 10 500 } }, st 10 500) ∧
       writeValue .device ⟨0, 10⟩ v s =
         ({ s with device := { s.device with silenceThreshold := put 3 15 } }, st 3 15) ∧
       (v.toNat ≤ 1 → writeValue .device ⟨0, 12⟩ v s =
         ({ s with device := { s.device with supervisionAction := if v = 1 then .revert else .hold } }, .ok))) ∧
     (∀ i < 17, writeValue .counter ⟨i, 4⟩ v s =
       ({ s with counters := modifyAt s.counters i fun c => { c with threshold := v.toNat } }, .ok)) ∧
     (∀ i < 64,
       writeValue .node ⟨i, 3⟩ v s = (s.modNode i fun n => { n with pollPeriod := put 2 600 }, st 2 600) ∧
       (∀ k : Fin 8, writeValue .node ⟨i, k.val + 5⟩ v s =
         (s.modNode i fun n => { n with expectedTag := n.expectedTag.set k v }, .ok)) ∧
       ((s.node i).enable = false →
         writeValue .node ⟨i, 1⟩ v s = (s.modNode i fun n => { n with address := put 1 126 }, st 1 126) ∧
         (1 ≤ v.toNat → v.toNat ≤ 2 → writeValue .node ⟨i, 2⟩ v s =
           (s.modNode i fun n => { n with role := if v = 2 then .actuator else .sensor }, .ok)))) ∧
     (∀ i < 192,
       (v.toNat ≤ 1 → writeValue .point ⟨i, 5⟩ v s = (s.modPoint i fun p => { p with forward := v == 1 }, .ok)) ∧
       ((s.point i).enable = false →
         writeValue .point ⟨i, 1⟩ v s = (s.modPoint i fun p => { p with node := put 0 63 }, st 0 63) ∧
         writeValue .point ⟨i, 2⟩ v s = (s.modPoint i fun p => { p with channel := put 0 7 }, st 0 7) ∧
         (1 ≤ v.toNat → v.toNat ≤ 4 → writeValue .point ⟨i, 3⟩ v s =
           (s.modPoint i fun p => { p with quantity :=
             if v = 1 then .illum else if v = 2 then .uvr else if v = 3 then .temp else .rh }, .ok)) ∧
         writeValue .point ⟨i, 4⟩ v s = (s.modPoint i fun p => { p with zone := put 0 23 }, st 0 23))) ∧
     (∀ i < 256,
       writeValue .object ⟨i, 15⟩ v s = (s.modObject i fun o => { o with assumed := put 0 1000 }, st 0 1000) ∧
       writeValue .object ⟨i, 16⟩ v s = (s.modObject i fun o => { o with uvLimit := put 0 5000 }, st 0 5000) ∧
       writeValue .object ⟨i, 17⟩ v s = (s.modObject i fun o => { o with uvSlope := put 0 20 }, st 0 20) ∧
       writeValue .object ⟨i, 18⟩ v s = (s.modObject i fun o => { o with startDay := put 1 365 }, st 1 365) ∧
       writeValue .object ⟨i, 21⟩ v s = (s.modObject i fun o => { o with overThreshold := put 0 1440 }, st 0 1440) ∧
       ((s.object i).enable = false →
         (∀ k : Fin 6, writeValue .object ⟨i, k.val + 1⟩ v s =
           (s.modObject i fun o => { o with tag := o.tag.set k v }, .ok)) ∧
         writeValue .object ⟨i, 7⟩ v s = (s.modObject i fun o => { o with zone := put 0 23 }, st 0 23) ∧
         writeValue .object ⟨i, 8⟩ v s = (s.modObject i fun o => { o with lightPoint := put 0 191 }, st 0 191) ∧
         writeValue .object ⟨i, 9⟩ v s = (s.modObject i fun o => { o with uvPoint := index 191 }, stIndex 191) ∧
         writeValue .object ⟨i, 10⟩ v s = (s.modObject i fun o => { o with lampGroup := index 47 }, stIndex 47))) ∧
     (∀ i < 48,
       writeValue .group ⟨i, 7⟩ v s = (s.modGroup i fun g => { g with step := put 1 200 }, st 1 200) ∧
       writeValue .group ⟨i, 8⟩ v s = (s.modGroup i fun g => { g with hold := put 0 200 }, st 0 200) ∧
       writeValue .group ⟨i, 9⟩ v s = (s.modGroup i fun g => { g with settle := put 1 255 }, st 1 255) ∧
       ((s.group i).enable = false →
         (1 ≤ v.toNat → v.toNat ≤ 2 → writeValue .group ⟨i, 1⟩ v s =
           (s.modGroup i fun g => { g with kind := if v = 2 then .shade else .lamp }, .ok)) ∧
         writeValue .group ⟨i, 2⟩ v s = (s.modGroup i fun g => { g with zone := put 0 23 }, st 0 23) ∧
         writeValue .group ⟨i, 3⟩ v s = (s.modGroup i fun g => { g with node := put 0 63 }, st 0 63) ∧
         writeValue .group ⟨i, 4⟩ v s = (s.modGroup i fun g => { g with channel := put 0 3 }, st 0 3))) ∧
     (∀ i < 24,
       writeValue .zone ⟨i, 14⟩ v s = (s.modZone i fun z => { z with persistence := put 1 120 }, st 1 120) ∧
       writeValue .zone ⟨i, 15⟩ v s =
         (s.modZone i fun z => { z with rh := { z.rh with spike := putInt 0 10000 number } }, stInt 0 10000 number) ∧
       writeValue .zone ⟨i, 16⟩ v s =
         (s.modZone i fun z => { z with temp := { z.temp with spike := putInt 0 12500 number } }, stInt 0 12500 number) ∧
       writeValue .zone ⟨i, 17⟩ v s =
         (s.modZone i fun z => { z with driftLimit := putInt 100 3000 number }, stInt 100 3000 number) ∧
       writeValue .zone ⟨i, 18⟩ v s =
         (s.modZone i fun z => { z with rh := { z.rh with target := putInt 0 10000 number } }, stInt 0 10000 number) ∧
       writeValue .zone ⟨i, 19⟩ v s =
         (s.modZone i fun z => { z with rh := { z.rh with glide := putInt 0 500 number } }, stInt 0 500 number) ∧
       writeValue .zone ⟨i, 20⟩ v s =
         (s.modZone i fun z => { z with temp := { z.temp with target := putInt (-4000) 8500 v.toInt } },
           stInt (-4000) 8500 v.toInt) ∧
       writeValue .zone ⟨i, 21⟩ v s =
         (s.modZone i fun z => { z with temp := { z.temp with glide := putInt 0 500 number } }, stInt 0 500 number))) ∧
  ∀ (table : TableId) (p : Position) (v : Half) (s : State),
    (inTable table p = false → writeValue table p v s = (s, .range)) ∧
    (inTable table p = true → access table p = .readOnly → writeValue table p v s = (s, .readOnly)) ∧
    (inTable table p = true → access table p ≠ .readOnly → codeAccepted table p v = false →
      writeValue table p v s = (s, .range)) ∧
    (inTable table p = true → access table p = .binding → codeAccepted table p v = true →
      entryEnabled s table p.entry = true → writeValue table p v s = (s, .enabled)) ∧
    (∀ st, (writeValue table p v s).2 = st → (st = .readOnly ∨ st = .range ∨ st = .refError ∨ st = .enabled) →
      (writeValue table p v s).1 = s)

/-- R41, R42, R54, R75, R76, R124, R125: what an enable and a disable of a node, a point, an object and a zone do, whole:
the entry's record, the node's place in the poll due list (R31) and its groups (R111), the conditions that a disable
clears, DOSE_UNKNOWN raised before the ceiling computation, the TRIM (R140) offered before the zone's mode is judged.
R42, R54, R74, R76, R97, R98, R124, R125: the checks of an enable and of a disable, table by table.
ENABLE_WRITE (R162) where nothing changes: the entry stands as the value says already, a check refuses it, or the
value or the entry is out of range.
ENABLE_WRITE (R162, R41, R54, R75, R76, R97, R98, R124, R125) where a check passes: the entry takes the enable, and
no other entry's enable changes. What a group holds then, with its entry withdrawn and its conditions cleared at a
disable, and the evaluation that follows (R97, R98, R102); the grant comes after the whole request (log entry 25), what
counts as an active condition is log entry 20, the order in which they are cleared, and DOSE_UNKNOWN's raise first, is log
entry 33, that the evaluation follows them, and the TRIM comes first, is log entry 36, and that the cap removed at a
disable requests none of its own is log entry 39.
The row stands for a request of one element (log entry 3). -/
def Obligations.EnableWrite : Prop :=
  (∀ (rq : Requester) (entry : Half) (s : State),
     let i := entry.toNat
     let reached := fun t => fieldReached t entry 0 s
     let takes := fun (t : TableId) (v : Half) (after : State) =>
       exec (.enableWrite rq t entry v) s = .next (answered rq .ok (reached t) after)
     (i < 64 →
       let nd := s.node i
       let u := reached .node
       let off := { u.modNode i fun _ =>
           { nd with enable := false, state := .absent, misses := 0, recheckDue := false } with
         pollList := s.pollList.filter fun e => e.node != i }
       (nd.enable = false → enableAllowed s .node i = true →
         ∃ l, placedInPollList i (runningMs s) s.pollList l ∧
           takes .node 1 (nodeBack i { u.modNode i fun _ =>
             { nd with enable := true, state := .hunting, runLength := 0, misses := 0, recheckDue := false } with
             pollList := l })) ∧
       (nd.enable = true → disableAllowed s .node i = true → takes .node 0
         (if nd.state = .silent then clear .nodeSilent i off
          else if nd.state = .displaced then clear .nodeDisplaced i off else off))) ∧
     (i < 192 →
       let p := s.point i
       let off := (reached .point).modPoint i fun _ =>
         { p with enable := false, state := .lost, pending := none, fault := false }
       (p.enable = false → enableAllowed s .point i = true → takes .point 1 ((reached .point).modPoint i fun _ => { p with
         enable := true, value := 0, state := .lost, age := 65535, pending := none, clamps := 0, accepted := false,
         fault := false })) ∧
       (p.enable = true → disableAllowed s .point i = true →
         takes .point 0 (if p.fault then clear .pointFault i off else off))) ∧
     (i < 256 →
       let o := s.object i
       let on := (reached .object).modObject i fun _ => { o with enable := true }
       let off := (reached .object).modObject i fun _ => { o with
         enable := false, exhausted := false, paceShort := false, degraded := false, overMarker := false }
       let c1 := if o.exhausted then clear .doseExhausted i off else off
       let c2 := if o.paceShort then clear .paceShort i c1 else c1
       let c3 := if o.degraded then clear .sourceDegraded i c2 else c2
       let c4 := if o.overMarker then clear .overCeiling i c3 else c3
       let c5 := if o.unknown then clear .doseUnknown i c4 else c4
       (o.enable = false → enableAllowed s .object i = true →
         takes .object 1 (ceilingCore i (if o.unknown then raise .doseUnknown i o.zone on else on))) ∧
       (o.enable = true → takes .object 0 c5)) ∧
     (i < 24 →
       let zn := s.zone i
       let blank := fun c : Climate => { c with value := none, band := .inBand, timer := 0 }
       let x := { zn with
         enable := true, rh := clampSetpoint (blank zn.rh), temp := clampSetpoint (blank zn.temp), hourSum := 0,
         hourCount := 0, ring := [], span := 0, blind := false, drift := false }
       let on := (reached .zone).modZone i fun _ => x
       let off := (reached .zone).modZone i fun _ => { zn with
         enable := false, rh := blank zn.rh, temp := blank zn.temp, blind := false, drift := false }
       let excursion := fun c : Climate =>
         c.band = .high ∨ c.band = .low ∨ c.band = .returningHigh ∨ c.band = .returningLow
       let c1 := if excursion zn.rh then clear .rhExcursion i off else off
       let c2 := if excursion zn.temp then clear .tExcursion i c1 else c1
       let c3 := if zn.drift then clear .rhDrift i c2 else c2
       let c4 := if zn.blind then clear .zoneBlind i c3 else c3
       (zn.enable = false → enableAllowed s .zone i = true → takes .zone 1 (judgeModeCore i
         (if zn.airAddress = 0 then on else offerOrigin
           ⟨byteOfNat zn.airAddress, kindTrim,
             byteOfNat zn.airChannel :: (octetsOf (halfOfInt x.rh.setpoint) ++ octetsOf (halfOfInt x.temp.setpoint)),
             .trim i⟩ on))) ∧
       (zn.enable = true → disableAllowed s .zone i = true → takes .zone 0 c4))) ∧
  (∀ (s : State) (i : Nat),
     (enableAllowed s .node i = true ↔ (s.node i).address ≠ s.device.ownAddress ∧
       ∀ m < 64, m ≠ i → (s.node m).enable = true → (s.node m).address ≠ (s.node i).address) ∧
     (let p := s.point i
      enableAllowed s .point i = true ↔
        (s.node p.node).enable = true ∧ (s.node p.node).role = .sensor ∧ (s.zone p.zone).enable = true ∧
        ∀ j < 192, j ≠ i → (s.point j).enable = true → (s.point j).node = p.node → (s.point j).channel ≠ p.channel) ∧
     (let o := s.object i
      let serves := fun j q => (s.point j).enable = true ∧ (s.point j).quantity = q ∧ (s.point j).zone = o.zone
      enableAllowed s .object i = true ↔
        (s.zone o.zone).enable = true ∧ serves o.lightPoint .illum ∧ (∀ u, o.uvPoint = some u → serves u .uvr) ∧
        ∀ g, o.lampGroup = some g →
          (s.group g).enable = true ∧ (s.group g).kind = .lamp ∧ (s.group g).zone = o.zone) ∧
     (let gr := s.group i
      enableAllowed s .group i = true ↔
        (s.zone gr.zone).enable = true ∧ (s.node gr.node).enable = true ∧ (s.node gr.node).role = .actuator ∧
        ∀ h < 48, h ≠ i → (s.group h).enable = true → (s.group h).node = gr.node →
          (s.group h).channel ≠ gr.channel) ∧
     (enableAllowed s .zone i = true ↔ (s.zone i).shade = none) ∧
     (disableAllowed s .node i = true ↔ (∀ j < 192, (s.point j).enable = true → (s.point j).node ≠ i) ∧
       ∀ g < 48, (s.group g).enable = true → (s.group g).node ≠ i) ∧
     (disableAllowed s .point i = true ↔
       ∀ j < 256, (s.object j).enable = true → (s.object j).lightPoint ≠ i ∧ (s.object j).uvPoint ≠ some i) ∧
     disableAllowed s .object i = true ∧
     (disableAllowed s .group i = true ↔ (∀ j < 256, (s.object j).enable = true → (s.object j).lampGroup ≠ some i) ∧
       ∀ z < 24, (s.zone z).enable = true → (s.zone z).shade ≠ some i) ∧
     (disableAllowed s .zone i = true ↔ (∀ j < 192, (s.point j).enable = true → (s.point j).zone ≠ i) ∧
       (∀ j < 256, (s.object j).enable = true → (s.object j).zone ≠ i) ∧
       ∀ g < 48, (s.group g).enable = true → (s.group g).zone ≠ i)) ∧
  (∀ (rq : Requester) (table : TableId) (entry value : Half) (s : State), hasEnable table = true →
     let u := fieldReached table entry 0 s
     let i := entry.toNat
     let run := exec (.enableWrite rq table entry value) s
     (entryCount table ≤ i ∨ 1 < value.toNat → run = .next (answer rq .range u)) ∧
     (i < entryCount table → value = 1 → entryEnabled s table i = true → run = .next (answer rq .ok u)) ∧
     (i < entryCount table → value = 0 → entryEnabled s table i = false → run = .next (answer rq .ok u)) ∧
     (i < entryCount table → value = 1 → entryEnabled s table i = false → enableAllowed s table i = false →
       run = .next (answer rq .refError u)) ∧
     (i < entryCount table → value = 0 → entryEnabled s table i = true → disableAllowed s table i = false →
       run = .next (answer rq .refError u))) ∧
  (∀ (rq : Requester) (table : TableId) (entry value : Half) (s : State), hasEnable table = true →
     entry.toNat < entryCount table →
     (value = 1 ∧ entryEnabled s table entry.toNat = false ∧ enableAllowed s table entry.toNat = true ∨
       value = 0 ∧ entryEnabled s table entry.toNat = true ∧ disableAllowed s table entry.toNat = true) →
     ∃ t, exec (.enableWrite rq table entry value) s = .next t ∧
       (∀ table' j, entryEnabled t table' j =
         if table' = table ∧ j = entry.toNat then value == 1 else entryEnabled s table' j) ∧
       (table = .node → value = 1 → (t.node entry.toNat).state = .hunting ∧ (t.node entry.toNat).runLength = 0 ∧
         (t.node entry.toNat).misses = 0) ∧
       (table = .node → value = 0 → (t.node entry.toNat).state = .absent ∧
         ∀ e ∈ t.pollList, e.node ≠ entry.toNat) ∧
       (table = .point → (t.point entry.toNat).state = .lost ∧ (t.point entry.toNat).pending = none) ∧
       (table = .object → (t.object entry.toNat).dose = (s.object entry.toNat).dose ∧
         (t.object entry.toNat).remaining = (s.object entry.toNat).remaining) ∧
       (table = .zone → (t.zone entry.toNat).rh.value = none ∧ (t.zone entry.toNat).temp.value = none ∧
         (t.zone entry.toNat).rh.band = .inBand ∧ (t.zone entry.toNat).temp.band = .inBand) ∧
       t.device = s.device ∧ t.calendar = s.calendar ∧ t.store = s.store) ∧
  (∀ (rq : Requester) (entry : Half) (s : State), entry.toNat < 48 →
     let g := entry.toNat
     let gr := s.group g
     let u := fieldReached .group entry 0 s
     (gr.enable = false → enableAllowed s .group g = true →
       exec (.enableWrite rq .group entry 1) s = .next (answered rq .ok u (requestCore gr.zone
         (u.modGroup g fun x => { x with
           enable := true, level := x.cleaning, cap := none, phase := .idle, misses := 0, resend := true,
           unavailable := false, blind := false, mismatch := false })))) ∧
     (gr.enable = true → disableAllowed s .group g = true →
       let rest := { u with galleryOrigin := u.galleryOrigin.filter fun h => h != g }.modGroup g fun x => { x with
         enable := false, cap := none, phase := .idle, misses := 0, resend := true,
         unavailable := false, blind := false, mismatch := false }
       let c1 := if gr.blind then clear .groupBlind g rest else rest
       let c2 := if gr.unavailable ∨ 3 ≤ gr.misses then clear .actuatorSilent g c1 else c1
       let c3 := if gr.mismatch then clear .levelMismatch g c2 else c2
       let atRest := ∀ h < 48, h ≠ g → (s.group h).enable = true → (s.group h).zone = gr.zone → (s.group h).phase = .idle
       let run := exec (.enableWrite rq .group entry 0) s
       ((s.zone gr.zone).evalPending = true → atRest → run = .next (answered rq .ok u
         (evaluate gr.zone (c3.modZone gr.zone fun zn => { zn with evalPending := false })))) ∧
       ((s.zone gr.zone).evalPending = false ∨ ¬atRest → run = .next (answered rq .ok u c3))))

/-! ### Service requests (09): the settings -/

/-- PORT_ENABLE_WRITE (R18, R20, R39, R162). Of the plant port's frames, those of each queue count in the drop counter of
the queue, with the frame in flight; the reply to this very request is dropped at its offer, and the reply of a RESTART
that is removed is gone (R167). Of the gallery port's, a FORWARD in flight counts with the frames of P2G, and a COMMAND in
flight is cancelled: its group is IDLE, to be sent again, and its zone's pending evaluation runs where the zone has come to
rest (R39, R114, R102). At an enable every node on the poll due list is due at that moment (R31).
The row stands for a request of one element (log entry 3), a write of the present value has no effect (log entry 19), and
the frame in flight ends at the write (log entry 23). -/
def Obligations.PortEnableWrite : Prop :=
  (∀ (rq : Requester) (s : State), s.device.galleryEnable = true →
     let u := fieldReached .device 0 7 s
     let off := countMany .p2gDrops s.p2g.length { u with
       device := { s.device with galleryEnable := false }, galleryAsm := .hunt, p2g := [], line := .off }
     exec (.portEnableWrite rq .gallery 0) s = .next (answered rq .ok u (match s.line with
       | .busy ⟨.command g _, _, _, _, _, _⟩ => commandCancelled g off
       | .busy ⟨.forward, _, _, _, .sending _, _⟩ => count .p2gDrops off
       | _ => off))) ∧
  (∀ (g : Nat) (s : State),
    let gr := s.group g
    let idle := s.modGroup g fun _ => { gr with phase := .idle, resend := true }
    let atRest := ∀ h < 48, h ≠ g → (s.group h).enable = true → (s.group h).zone = gr.zone → (s.group h).phase = .idle
    (gr.enable = false ∨ gr.phase ≠ .sent → commandCancelled g s = s) ∧
    (g < 48 → gr.enable = true → gr.phase = .sent →
      ((s.zone gr.zone).evalPending = false ∨ ¬atRest → commandCancelled g s = idle) ∧
      ((s.zone gr.zone).evalPending = true → atRest → commandCancelled g s =
        evaluate gr.zone (idle.modZone gr.zone fun zn => { zn with evalPending := false })))) ∧
  (∀ (rq : Requester) (s : State), s.device.galleryEnable = false →
     let u := fieldReached .device 0 7 s
     let on := { u with device := { s.device with galleryEnable := true }, galleryAsm := .hunt }
     exec (.portEnableWrite rq .gallery 1) s = .next (answered rq .ok u
       (if s.loading then on
        else { on with
          line := .free
          pollList :=
            (indicesWhere 64 fun n => s.pollList.any fun e => e.node == n).map fun n => ⟨n, runningMs s⟩ }))) ∧
  (∀ (rq : Requester) (s : State), s.device.plantEnable = true →
     let u := fieldReached .device 0 8 s
     let off := { u with
       device := { s.device with plantEnable := false }, plantAsm := .hunt, g2p := [], plantOrigin := [], plantTx := none }
     let cut := match u.plantTx with
       | some ⟨_, .g2p, _, _⟩ => count .g2pDrops off
       | some ⟨_, .origin, _, _⟩ => count .plantOriginDrops off
       | none => off
     let counted := countMany .plantOriginDrops u.plantOrigin.length (countMany .g2pDrops u.g2p.length cut)
     let removed := (∃ o ∈ u.plantOrigin, o.tag = .reply true) ∨ ∃ x, u.plantTx = some x ∧ x.ofRestart = true
     (¬removed ∨ s.procedure.restart ≠ .awaitingReply →
       exec (.portEnableWrite rq .plant 0) s = .next (answer rq .ok counted)) ∧
     (removed → s.procedure.restart = .awaitingReply →
       exec (.portEnableWrite rq .plant 0) s = .next (answer rq .ok { counted with
         handed := s.handed ++ [.restartSaveStart], procedure := { s.procedure with restart := .replyGone } }))) ∧
  ∀ (rq : Requester) (value : Half) (s : State),
    (∀ p, 1 < value.toNat → exec (.portEnableWrite rq p value) s =
      .next (answer rq .range (fieldReached .device 0 (portEnableField p) s))) ∧
    (value = (if s.device.galleryEnable then 1 else 0) → exec (.portEnableWrite rq .gallery value) s =
      .next (answer rq .ok (fieldReached .device 0 7 s))) ∧
    (value = (if s.device.plantEnable then 1 else 0) → exec (.portEnableWrite rq .plant value) s =
      .next (answer rq .ok (fieldReached .device 0 8 s))) ∧
    (value = 0 → s.device.galleryEnable = true → ∃ t, exec (.portEnableWrite rq .gallery value) s = .next t ∧
      t.device = { s.device with galleryEnable := false } ∧ t.line = .off ∧ t.p2g = [] ∧ t.galleryAsm = .hunt ∧
      t.pollList = s.pollList ∧ t.pointer = s.pointer ∧ t.gallerySeq = s.gallerySeq ∧ t.nodes = s.nodes ∧
      t.counters[6].current = min 65535 (s.counters[6].current + s.p2g.length +
        (match s.line with | .busy ⟨.forward, _, _, _, .sending _, _⟩ => 1 | _ => 0)) ∧
      t.counters[2] = s.counters[2] ∧ t.counters[4] = s.counters[4]) ∧
    (value = 1 → s.device.galleryEnable = false → ∃ t, exec (.portEnableWrite rq .gallery value) s = .next t ∧
      t.device = { s.device with galleryEnable := true } ∧
      (s.loading = false → t.line ≠ .off ∧ t.pollList =
        (indicesWhere 64 fun n => s.pollList.any fun e => e.node == n).map fun n => ⟨n, runningMs s⟩) ∧
      (s.loading = true → t.line = s.line ∧ t.pollList = s.pollList) ∧ t.nodes = s.nodes) ∧
    (value = 0 → s.device.plantEnable = true → ∃ t, exec (.portEnableWrite rq .plant value) s = .next t ∧
      t.device = { s.device with plantEnable := false } ∧ t.g2p = [] ∧ t.plantOrigin = [] ∧ t.plantTx = none ∧
      t.plantAsm = .hunt ∧ t.turn = (supervisionRestart s).turn ∧ t.plantSeq = (supervisionRestart s).plantSeq ∧
      t.nodes = s.nodes ∧ t.counters[10] = s.counters[10] ∧
      (let u := supervisionRestart s
       t.counters[11].current = min 65535 (u.counters[11].current + u.g2p.length +
         (match u.plantTx with | some ⟨_, .g2p, _, _⟩ => 1 | _ => 0)) ∧
       t.counters[12].current = min 65535 (u.counters[12].current + u.plantOrigin.length +
         (match u.plantTx with | some ⟨_, .origin, _, _⟩ => 1 | _ => 0) + 1))) ∧
    (value = 1 → s.device.plantEnable = false → exec (.portEnableWrite rq .plant value) s =
      .next (answer rq .ok { fieldReached .device 0 8 s with
        device := { s.device with plantEnable := true }, plantAsm := .hunt }))

/-- RATE_WRITE (R21, R163): the nearer rate is stored, and a frame in assembly is abandoned with nothing counted.
OWN_ADDRESS_WRITE (R163).
SUPERVISION_WINDOW_WRITE (R171, R163): the window is stored, and the timer starts from it or stops; MGMT_LOST is
cleared where the restart that the request makes first (R156, R170) has left the part UNATTENDED.
MASK_WRITE (R148, R152, R162).
The row stands for a request of one element (log entry 3). -/
def Obligations.DeviceSettingWrites : Prop :=
  (∀ (rq : Requester) (value : Half) (s : State),
     exec (.rateWrite rq .gallery value) s =
       .next (answer rq (if value = 192 ∨ value = 384 then .ok else .clamped)
         { fieldReached .device 0 5 s with
           device := { s.device with galleryRate := if value.toNat < 288 then .slow else .fast }, galleryAsm := .hunt }) ∧
     exec (.rateWrite rq .plant value) s =
       .next (answer rq (if value = 576 ∨ value = 1152 then .ok else .clamped)
         { fieldReached .device 0 6 s with
           device := { s.device with plantRate := if value.toNat < 864 then .slow else .fast }, plantAsm := .hunt })) ∧
  (∀ (rq : Requester) (value : Half) (s : State),
     let a := max 1 (min 126 value.toNat)
     ((∃ n < 64, (s.node n).enable = true ∧ (s.node n).address = a) →
       exec (.ownAddressWrite rq value) s = .next (answer rq .refError (fieldReached .device 0 3 s))) ∧
     ((∀ n < 64, (s.node n).enable = true → (s.node n).address ≠ a) →
       exec (.ownAddressWrite rq value) s = .next (answer rq (if a = value.toNat then .ok else .clamped)
         { fieldReached .device 0 3 s with device := { s.device with ownAddress := a } }))) ∧
  (∀ (rq : Requester) (value : Half) (s : State),
     let w := if value = 0 then 0 else max 10 (min 3600 value.toNat)
     (let u := fieldReached .device 0 11 s
      let stored := { u with device := { s.device with supervisionWindow := w } }
      let back := if u.supervision.attended then stored
        else clear .mgmtLost 0 { stored with supervision := { u.supervision with attended := true } }
      exec (.supervisionWindowWrite rq value) s = .next (answer rq (if w = value.toNat then .ok else .clamped)
        { back with supervision := ⟨true, if w = 0 then none else some (s.now + w * unitsPerSecond)⟩ })) ∧
     ∃ t, exec (.supervisionWindowWrite rq value) s = .next t ∧
       t.device = { s.device with supervisionWindow := w } ∧
       t.supervision = ⟨true, if w = 0 then none else some (s.now + w * unitsPerSecond)⟩ ∧
       t.nodes = s.nodes ∧ t.points = s.points ∧ t.objects = s.objects ∧ t.groups = s.groups ∧ t.zones = s.zones ∧
       t.calendar = s.calendar ∧ t.line = s.line ∧ t.store = s.store) ∧
  (∀ (rq : Requester) (k : ConditionKind) (value : Half) (s : State),
     let field := 22 + conditionCode k
     let u := fieldReached .device 0 field s
     (1 < value.toNat → exec (.maskWrite rq k value) s = .next (answer rq .range u)) ∧
     (value.toNat ≤ 1 → ∃ masks, exec (.maskWrite rq k value) s = .next (answer rq .ok { u with
         device := { s.device with masks := masks }
         latches :=
           if value = 0 ∧ ∃ c ∈ u.conditions, c.state = .active ∧ c.kind = k then { u.latches with clear := false }
           else u.latches }) ∧
       ∀ j < 19, masks[j]? = if j + 1 = conditionCode k then some (value == 1) else s.device.masks[j]?))

/-! ### Service requests (09): the tables -/

/-- SHADE_GROUP_WRITE (R100, R102): a stored shade group requests an evaluation of the zone; the grant comes after the
whole request (R156, log entry 25).
ZONE_MODE_WRITE (R101, R126): the field is stored, and the mode of an enabled zone is judged at once, with the evaluation
that a change requests (ClockIsCheckedAndAdopted says what the judgement does).
The row stands for a request of one element (log entry 3). -/
def Obligations.ZoneLightWrites : Prop :=
  (∀ (rq : Requester) (zone value : Half) (s : State),
     let u := fieldReached .zone zone 1 s
     let z := zone.toNat
     let g := min 47 value.toNat
     let serves := (s.group g).enable = true ∧ (s.group g).kind = .shade ∧ (s.group g).zone = z
     let stored := fun st shade => answered rq st u (requestCore z (u.modZone z fun zn => { zn with shade := shade }))
     (24 ≤ z → exec (.shadeGroupWrite rq zone value) s = .next (answer rq .range u)) ∧
     (z < 24 → value = 0xFFFF → exec (.shadeGroupWrite rq zone value) s = .next (stored .ok none)) ∧
     (z < 24 → value ≠ 0xFFFF → ¬serves → exec (.shadeGroupWrite rq zone value) s = .next (answer rq .refError u)) ∧
     (z < 24 → value ≠ 0xFFFF → serves → exec (.shadeGroupWrite rq zone value) s =
       .next (stored (if value.toNat ≤ 47 then .ok else .clamped) (some g)))) ∧
  (∀ (rq : Requester) (zone : Half) (f : ZoneModeField) (value : Half) (s : State),
     let u := fieldReached .zone zone (zoneModeFieldNumber f) s
     let z := zone.toNat
     let codes := (f = .modeSource → value.toNat ≤ 1) ∧ (f = .forcedMode → 1 ≤ value.toNat ∧ value.toNat ≤ 3)
     let old := s.zone z
     let new := match f with
       | .openFrom => { old with openFrom := min 1439 value.toNat }
       | .openTo => { old with openTo := min 1439 value.toNat }
       | .modeSource => { old with modeSource := if value = 1 then .forced else .auto }
       | .forcedMode => { old with forcedMode := if value = 1 then .opened else if value = 2 then .closed else .dark }
     (24 ≤ z ∨ ¬codes → exec (.zoneModeWrite rq zone f value) s = .next (answer rq .range u)) ∧
     let st := if (f = .openFrom ∨ f = .openTo) ∧ 1439 < value.toNat then Status.clamped else .ok
     (z < 24 → codes → exec (.zoneModeWrite rq zone f value) s =
       .next (answered rq st u (judgeModeCore z (u.modZone z fun _ => new)))) ∧
     (z < 24 → codes → ∃ t, exec (.zoneModeWrite rq zone f value) s = .next t ∧
       zoneSettings (t.zone z) =
         zoneSettings { new with mode := if old.enable then judgedMode s.calendar new else old.mode } ∧
       (∀ j, j ≠ z → zoneSettings (t.zone j) = zoneSettings (s.zone j)) ∧
       t.groups.map groupSettings = s.groups.map groupSettings ∧
       t.nodes = s.nodes ∧ t.points = s.points ∧ t.objects = s.objects ∧ t.device = s.device ∧
       t.calendar = s.calendar ∧ t.store = s.store))

/-- TAG_CHECK_WRITE (R52). A node that becomes ONLINE so has its points judged (R55).
The row stands for a request of one element (log entry 3). -/
def Obligations.TagCheckWrite : Prop :=
  ∀ (rq : Requester) (node value : Half) (s : State),
    let u := fieldReached .node node 4 s
    let n := node.toNat
    let nd := s.node n
    (64 ≤ n ∨ 1 < value.toNat → exec (.tagCheckWrite rq node value) s = .next (answer rq .range u)) ∧
    (n < 64 → value = 1 → exec (.tagCheckWrite rq node value) s =
      .next (answer rq .ok (u.modNode n fun nd => { nd with tagCheck := true }))) ∧
    (n < 64 → value = 0 → (nd.tagCheck = false ∨ nd.state ≠ .tagcheck ∧ nd.state ≠ .online) →
      exec (.tagCheckWrite rq node value) s =
        .next (answer rq .ok (u.modNode n fun nd => { nd with tagCheck := false }))) ∧
    (n < 64 → value = 0 → nd.tagCheck = true → nd.state = .online → exec (.tagCheckWrite rq node value) s =
      .next (answer rq .ok (u.modNode n fun nd => { nd with tagCheck := false, recheckDue := false }))) ∧
    (n < 64 → value = 0 → nd.tagCheck = true → nd.state = .tagcheck →
      let x := { nd with tagCheck := false, state := .online }
      exec (.tagCheckWrite rq node value) s = .next (answer rq .ok { u.modNode n fun _ => x with
        points := s.points.map fun p => if p.enable && p.node == n then judgedPoint x p else p })) ∧
    (n < 64 → value = 0 → nd.tagCheck = true → nd.state = .tagcheck →
      ∃ t, exec (.tagCheckWrite rq node value) s = .next t ∧
        t.node n = { nd with tagCheck := false, state := .online } ∧ (∀ k, k ≠ n → t.node k = s.node k) ∧
        t.zones = s.zones ∧ t.groups = s.groups ∧ t.objects = s.objects ∧ t.device = s.device)

/-- BAND_WRITE (R126, R127, R140): the field is stored, and the setpoint is brought into the narrowed band at once; where
that moves the setpoint of an enabled zone with an air handler, its TRIM is offered.
AIR_HANDLER_WRITE (R126, R140): the field is stored, and an enabled zone with an air handler offers its TRIM.
The row stands for a request of one element (log entry 3). -/
def Obligations.ZoneClimateWrites : Prop :=
  (∀ (rq : Requester) (zone : Half) (f : BandField) (value : Half) (s : State), zone.toNat < 24 →
     let z := zone.toNat
     let zn := s.zone z
     let x : Int := match f with
       | .tLo => value.toInt
       | .tHi => value.toInt
       | _ => value.toNat
     let stored : Int := match f with
       | .rhLo => max 0 (min zn.rh.hi x)
       | .rhHi => max zn.rh.lo (min 10000 x)
       | .tLo => max (-4000) (min zn.temp.hi x)
       | .tHi => max zn.temp.lo (min 8500 x)
       | _ => max 0 (min 1000 x)
     let rh' := match f with
       | .rhLo => clampSetpoint { zn.rh with lo := stored }
       | .rhHi => clampSetpoint { zn.rh with hi := stored }
       | .rhHysteresis => clampSetpoint { zn.rh with hysteresis := stored }
       | _ => zn.rh
     let temp' := match f with
       | .tLo => clampSetpoint { zn.temp with lo := stored }
       | .tHi => clampSetpoint { zn.temp with hi := stored }
       | .tHysteresis => clampSetpoint { zn.temp with hysteresis := stored }
       | _ => zn.temp
     let isRh := f = .rhLo ∨ f = .rhHi ∨ f = .rhHysteresis
     let st := if stored = x then Status.ok else .clamped
     let moved := rh'.setpoint ≠ zn.rh.setpoint ∨ temp'.setpoint ≠ zn.temp.setpoint
     let w := (fieldReached .zone zone (bandFieldNumber f) s).modZone z fun zn => { zn with rh := rh', temp := temp' }
     ∃ t, exec (.bandWrite rq zone f value) s = .next t ∧
       (moved → zn.enable = true → zn.airAddress ≠ 0 → t = answer rq st (offerOrigin
         ⟨byteOfNat zn.airAddress, kindTrim,
           byteOfNat zn.airChannel :: (octetsOf (halfOfInt rh'.setpoint) ++ octetsOf (halfOfInt temp'.setpoint)),
           .trim z⟩ w)) ∧
       (¬moved ∨ zn.enable = false ∨ zn.airAddress = 0 → t = answer rq st w) ∧
       t.zone z = { zn with rh := rh', temp := temp' } ∧
       (isRh → setpointInBand (t.zone z).rh) ∧ (¬isRh → setpointInBand (t.zone z).temp) ∧
       (∀ j, j ≠ z → t.zone j = s.zone j) ∧ t.nodes = s.nodes ∧ t.points = s.points ∧ t.objects = s.objects ∧
       t.groups = s.groups ∧ t.device = s.device ∧ t.calendar = s.calendar ∧ t.store = s.store) ∧
  (∀ (rq : Requester) (zone : Half) (f : BandField) (value : Half) (s : State), 24 ≤ zone.toNat →
     exec (.bandWrite rq zone f value) s = .next (answer rq .range (fieldReached .zone zone (bandFieldNumber f) s))) ∧
  (∀ (rq : Requester) (zone : Half) (f : AirHandlerField) (value : Half) (s : State),
     let z := zone.toNat
     let top := match f with
       | .address => 126
       | .channel => 255
     let st := if value.toNat ≤ top then Status.ok else .clamped
     let u := fieldReached .zone zone (airHandlerFieldNumber f) s
     let w := u.modZone z fun zn => match f with
       | .address => { zn with airAddress := min 126 value.toNat }
       | .channel => { zn with airChannel := min 255 value.toNat }
     (24 ≤ z → exec (.airHandlerWrite rq zone f value) s = .next (answer rq .range u)) ∧
     (z < 24 → (w.zone z).enable = true → (w.zone z).airAddress ≠ 0 →
       exec (.airHandlerWrite rq zone f value) s = .next (answer rq st (offerOrigin
         ⟨byteOfNat (w.zone z).airAddress, kindTrim,
           byteOfNat (w.zone z).airChannel ::
             (octetsOf (halfOfInt (w.zone z).rh.setpoint) ++ octetsOf (halfOfInt (w.zone z).temp.setpoint)),
           .trim z⟩ w))) ∧
     (z < 24 → ((w.zone z).enable = false ∨ (w.zone z).airAddress = 0) →
       exec (.airHandlerWrite rq zone f value) s = .next (answer rq st w)))

/-- CEILING_TERMS_WRITE and OPEN_MINUTES_WRITE (R78, R79, R89): the terms are stored, Cfloor stays at or below Cmax,
and the ceiling of an enabled object is computed again. A 32-bit term is stored half by half, each clamped (R159, log
entry 3). The rows stand for requests of one element (log entry 3). -/
def Obligations.CeilingTermWrites : Prop :=
  (∀ (rq : Requester) (object : Half) (s : State),
     let at' := fun f : Byte => some (Cursor.mk object f)
     let halves := fun v : BitVec 32 => [v.extractLsb' 16 16, v.extractLsb' 0 16]
     (∀ v, exec (.ceilingTermsWrite rq object (.cmax v)) s = exec (.write rq .object (at' 13) .stay [v]) s) ∧
     (∀ v, exec (.ceilingTermsWrite rq object (.cfloor v)) s = exec (.write rq .object (at' 14) .stay [v]) s) ∧
     (∀ v, exec (.ceilingTermsWrite rq object (.budget v)) s = exec (.write rq .object (at' 11) .field (halves v)) s) ∧
     (∀ v, exec (.openMinutesWrite rq object (.remaining v)) s = exec (.write rq .object (at' 22) .field (halves v)) s) ∧
     (∀ v, exec (.openMinutesWrite rq object (.planned v)) s = exec (.write rq .object (at' 19) .field (halves v)) s)) ∧
  (∀ (i : Nat) (v : Half) (s : State), i < 256 →
     let o := s.object i
     let n := v.toNat
     let high := fun old => n * 65536 + old % 65536
     let low := fun old => old / 65536 * 65536 + n
     let st := fun asked stored : Nat => if stored = asked then Status.ok else .clamped
     let takes := fun (f : Nat) (x : Obj) (st : Status) =>
       writeValue .object ⟨i, f⟩ v s = (ceilingCore i (s.modObject i fun _ => x), st)
     let cmax := max (max 10 o.cfloor) (min 1000 n)
     let cfloor := min o.cmax n
     let budget := fun a => max 1 (min 4000000000 a)
     let planned := fun a => min 527040 a
     takes 13 { o with cmax := cmax } (st n cmax) ∧
     takes 14 { o with cfloor := cfloor } (st n cfloor) ∧
     takes 11 { o with budget := budget (high o.budget) } (st (high o.budget) (budget (high o.budget))) ∧
     takes 12 { o with budget := budget (low o.budget) } (st (low o.budget) (budget (low o.budget))) ∧
     takes 22 { o with remaining := min o.planned (high o.remaining) }
       (st (high o.remaining) (min o.planned (high o.remaining))) ∧
     takes 23 { o with remaining := min o.planned (low o.remaining) }
       (st (low o.remaining) (min o.planned (low o.remaining))) ∧
     (∀ f a, (f = 19 ∧ a = high o.planned ∨ f = 20 ∧ a = low o.planned) →
       let x := { o with planned := planned a, remaining := min o.remaining (planned a) }
       (planned a < o.remaining → takes f x (st a (planned a))) ∧
       (o.remaining ≤ planned a →
         writeValue .object ⟨i, f⟩ v s = (s.modObject i fun _ => x, st a (planned a))))) ∧
  ∀ (rq : Requester) (object : Half) (s : State), object.toNat < 256 →
    let i := object.toNat
    let o := s.object i
    let computed := fun (t : State) => o.enable = true → (t.object i).ceiling = (pacedCeiling (t.object i)).ceiling ∧
      (t.object i).exhausted = (pacedCeiling (t.object i)).exhausted ∧
      (t.object i).paceShort = (pacedCeiling (t.object i)).paceShort
    let frame := fun (t : State) => (t.object i).dose = o.dose ∧ (t.object i).enable = o.enable ∧
      (o.enable = false → (t.object i).ceiling = o.ceiling) ∧
      (∀ j, j ≠ i → t.object j = s.object j) ∧ t.nodes = s.nodes ∧ t.points = s.points ∧ t.device = s.device ∧
      t.calendar = s.calendar ∧ t.store = s.store
    (∀ v : Half, ∃ t, exec (.ceilingTermsWrite rq object (.cmax v)) s = .next t ∧
      (t.object i).cmax = max (max 10 o.cfloor) (min 1000 v.toNat) ∧ (t.object i).cfloor = o.cfloor ∧
      (t.object i).budget = o.budget ∧ (t.object i).remaining = o.remaining ∧ computed t ∧ frame t) ∧
    (∀ v : Half, ∃ t, exec (.ceilingTermsWrite rq object (.cfloor v)) s = .next t ∧
      (t.object i).cfloor = min o.cmax v.toNat ∧ (t.object i).cmax = o.cmax ∧
      (t.object i).budget = o.budget ∧ (t.object i).remaining = o.remaining ∧ computed t ∧ frame t) ∧
    (∀ v : BitVec 32,
      let first := max 1 (min 4000000000 (v.toNat / 65536 * 65536 + o.budget % 65536))
      ∃ t, exec (.ceilingTermsWrite rq object (.budget v)) s = .next t ∧
        (t.object i).budget = max 1 (min 4000000000 (first / 65536 * 65536 + v.toNat % 65536)) ∧
        (t.object i).cmax = o.cmax ∧ (t.object i).cfloor = o.cfloor ∧
        (t.object i).remaining = o.remaining ∧ computed t ∧ frame t) ∧
    (∀ v : BitVec 32,
      let first := min o.planned (v.toNat / 65536 * 65536 + o.remaining % 65536)
      ∃ t, exec (.openMinutesWrite rq object (.remaining v)) s = .next t ∧
        (t.object i).remaining = min o.planned (first / 65536 * 65536 + v.toNat % 65536) ∧
        (t.object i).planned = o.planned ∧ computed t ∧ frame t) ∧
    (∀ v : BitVec 32,
      let first := min 527040 (v.toNat / 65536 * 65536 + o.planned % 65536)
      ∃ t, exec (.openMinutesWrite rq object (.planned v)) s = .next t ∧
        (t.object i).planned = min 527040 (first / 65536 * 65536 + v.toNat % 65536) ∧
        (t.object i).remaining = min (min o.remaining first) (t.object i).planned ∧
        ((t.object i).remaining ≠ o.remaining → computed t) ∧ frame t)

/-- GROUP_LIMIT_WRITE (R99, R102): the field is stored, L_lo and L_hi judged against each other, and the write on an
enabled group requests an evaluation of its zone; the grant comes after the whole request (R156, log entry 25).
The row stands for a request of one element (log entry 3). -/
def Obligations.GroupLimitWrite : Prop :=
  ∀ (rq : Requester) (group : Half) (f : GroupLimitField) (value : Half) (s : State),
    let g := group.toNat
    let u := fieldReached .group group (groupLimitFieldNumber f) s
    let gr := s.group g
    let v := match f with
      | .lo => min gr.hi value.toNat
      | .hi => max gr.lo (min 1000 value.toNat)
      | .cleaning => min 1000 value.toNat
    let w := u.modGroup g fun gr => match f with
      | .lo => { gr with lo := v }
      | .hi => { gr with hi := v }
      | .cleaning => { gr with cleaning := v }
    let st := if v = value.toNat then Status.ok else .clamped
    (48 ≤ g → exec (.groupLimitWrite rq group f value) s = .next (answer rq .range u)) ∧
    (g < 48 → gr.enable = false → exec (.groupLimitWrite rq group f value) s = .next (answer rq st w)) ∧
    (g < 48 → gr.enable = true → exec (.groupLimitWrite rq group f value) s =
      .next (answered rq st u (requestCore gr.zone w)))

/-! ### Procedures (09) -/

/-- R165: a CALL is refused with BUSY while a procedure runs, then with RANGE, then by its own checks, and a refused
CALL changes nothing but that it is answered.
DOSE_SET, REHUNT, CAP_CLEAR and CLEAR_LATCHED accepted (R95, R53, R122, R146): each completes at once, with the
procedure state DONE. DOSE_SET clears DOSE_UNKNOWN, where the object's own flag says that it stands (log entry 20), and
computes the ceiling; REHUNT makes the points of an ONLINE node LOST (R56) and clears NODE_SILENT, or NODE_DISPLACED with
the node's groups released in its block's order (R111, log entry 36). The grant that a CAP_CLEAR asks for comes after the
whole request (R156, log entry 25).
The row stands for a request of one element (log entry 3). -/
def Obligations.ProcedureCalls : Prop :=
  (∀ (rq : Requester) (s : State), s.procedure.state ≠ .running →
     let done : Procedure := { s.procedure with state := .done, result := 0 }
     let u := supervisionRestart s
     let completes := fun after : State => Host.Outcome.next (answered rq .ok u { after with procedure := done })
     (∀ (object : Half) (d : BitVec 32), object.toNat ≤ 255 →
       let i := object.toNat
       let o := s.object i
       let set := u.modObject i fun _ => { o with
         dose := d.toNat, fraction := 0, unknown := false
         lastRoll := if s.calendar.isSet then (if o.startDay ≤ s.calendar.day then s.calendar.year else s.calendar.year - 1)
           else o.lastRoll }
       exec (.doseSet rq object o.tag d) s =
         completes (ceilingCore i (if o.enable && o.unknown then clear .doseUnknown i set else set))) ∧
     (∀ n : Half, n.toNat ≤ 63 → (s.node n.toNat).enable = true →
       let i := n.toNat
       let nd := s.node i
       let hunting := { u.modNode i fun _ =>
           { nd with state := .hunting, runLength := 0, misses := 0, recheckDue := false } with
         points := if nd.state = .online then s.points.map fun p =>
             if p.enable && p.node == i then { p with state := .lost, pending := none } else p
           else s.points }
       exec (.rehunt rq n) s = completes
         (if nd.state = .silent then clear .nodeSilent i hunting
          else if nd.state = .displaced then nodeBack i (clear .nodeDisplaced i hunting) else hunting))) ∧
  (∀ (rq : Requester) (s : State),
     let u := supervisionRestart s
     let running := s.procedure.state = .running
     (∀ (o : Half) (tag : CatalogueTag) (d : BitVec 32),
       (running → exec (.doseSet rq o tag d) s = .next (answer rq .busy u)) ∧
       (¬running → 255 < o.toNat → exec (.doseSet rq o tag d) s = .next (answer rq .range u)) ∧
       (¬running → o.toNat ≤ 255 → tag ≠ (s.object o.toNat).tag →
         exec (.doseSet rq o tag d) s = .next (answer rq .tagMismatch u))) ∧
     (∀ n : Half,
       (running → exec (.rehunt rq n) s = .next (answer rq .busy u)) ∧
       (¬running → 63 < n.toNat → exec (.rehunt rq n) s = .next (answer rq .range u)) ∧
       (¬running → n.toNat ≤ 63 → (s.node n.toNat).enable = false →
         exec (.rehunt rq n) s = .next (answer rq .refError u))) ∧
     (∀ g : Half,
       (running → exec (.capClear rq g) s = .next (answer rq .busy u)) ∧
       (¬running → 47 < g.toNat → exec (.capClear rq g) s = .next (answer rq .range u)) ∧
       (¬running → g.toNat ≤ 47 → (s.group g.toNat).enable = false →
         exec (.capClear rq g) s = .next (answer rq .refError u))) ∧
     (running → exec (.clearLatched rq) s = .next (answer rq .busy u)) ∧
     (running ∨ s.save ≠ none → exec (.save rq) s = .next (answer rq .busy u)) ∧
     (running → exec (.restart rq) s = .next (answer rq .busy u))) ∧
  (∀ (rq : Requester) (s : State), s.procedure.state ≠ .running →
     let done : Procedure := { s.procedure with state := .done, result := 0 }
     (∀ (o : Half) (d : BitVec 32), o.toNat ≤ 255 →
       ∃ t, exec (.doseSet rq o (s.object o.toNat).tag d) s = .next t ∧ t.procedure = done ∧
         (t.object o.toNat).dose = d.toNat ∧ (t.object o.toNat).fraction = 0 ∧ (t.object o.toNat).unknown = false ∧
         (t.object o.toNat).lastRoll = (if s.calendar.isSet then
           (if (s.object o.toNat).startDay ≤ s.calendar.day then s.calendar.year else s.calendar.year - 1)
           else (s.object o.toNat).lastRoll) ∧
         ((s.object o.toNat).enable = true →
           (t.object o.toNat).ceiling = (pacedCeiling (t.object o.toNat)).ceiling) ∧
         (∀ j, j ≠ o.toNat → t.object j = s.object j) ∧ t.nodes = s.nodes ∧ t.points = s.points ∧
         t.device = s.device ∧ t.store = s.store) ∧
     (∀ n : Half, n.toNat ≤ 63 → (s.node n.toNat).enable = true →
       ∃ t, exec (.rehunt rq n) s = .next t ∧ t.procedure = done ∧
         t.node n.toNat = { s.node n.toNat with
           state := .hunting, runLength := 0, misses := 0, recheckDue := false } ∧
         (∀ k, k ≠ n.toNat → t.node k = s.node k) ∧ t.pollList = s.pollList ∧
         ((s.node n.toNat).state = .online → ∀ i < 192, (s.point i).enable = true → (s.point i).node = n.toNat →
           (t.point i).state = .lost ∧ (t.point i).pending = none) ∧
         t.objects = s.objects ∧ t.device = s.device ∧ t.store = s.store) ∧
     (∀ g : Half, g.toNat ≤ 47 → (s.group g.toNat).enable = true →
       ((s.group g.toNat).cap = none → exec (.capClear rq g) s =
         .next (answer rq .ok { supervisionRestart s with procedure := done })) ∧
       ((s.group g.toNat).cap ≠ none → exec (.capClear rq g) s =
         .next (answered rq .ok (supervisionRestart s) { requestCore (s.group g.toNat).zone
           ((supervisionRestart s).modGroup g.toNat fun gr => { gr with cap := none }) with procedure := done }))) ∧
     exec (.clearLatched rq) s = .next (answer rq .ok { supervisionRestart s with
       conditions := (supervisionRestart s).conditions.filter fun c => c.state == .active
       procedure := done }))

/-- SAVE and RESTART accepted (R165, R166, R167, R177): the procedure is RUNNING, the reply answers STARTED, and the
full save starts after the reply.
RESTART_SAVE_START (R167, R176): the dose save starts, or waits for the save in flight.
The rows stand for requests of one element (log entry 3), the first page is given at once (log entry 18), and
RESTART_SAVE_START does nothing where no RESTART waits, and starts the save also where the reply still waits or is in flight,
which R167 does not let happen (log entry 1). -/
def Obligations.SaveAndRestartStart : Prop :=
  (∀ (rq : Requester) (s : State), s.procedure.state ≠ .running →
     (s.save = none →
       let u := answer rq .started { supervisionRestart s with
         procedure := { s.procedure with state := .running, result := 0 } }
       let date := if s.calendar.isSet then some (Date.mk s.calendar.year s.calendar.day) else none
       let v : Save := ⟨.full, .settings, recordOctets u date .settings, 0, date, false, s.now + 20 * unitsPerMs⟩
       exec (.save rq) s = .next { u with save := some v }) ∧
     exec (.restart rq) s = .next (offerOrigin ⟨rq.src, kindServiceReply, [rq.seq, statusCode .started], .reply true⟩
       { supervisionRestart s with procedure := { s.procedure with state := .running, restart := .awaitingReply } })) ∧
  (∀ s : State,
     let u := { taken .restartSaveStart s with procedure := { s.procedure with restart := .saveAsked } }
     let date := if s.calendar.isSet then some (Date.mk s.calendar.year s.calendar.day) else none
     ((s.procedure.restart = .awaitingReply ∨ s.procedure.restart = .replyGone) →
       (s.save = none →
         let v : Save := ⟨.hourly, .dose 0, recordOctets s date (.dose 0), 0, date, true, s.now + 20 * unitsPerMs⟩
         exec .restartSaveStart s = .next { u with save := some v }) ∧
       (s.save ≠ none → exec .restartSaveStart s = .next { u with restartWaiting := true })) ∧
     ((s.procedure.restart = .notRunning ∨ s.procedure.restart = .saveAsked) →
       exec .restartSaveStart s = .next (taken .restartSaveStart s)))

/-! ### The image store (10) -/

/-- R182: where each record of the image stands and what it holds; R176, R177: the order in which a save writes them.
PAGE_COMPLETE (R176, R178): the octets of the page in flight stand in the store, at their addresses and nowhere
else, and the rest of the record or the next record follows.
That the octets stand from here on is the model's choice (log entry 18), and so is that the page completes whatever the
clock shows (log entry 1). -/
def Obligations.PageCompleteWritesThePage : Prop :=
  (recordAddress .header = 0 ∧ recordAddress .settings = 19 ∧ recordAddress .stamp = 23377 ∧
   ∀ i, recordAddress (.node i) = 113 + 28 * i ∧ recordAddress (.point i) = 1905 + 14 * i ∧
     recordAddress (.object i) = 4593 + 46 * i ∧ recordAddress (.group i) = 16369 + 24 * i ∧
     recordAddress (.zone i) = 17521 + 46 * i ∧ recordAddress (.dose i) = 18625 + 18 * i ∧
     recordAddress (.setpoint i) = 23233 + 6 * i) ∧
  (∀ (s : State) (d : Option Date),
     let holds := fun (r : RecordId) (values : List Half) =>
       recordOctets s d r = values.flatMap octetsOf ++ octetsOf (crc16 (values.flatMap octetsOf))
     let marker : List Byte := [0x4E, 0x4C, 1, 0, 1, 0, 64, 0, 192, 1, 0, 0, 48, 0, 24, 1, 25]
     recordOctets s d .header = marker ++ octetsOf (crc16 marker) ∧
     holds .settings (((deviceReads s).drop 3).take 10 ++ (deviceReads s).drop 23 ++
       s.counters.toList.map fun c => BitVec.ofNat 16 c.threshold) ∧
     holds .stamp (match d with
       | some d => [BitVec.ofNat 16 d.year, BitVec.ofNat 16 d.day]
       | none => [0, 0]) ∧
     ∀ i, holds (.node i) ((nodeReads (s.node i)).take 13) ∧ holds (.point i) ((pointReads (s.point i)).take 6) ∧
       holds (.object i) ((objectReads (s.object i)).take 22) ∧ holds (.group i) ((groupReads (s.group i)).take 11) ∧
       holds (.zone i) ((zoneReads (s.zone i)).take 6 ++ ((zoneReads (s.zone i)).drop 8).take 16) ∧
       holds (.dose i)
         (let o := s.object i
          wideReads o.dose ++ [BitVec.ofNat 16 o.fraction] ++ wideReads o.remaining ++ wideReads o.previousYear ++
            [BitVec.ofNat 16 o.lastRoll]) ∧
       holds (.setpoint i) [BitVec.ofInt 16 (s.zone i).rh.setpoint, BitVec.ofInt 16 (s.zone i).temp.setpoint]) ∧
  (∀ (k : SaveKind) (dated : Bool),
     let next := nextRecord k dated
     let last := if k = .full then some RecordId.header else none
     let run := fun (size : Nat) (r : Nat → RecordId) (first : Option RecordId) =>
       (∀ i, i + 1 < size → next (r i) = some (r (i + 1))) ∧ next (r (size - 1)) = first
     next .settings = some (.node 0) ∧ run 64 .node (some (.point 0)) ∧ run 192 .point (some (.object 0)) ∧
     run 256 .object (some (.group 0)) ∧ run 48 .group (some (.zone 0)) ∧ run 24 .zone (some (.dose 0)) ∧
     run 256 .dose (some (.setpoint 0)) ∧ run 24 .setpoint (if dated then some .stamp else last) ∧
     next .stamp = last ∧ next .header = none) ∧
  ∀ (s : State) (v : Save), s.save = some v → Memory.wf s.store →
    let a := recordAddress v.position + v.written
    let page := (v.octets.drop v.written).take (64 - a % 64)
    let done := v.written + page.length
    let after := nextRecord v.kind v.date.isSome v.position
    (done < v.octets.length ∨ after ≠ none) →
      ∃ store save, exec .pageComplete s = .next { taken .pageComplete s with store := store, save := some save } ∧
        Memory.wf store ∧
        (∀ b, storeRead store b = if a ≤ b ∧ b - a < page.length then page.getD (b - a) 0 else storeRead s.store b) ∧
        (done < v.octets.length → save = { v with written := done, deadline := s.now + 20 * unitsPerMs }) ∧
        (v.octets.length ≤ done → ∀ r, after = some r → save = { v with
          position := r, octets := recordOctets s v.date r, written := 0, deadline := s.now + 20 * unitsPerMs })

/-- PAGE_COMPLETE after the last page of the last record (R176, R177, R166, R167): the save has succeeded.
PAGE_WRITE_TIMEOUT (R178, R166, R167): the save ends, the section becomes faulty, IMAGE_FAULT is raised with its
number, and a full save's failure is the procedure's result; the octets of the page in flight alone are not known.
A RESTART that waits for the end then starts its save, and the end of a RESTART's own save is a reset.
What a torn page's own octets read as is open (log entry 6), and so are the pins at the reset of a RESTART (log entry 9).
That IMAGE_FAULT is cleared, and reported, only where it has been raised is deduced (log entry 17).
That a page stands in the store from PAGE_COMPLETE on, and that a waiting save's first page is given at once, is the
model's choice (log entry 18), and so is that either command is taken whatever the clock shows (log entry 1). -/
def Obligations.SavesEnd : Prop :=
  (∀ (s : State) (v : Save), s.save = some v →
     let a := recordAddress v.position + v.written
     let page := (v.octets.drop v.written).take (64 - a % 64)
     let left := match v.kind with
       | .hourly => s.faulty.filter fun n => n != 7
       | .full => []
     let procedure := match v.kind with
       | .hourly => s.procedure
       | .full => { s.procedure with state := .done, result := 0 }
     v.octets.length ≤ v.written + page.length → nextRecord v.kind v.date.isSome v.position = none →
       let w := { taken .pageComplete s with store := storeWriteAll s.store a page, save := none, faulty := left }
       let u :=
         if left = [] ∧ s.imageFaultRaised = true then
           { clear .imageFault 0 { w with imageFaultRaised := false } with procedure := procedure }
         else { w with procedure := procedure }
       (v.ofRestart = true →
         ∃ pins, exec .pageComplete s = exec (.reset pins) { u with freeCount := s.freeCount + 1 }) ∧
       (v.ofRestart = false → s.restartWaiting = false → exec .pageComplete s = .next u) ∧
       (v.ofRestart = false → s.restartWaiting = true →
         ∃ t, exec .pageComplete s = .next t ∧ t.restartWaiting = false ∧ t.store = u.store ∧ t.faulty = left ∧
           ∃ x, t.save = some x ∧ x.kind = .hourly ∧ x.ofRestart = true ∧ x.position = .dose 0 ∧ x.written = 0 ∧
             x.octets = recordOctets s x.date (.dose 0))) ∧
  (∀ (s : State) (v : Save), s.save = some v → Memory.wf s.store →
     let n := recordSection v.position
     let procedure := match v.kind with
       | .hourly => s.procedure
       | .full => { s.procedure with state := .failed, result := n }
     let a := pageAddress v
     ∃ store free,
       (∀ b, (b < a ∨ a + (pageOctets v).length ≤ b) → storeRead store b = storeRead s.store b) ∧ Memory.wf store ∧
       let faulty := if s.faulty.contains n then s.faulty else s.faulty ++ [n]
       let w := { taken .pageWriteTimeout s with
         store := store, freeCount := free, save := none, faulty := faulty, imageFaultRaised := true }
       let u := { raise .imageFault 0 n w with procedure := procedure }
       (v.ofRestart = true →
         ∃ pins, exec .pageWriteTimeout s = exec (.reset pins) { u with freeCount := free + 1 }) ∧
       (v.ofRestart = false → s.restartWaiting = false → exec .pageWriteTimeout s = .next u) ∧
       (v.ofRestart = false → s.restartWaiting = true →
         ∃ t, exec .pageWriteTimeout s = .next t ∧ t.restartWaiting = false ∧ t.store = store ∧ t.faulty = faulty ∧
           t.procedure = procedure ∧
           ∃ x, t.save = some x ∧ x.kind = .hourly ∧ x.ofRestart = true ∧ x.position = .dose 0 ∧ x.written = 0 ∧
             x.octets = recordOctets s x.date (.dose 0)))

/-- R172, R182: what a save writes for an entry of tables 1 to 5, a reset reads back, where the entry's fields lie in
their ranges. -/
def Obligations.SavedEntriesLoadBack : Prop :=
  ∀ (s : State) (m : List Host.Cell) (d : Option Date), Memory.wf m →
    let saved := fun r => checkedValues (storeWriteAll m (recordAddress r) (recordOctets s d r)) r
    (∀ i, nodeLegal (s.node i) → (saved (.node i)).bind parseNode = some { factoryNode with
      enable := (s.node i).enable, address := (s.node i).address, role := (s.node i).role,
      pollPeriod := (s.node i).pollPeriod, tagCheck := (s.node i).tagCheck, expectedTag := (s.node i).expectedTag,
      state := if (s.node i).enable then .hunting else .absent }) ∧
    (∀ i, pointLegal (s.point i) → (saved (.point i)).bind parsePoint = some { factoryPoint with
      enable := (s.point i).enable, node := (s.point i).node, channel := (s.point i).channel,
      quantity := (s.point i).quantity, zone := (s.point i).zone, forward := (s.point i).forward }) ∧
    (∀ i, groupLegal (s.group i) → (saved (.group i)).bind parseGroup = some { factoryGroup with
      enable := (s.group i).enable, kind := (s.group i).kind, zone := (s.group i).zone, node := (s.group i).node,
      channel := (s.group i).channel, lo := (s.group i).lo, hi := (s.group i).hi, step := (s.group i).step,
      hold := (s.group i).hold, settle := (s.group i).settle, cleaning := (s.group i).cleaning,
      level := (s.group i).cleaning }) ∧
    (∀ i, objectLegal (s.object i) → (saved (.object i)).bind parseObject = some { factoryObject with
      enable := (s.object i).enable, tag := (s.object i).tag, zone := (s.object i).zone,
      lightPoint := (s.object i).lightPoint, uvPoint := (s.object i).uvPoint, lampGroup := (s.object i).lampGroup,
      budget := (s.object i).budget, cmax := (s.object i).cmax, cfloor := (s.object i).cfloor,
      assumed := (s.object i).assumed, uvLimit := (s.object i).uvLimit, uvSlope := (s.object i).uvSlope,
      startDay := (s.object i).startDay, planned := (s.object i).planned,
      overThreshold := (s.object i).overThreshold }) ∧
    (∀ i, zoneLegal (s.zone i) →
      let z := s.zone i
      (saved (.zone i)).bind parseZone = some { factoryZone with
        enable := z.enable, shade := z.shade, openFrom := z.openFrom, openTo := z.openTo, modeSource := z.modeSource,
        forcedMode := z.forcedMode, persistence := z.persistence, driftLimit := z.driftLimit,
        airAddress := z.airAddress, airChannel := z.airChannel
        rh := { factoryRh with
          lo := z.rh.lo, hi := z.rh.hi, hysteresis := z.rh.hysteresis, spike := z.rh.spike, target := z.rh.target,
          glide := z.rh.glide }
        temp := { factoryTemp with
          lo := z.temp.lo, hi := z.temp.hi, hysteresis := z.temp.hysteresis, spike := z.temp.spike,
          target := z.temp.target, glide := z.temp.glide } })

/-- R172, R182: what a save writes for a dose record, a setpoint record and the dose stamp, a reset reads back. -/
def Obligations.SavedDosesLoadBack : Prop :=
  ∀ (s : State) (m : List Host.Cell) (d : Option Date), Memory.wf m →
    let saved := fun r => checkedValues (storeWriteAll m (recordAddress r) (recordOctets s d r)) r
    (∀ i, (s.object i).dose ≤ 4294967295 → (s.object i).fraction ≤ 59 → (s.object i).remaining ≤ 527040 →
      (s.object i).previousYear ≤ 4294967295 →
      ((s.object i).lastRoll = 0 ∨ 1999 ≤ (s.object i).lastRoll ∧ (s.object i).lastRoll ≤ 2199) →
      (saved (.dose i)).bind parseDose = some ⟨(s.object i).dose, (s.object i).fraction, (s.object i).remaining,
        (s.object i).previousYear, (s.object i).lastRoll⟩) ∧
    (∀ i, 0 ≤ (s.zone i).rh.setpoint → (s.zone i).rh.setpoint ≤ 10000 → -4000 ≤ (s.zone i).temp.setpoint →
      (s.zone i).temp.setpoint ≤ 8500 →
      (saved (.setpoint i)).bind parseSetpoints = some ((s.zone i).rh.setpoint, (s.zone i).temp.setpoint)) ∧
    (∀ x, d = some x → x.wf = true → (saved .stamp).bind parseStamp = some x)

/-! ### What every step keeps -/

/-- R14, R16, R137, R142: the bounds of the queues, the Condition Table and the rings, and the canonical form of the
store, are kept by every step. -/
def Obligations.EveryStepKeepsTheBounds : Prop := ∀ s t : State, Bounded s → step s = .next t → Bounded t

/-- R78, R88: Cfloor never exceeds Cmax, and every enabled object's ceiling lies within them, at every step. -/
def Obligations.EveryStepKeepsCeilingsInRange : Prop :=
  ∀ s t : State, CeilingsInRange s → step s = .next t → CeilingsInRange t

/-- R139: every setpoint lies within its narrowed band, or at its midpoint, at every step. -/
def Obligations.EveryStepKeepsSetpointsInBand : Prop :=
  ∀ s t : State, SetpointsInBand s → step s = .next t → SetpointsInBand t

/-- R42, R163, R175: no enabled node has the own address, at every step. -/
def Obligations.EveryStepKeepsOwnAddressFree : Prop :=
  ∀ s t : State, OwnAddressFree s → step s = .next t → OwnAddressFree t

/-- R109, R99: a group's level lies within 0 to 1000 and within its cap, at every step. -/
def Obligations.EveryStepKeepsLevelsInRange : Prop :=
  ∀ s t : State, LevelsInRange s → step s = .next t → LevelsInRange t

/-- The state after reset has all of these. -/
def Obligations.ResetMeetsTheInvariants : Prop :=
  Bounded State.reset ∧ CeilingsInRange State.reset ∧ SetpointsInBand State.reset ∧ OwnAddressFree State.reset ∧
    LevelsInRange State.reset
end

