-- ==== Sys2Proof/Laws/State.lean ====
section
/-! SUPPORT. One lemma per field for each named update of the state: what it writes, and that it writes nothing else. -/

namespace Sys2Proof.Machine

variable (s : State)

/-! ### modNode -/

section modNode

variable (i : Nat) (f : Node → Node)

@[simp] theorem pending_modNode : (s.modNode i f).pending = s.pending := rfl
@[simp] theorem handed_modNode : (s.modNode i f).handed = s.handed := rfl
@[simp] theorem freeCount_modNode : (s.modNode i f).freeCount = s.freeCount := rfl
@[simp] theorem now_modNode : (s.modNode i f).now = s.now := rfl
@[simp] theorem loading_modNode : (s.modNode i f).loading = s.loading := rfl
@[simp] theorem pins_modNode : (s.modNode i f).pins = s.pins := rfl
@[simp] theorem device_modNode : (s.modNode i f).device = s.device := rfl
@[simp] theorem calendar_modNode : (s.modNode i f).calendar = s.calendar := rfl
@[simp] theorem nodes_modNode : (s.modNode i f).nodes = modifyAt s.nodes i f := rfl
@[simp] theorem points_modNode : (s.modNode i f).points = s.points := rfl
@[simp] theorem objects_modNode : (s.modNode i f).objects = s.objects := rfl
@[simp] theorem groups_modNode : (s.modNode i f).groups = s.groups := rfl
@[simp] theorem zones_modNode : (s.modNode i f).zones = s.zones := rfl
@[simp] theorem conditions_modNode : (s.modNode i f).conditions = s.conditions := rfl
@[simp] theorem latches_modNode : (s.modNode i f).latches = s.latches := rfl
@[simp] theorem degraded_modNode : (s.modNode i f).degraded = s.degraded := rfl
@[simp] theorem counters_modNode : (s.modNode i f).counters = s.counters := rfl
@[simp] theorem galleryAsm_modNode : (s.modNode i f).galleryAsm = s.galleryAsm := rfl
@[simp] theorem plantAsm_modNode : (s.modNode i f).plantAsm = s.plantAsm := rfl
@[simp] theorem gallerySeq_modNode : (s.modNode i f).gallerySeq = s.gallerySeq := rfl
@[simp] theorem plantSeq_modNode : (s.modNode i f).plantSeq = s.plantSeq := rfl
@[simp] theorem g2p_modNode : (s.modNode i f).g2p = s.g2p := rfl
@[simp] theorem p2g_modNode : (s.modNode i f).p2g = s.p2g := rfl
@[simp] theorem plantOrigin_modNode : (s.modNode i f).plantOrigin = s.plantOrigin := rfl
@[simp] theorem plantTx_modNode : (s.modNode i f).plantTx = s.plantTx := rfl
@[simp] theorem turn_modNode : (s.modNode i f).turn = s.turn := rfl
@[simp] theorem line_modNode : (s.modNode i f).line = s.line := rfl
@[simp] theorem pointer_modNode : (s.modNode i f).pointer = s.pointer := rfl
@[simp] theorem galleryOrigin_modNode : (s.modNode i f).galleryOrigin = s.galleryOrigin := rfl
@[simp] theorem pollList_modNode : (s.modNode i f).pollList = s.pollList := rfl
@[simp] theorem cursors_modNode : (s.modNode i f).cursors = s.cursors := rfl
@[simp] theorem procedure_modNode : (s.modNode i f).procedure = s.procedure := rfl
@[simp] theorem supervision_modNode : (s.modNode i f).supervision = s.supervision := rfl
@[simp] theorem store_modNode : (s.modNode i f).store = s.store := rfl
@[simp] theorem save_modNode : (s.modNode i f).save = s.save := rfl
@[simp] theorem restartWaiting_modNode : (s.modNode i f).restartWaiting = s.restartWaiting := rfl
@[simp] theorem faulty_modNode : (s.modNode i f).faulty = s.faulty := rfl
@[simp] theorem imageFaultRaised_modNode : (s.modNode i f).imageFaultRaised = s.imageFaultRaised := rfl

end modNode

/-! ### modPoint -/

section modPoint

variable (i : Nat) (f : Point → Point)

@[simp] theorem pending_modPoint : (s.modPoint i f).pending = s.pending := rfl
@[simp] theorem handed_modPoint : (s.modPoint i f).handed = s.handed := rfl
@[simp] theorem freeCount_modPoint : (s.modPoint i f).freeCount = s.freeCount := rfl
@[simp] theorem now_modPoint : (s.modPoint i f).now = s.now := rfl
@[simp] theorem loading_modPoint : (s.modPoint i f).loading = s.loading := rfl
@[simp] theorem pins_modPoint : (s.modPoint i f).pins = s.pins := rfl
@[simp] theorem device_modPoint : (s.modPoint i f).device = s.device := rfl
@[simp] theorem calendar_modPoint : (s.modPoint i f).calendar = s.calendar := rfl
@[simp] theorem nodes_modPoint : (s.modPoint i f).nodes = s.nodes := rfl
@[simp] theorem points_modPoint : (s.modPoint i f).points = modifyAt s.points i f := rfl
@[simp] theorem objects_modPoint : (s.modPoint i f).objects = s.objects := rfl
@[simp] theorem groups_modPoint : (s.modPoint i f).groups = s.groups := rfl
@[simp] theorem zones_modPoint : (s.modPoint i f).zones = s.zones := rfl
@[simp] theorem conditions_modPoint : (s.modPoint i f).conditions = s.conditions := rfl
@[simp] theorem latches_modPoint : (s.modPoint i f).latches = s.latches := rfl
@[simp] theorem degraded_modPoint : (s.modPoint i f).degraded = s.degraded := rfl
@[simp] theorem counters_modPoint : (s.modPoint i f).counters = s.counters := rfl
@[simp] theorem galleryAsm_modPoint : (s.modPoint i f).galleryAsm = s.galleryAsm := rfl
@[simp] theorem plantAsm_modPoint : (s.modPoint i f).plantAsm = s.plantAsm := rfl
@[simp] theorem gallerySeq_modPoint : (s.modPoint i f).gallerySeq = s.gallerySeq := rfl
@[simp] theorem plantSeq_modPoint : (s.modPoint i f).plantSeq = s.plantSeq := rfl
@[simp] theorem g2p_modPoint : (s.modPoint i f).g2p = s.g2p := rfl
@[simp] theorem p2g_modPoint : (s.modPoint i f).p2g = s.p2g := rfl
@[simp] theorem plantOrigin_modPoint : (s.modPoint i f).plantOrigin = s.plantOrigin := rfl
@[simp] theorem plantTx_modPoint : (s.modPoint i f).plantTx = s.plantTx := rfl
@[simp] theorem turn_modPoint : (s.modPoint i f).turn = s.turn := rfl
@[simp] theorem line_modPoint : (s.modPoint i f).line = s.line := rfl
@[simp] theorem pointer_modPoint : (s.modPoint i f).pointer = s.pointer := rfl
@[simp] theorem galleryOrigin_modPoint : (s.modPoint i f).galleryOrigin = s.galleryOrigin := rfl
@[simp] theorem pollList_modPoint : (s.modPoint i f).pollList = s.pollList := rfl
@[simp] theorem cursors_modPoint : (s.modPoint i f).cursors = s.cursors := rfl
@[simp] theorem procedure_modPoint : (s.modPoint i f).procedure = s.procedure := rfl
@[simp] theorem supervision_modPoint : (s.modPoint i f).supervision = s.supervision := rfl
@[simp] theorem store_modPoint : (s.modPoint i f).store = s.store := rfl
@[simp] theorem save_modPoint : (s.modPoint i f).save = s.save := rfl
@[simp] theorem restartWaiting_modPoint : (s.modPoint i f).restartWaiting = s.restartWaiting := rfl
@[simp] theorem faulty_modPoint : (s.modPoint i f).faulty = s.faulty := rfl
@[simp] theorem imageFaultRaised_modPoint : (s.modPoint i f).imageFaultRaised = s.imageFaultRaised := rfl

end modPoint

/-! ### modObject -/

section modObject

variable (i : Nat) (f : Obj → Obj)

@[simp] theorem pending_modObject : (s.modObject i f).pending = s.pending := rfl
@[simp] theorem handed_modObject : (s.modObject i f).handed = s.handed := rfl
@[simp] theorem freeCount_modObject : (s.modObject i f).freeCount = s.freeCount := rfl
@[simp] theorem now_modObject : (s.modObject i f).now = s.now := rfl
@[simp] theorem loading_modObject : (s.modObject i f).loading = s.loading := rfl
@[simp] theorem pins_modObject : (s.modObject i f).pins = s.pins := rfl
@[simp] theorem device_modObject : (s.modObject i f).device = s.device := rfl
@[simp] theorem calendar_modObject : (s.modObject i f).calendar = s.calendar := rfl
@[simp] theorem nodes_modObject : (s.modObject i f).nodes = s.nodes := rfl
@[simp] theorem points_modObject : (s.modObject i f).points = s.points := rfl
@[simp] theorem objects_modObject : (s.modObject i f).objects = modifyAt s.objects i f := rfl
@[simp] theorem groups_modObject : (s.modObject i f).groups = s.groups := rfl
@[simp] theorem zones_modObject : (s.modObject i f).zones = s.zones := rfl
@[simp] theorem conditions_modObject : (s.modObject i f).conditions = s.conditions := rfl
@[simp] theorem latches_modObject : (s.modObject i f).latches = s.latches := rfl
@[simp] theorem degraded_modObject : (s.modObject i f).degraded = s.degraded := rfl
@[simp] theorem counters_modObject : (s.modObject i f).counters = s.counters := rfl
@[simp] theorem galleryAsm_modObject : (s.modObject i f).galleryAsm = s.galleryAsm := rfl
@[simp] theorem plantAsm_modObject : (s.modObject i f).plantAsm = s.plantAsm := rfl
@[simp] theorem gallerySeq_modObject : (s.modObject i f).gallerySeq = s.gallerySeq := rfl
@[simp] theorem plantSeq_modObject : (s.modObject i f).plantSeq = s.plantSeq := rfl
@[simp] theorem g2p_modObject : (s.modObject i f).g2p = s.g2p := rfl
@[simp] theorem p2g_modObject : (s.modObject i f).p2g = s.p2g := rfl
@[simp] theorem plantOrigin_modObject : (s.modObject i f).plantOrigin = s.plantOrigin := rfl
@[simp] theorem plantTx_modObject : (s.modObject i f).plantTx = s.plantTx := rfl
@[simp] theorem turn_modObject : (s.modObject i f).turn = s.turn := rfl
@[simp] theorem line_modObject : (s.modObject i f).line = s.line := rfl
@[simp] theorem pointer_modObject : (s.modObject i f).pointer = s.pointer := rfl
@[simp] theorem galleryOrigin_modObject : (s.modObject i f).galleryOrigin = s.galleryOrigin := rfl
@[simp] theorem pollList_modObject : (s.modObject i f).pollList = s.pollList := rfl
@[simp] theorem cursors_modObject : (s.modObject i f).cursors = s.cursors := rfl
@[simp] theorem procedure_modObject : (s.modObject i f).procedure = s.procedure := rfl
@[simp] theorem supervision_modObject : (s.modObject i f).supervision = s.supervision := rfl
@[simp] theorem store_modObject : (s.modObject i f).store = s.store := rfl
@[simp] theorem save_modObject : (s.modObject i f).save = s.save := rfl
@[simp] theorem restartWaiting_modObject : (s.modObject i f).restartWaiting = s.restartWaiting := rfl
@[simp] theorem faulty_modObject : (s.modObject i f).faulty = s.faulty := rfl
@[simp] theorem imageFaultRaised_modObject : (s.modObject i f).imageFaultRaised = s.imageFaultRaised := rfl

end modObject

/-! ### modGroup -/

section modGroup

variable (i : Nat) (f : Group → Group)

@[simp] theorem pending_modGroup : (s.modGroup i f).pending = s.pending := rfl
@[simp] theorem handed_modGroup : (s.modGroup i f).handed = s.handed := rfl
@[simp] theorem freeCount_modGroup : (s.modGroup i f).freeCount = s.freeCount := rfl
@[simp] theorem now_modGroup : (s.modGroup i f).now = s.now := rfl
@[simp] theorem loading_modGroup : (s.modGroup i f).loading = s.loading := rfl
@[simp] theorem pins_modGroup : (s.modGroup i f).pins = s.pins := rfl
@[simp] theorem device_modGroup : (s.modGroup i f).device = s.device := rfl
@[simp] theorem calendar_modGroup : (s.modGroup i f).calendar = s.calendar := rfl
@[simp] theorem nodes_modGroup : (s.modGroup i f).nodes = s.nodes := rfl
@[simp] theorem points_modGroup : (s.modGroup i f).points = s.points := rfl
@[simp] theorem objects_modGroup : (s.modGroup i f).objects = s.objects := rfl
@[simp] theorem groups_modGroup : (s.modGroup i f).groups = modifyAt s.groups i f := rfl
@[simp] theorem zones_modGroup : (s.modGroup i f).zones = s.zones := rfl
@[simp] theorem conditions_modGroup : (s.modGroup i f).conditions = s.conditions := rfl
@[simp] theorem latches_modGroup : (s.modGroup i f).latches = s.latches := rfl
@[simp] theorem degraded_modGroup : (s.modGroup i f).degraded = s.degraded := rfl
@[simp] theorem counters_modGroup : (s.modGroup i f).counters = s.counters := rfl
@[simp] theorem galleryAsm_modGroup : (s.modGroup i f).galleryAsm = s.galleryAsm := rfl
@[simp] theorem plantAsm_modGroup : (s.modGroup i f).plantAsm = s.plantAsm := rfl
@[simp] theorem gallerySeq_modGroup : (s.modGroup i f).gallerySeq = s.gallerySeq := rfl
@[simp] theorem plantSeq_modGroup : (s.modGroup i f).plantSeq = s.plantSeq := rfl
@[simp] theorem g2p_modGroup : (s.modGroup i f).g2p = s.g2p := rfl
@[simp] theorem p2g_modGroup : (s.modGroup i f).p2g = s.p2g := rfl
@[simp] theorem plantOrigin_modGroup : (s.modGroup i f).plantOrigin = s.plantOrigin := rfl
@[simp] theorem plantTx_modGroup : (s.modGroup i f).plantTx = s.plantTx := rfl
@[simp] theorem turn_modGroup : (s.modGroup i f).turn = s.turn := rfl
@[simp] theorem line_modGroup : (s.modGroup i f).line = s.line := rfl
@[simp] theorem pointer_modGroup : (s.modGroup i f).pointer = s.pointer := rfl
@[simp] theorem galleryOrigin_modGroup : (s.modGroup i f).galleryOrigin = s.galleryOrigin := rfl
@[simp] theorem pollList_modGroup : (s.modGroup i f).pollList = s.pollList := rfl
@[simp] theorem cursors_modGroup : (s.modGroup i f).cursors = s.cursors := rfl
@[simp] theorem procedure_modGroup : (s.modGroup i f).procedure = s.procedure := rfl
@[simp] theorem supervision_modGroup : (s.modGroup i f).supervision = s.supervision := rfl
@[simp] theorem store_modGroup : (s.modGroup i f).store = s.store := rfl
@[simp] theorem save_modGroup : (s.modGroup i f).save = s.save := rfl
@[simp] theorem restartWaiting_modGroup : (s.modGroup i f).restartWaiting = s.restartWaiting := rfl
@[simp] theorem faulty_modGroup : (s.modGroup i f).faulty = s.faulty := rfl
@[simp] theorem imageFaultRaised_modGroup : (s.modGroup i f).imageFaultRaised = s.imageFaultRaised := rfl

end modGroup

/-! ### modZone -/

section modZone

variable (i : Nat) (f : Zone → Zone)

@[simp] theorem pending_modZone : (s.modZone i f).pending = s.pending := rfl
@[simp] theorem handed_modZone : (s.modZone i f).handed = s.handed := rfl
@[simp] theorem freeCount_modZone : (s.modZone i f).freeCount = s.freeCount := rfl
@[simp] theorem now_modZone : (s.modZone i f).now = s.now := rfl
@[simp] theorem loading_modZone : (s.modZone i f).loading = s.loading := rfl
@[simp] theorem pins_modZone : (s.modZone i f).pins = s.pins := rfl
@[simp] theorem device_modZone : (s.modZone i f).device = s.device := rfl
@[simp] theorem calendar_modZone : (s.modZone i f).calendar = s.calendar := rfl
@[simp] theorem nodes_modZone : (s.modZone i f).nodes = s.nodes := rfl
@[simp] theorem points_modZone : (s.modZone i f).points = s.points := rfl
@[simp] theorem objects_modZone : (s.modZone i f).objects = s.objects := rfl
@[simp] theorem groups_modZone : (s.modZone i f).groups = s.groups := rfl
@[simp] theorem zones_modZone : (s.modZone i f).zones = modifyAt s.zones i f := rfl
@[simp] theorem conditions_modZone : (s.modZone i f).conditions = s.conditions := rfl
@[simp] theorem latches_modZone : (s.modZone i f).latches = s.latches := rfl
@[simp] theorem degraded_modZone : (s.modZone i f).degraded = s.degraded := rfl
@[simp] theorem counters_modZone : (s.modZone i f).counters = s.counters := rfl
@[simp] theorem galleryAsm_modZone : (s.modZone i f).galleryAsm = s.galleryAsm := rfl
@[simp] theorem plantAsm_modZone : (s.modZone i f).plantAsm = s.plantAsm := rfl
@[simp] theorem gallerySeq_modZone : (s.modZone i f).gallerySeq = s.gallerySeq := rfl
@[simp] theorem plantSeq_modZone : (s.modZone i f).plantSeq = s.plantSeq := rfl
@[simp] theorem g2p_modZone : (s.modZone i f).g2p = s.g2p := rfl
@[simp] theorem p2g_modZone : (s.modZone i f).p2g = s.p2g := rfl
@[simp] theorem plantOrigin_modZone : (s.modZone i f).plantOrigin = s.plantOrigin := rfl
@[simp] theorem plantTx_modZone : (s.modZone i f).plantTx = s.plantTx := rfl
@[simp] theorem turn_modZone : (s.modZone i f).turn = s.turn := rfl
@[simp] theorem line_modZone : (s.modZone i f).line = s.line := rfl
@[simp] theorem pointer_modZone : (s.modZone i f).pointer = s.pointer := rfl
@[simp] theorem galleryOrigin_modZone : (s.modZone i f).galleryOrigin = s.galleryOrigin := rfl
@[simp] theorem pollList_modZone : (s.modZone i f).pollList = s.pollList := rfl
@[simp] theorem cursors_modZone : (s.modZone i f).cursors = s.cursors := rfl
@[simp] theorem procedure_modZone : (s.modZone i f).procedure = s.procedure := rfl
@[simp] theorem supervision_modZone : (s.modZone i f).supervision = s.supervision := rfl
@[simp] theorem store_modZone : (s.modZone i f).store = s.store := rfl
@[simp] theorem save_modZone : (s.modZone i f).save = s.save := rfl
@[simp] theorem restartWaiting_modZone : (s.modZone i f).restartWaiting = s.restartWaiting := rfl
@[simp] theorem faulty_modZone : (s.modZone i f).faulty = s.faulty := rfl
@[simp] theorem imageFaultRaised_modZone : (s.modZone i f).imageFaultRaised = s.imageFaultRaised := rfl

end modZone

/-! ### countMany -/

section countMany

variable (c : CounterId) (n : Nat)

@[simp] theorem pending_countMany : (countMany c n s).pending = s.pending := rfl
@[simp] theorem handed_countMany : (countMany c n s).handed = s.handed := rfl
@[simp] theorem freeCount_countMany : (countMany c n s).freeCount = s.freeCount := rfl
@[simp] theorem now_countMany : (countMany c n s).now = s.now := rfl
@[simp] theorem loading_countMany : (countMany c n s).loading = s.loading := rfl
@[simp] theorem pins_countMany : (countMany c n s).pins = s.pins := rfl
@[simp] theorem device_countMany : (countMany c n s).device = s.device := rfl
@[simp] theorem calendar_countMany : (countMany c n s).calendar = s.calendar := rfl
@[simp] theorem nodes_countMany : (countMany c n s).nodes = s.nodes := rfl
@[simp] theorem points_countMany : (countMany c n s).points = s.points := rfl
@[simp] theorem objects_countMany : (countMany c n s).objects = s.objects := rfl
@[simp] theorem groups_countMany : (countMany c n s).groups = s.groups := rfl
@[simp] theorem zones_countMany : (countMany c n s).zones = s.zones := rfl
@[simp] theorem conditions_countMany : (countMany c n s).conditions = s.conditions := rfl
@[simp] theorem latches_countMany : (countMany c n s).latches = s.latches := rfl
@[simp] theorem degraded_countMany : (countMany c n s).degraded = s.degraded := rfl
@[simp] theorem counters_countMany : (countMany c n s).counters = modifyAt s.counters (counterIndex c) (bumpCounter n) := rfl
@[simp] theorem galleryAsm_countMany : (countMany c n s).galleryAsm = s.galleryAsm := rfl
@[simp] theorem plantAsm_countMany : (countMany c n s).plantAsm = s.plantAsm := rfl
@[simp] theorem gallerySeq_countMany : (countMany c n s).gallerySeq = s.gallerySeq := rfl
@[simp] theorem plantSeq_countMany : (countMany c n s).plantSeq = s.plantSeq := rfl
@[simp] theorem g2p_countMany : (countMany c n s).g2p = s.g2p := rfl
@[simp] theorem p2g_countMany : (countMany c n s).p2g = s.p2g := rfl
@[simp] theorem plantOrigin_countMany : (countMany c n s).plantOrigin = s.plantOrigin := rfl
@[simp] theorem plantTx_countMany : (countMany c n s).plantTx = s.plantTx := rfl
@[simp] theorem turn_countMany : (countMany c n s).turn = s.turn := rfl
@[simp] theorem line_countMany : (countMany c n s).line = s.line := rfl
@[simp] theorem pointer_countMany : (countMany c n s).pointer = s.pointer := rfl
@[simp] theorem galleryOrigin_countMany : (countMany c n s).galleryOrigin = s.galleryOrigin := rfl
@[simp] theorem pollList_countMany : (countMany c n s).pollList = s.pollList := rfl
@[simp] theorem cursors_countMany : (countMany c n s).cursors = s.cursors := rfl
@[simp] theorem procedure_countMany : (countMany c n s).procedure = s.procedure := rfl
@[simp] theorem supervision_countMany : (countMany c n s).supervision = s.supervision := rfl
@[simp] theorem store_countMany : (countMany c n s).store = s.store := rfl
@[simp] theorem save_countMany : (countMany c n s).save = s.save := rfl
@[simp] theorem restartWaiting_countMany : (countMany c n s).restartWaiting = s.restartWaiting := rfl
@[simp] theorem faulty_countMany : (countMany c n s).faulty = s.faulty := rfl
@[simp] theorem imageFaultRaised_countMany : (countMany c n s).imageFaultRaised = s.imageFaultRaised := rfl

end countMany

/-! ### count -/

section count

variable (c : CounterId)

@[simp] theorem pending_count : (count c s).pending = s.pending := rfl
@[simp] theorem handed_count : (count c s).handed = s.handed := rfl
@[simp] theorem freeCount_count : (count c s).freeCount = s.freeCount := rfl
@[simp] theorem now_count : (count c s).now = s.now := rfl
@[simp] theorem loading_count : (count c s).loading = s.loading := rfl
@[simp] theorem pins_count : (count c s).pins = s.pins := rfl
@[simp] theorem device_count : (count c s).device = s.device := rfl
@[simp] theorem calendar_count : (count c s).calendar = s.calendar := rfl
@[simp] theorem nodes_count : (count c s).nodes = s.nodes := rfl
@[simp] theorem points_count : (count c s).points = s.points := rfl
@[simp] theorem objects_count : (count c s).objects = s.objects := rfl
@[simp] theorem groups_count : (count c s).groups = s.groups := rfl
@[simp] theorem zones_count : (count c s).zones = s.zones := rfl
@[simp] theorem conditions_count : (count c s).conditions = s.conditions := rfl
@[simp] theorem latches_count : (count c s).latches = s.latches := rfl
@[simp] theorem degraded_count : (count c s).degraded = s.degraded := rfl
@[simp] theorem counters_count : (count c s).counters = modifyAt s.counters (counterIndex c) (bumpCounter 1) := rfl
@[simp] theorem galleryAsm_count : (count c s).galleryAsm = s.galleryAsm := rfl
@[simp] theorem plantAsm_count : (count c s).plantAsm = s.plantAsm := rfl
@[simp] theorem gallerySeq_count : (count c s).gallerySeq = s.gallerySeq := rfl
@[simp] theorem plantSeq_count : (count c s).plantSeq = s.plantSeq := rfl
@[simp] theorem g2p_count : (count c s).g2p = s.g2p := rfl
@[simp] theorem p2g_count : (count c s).p2g = s.p2g := rfl
@[simp] theorem plantOrigin_count : (count c s).plantOrigin = s.plantOrigin := rfl
@[simp] theorem plantTx_count : (count c s).plantTx = s.plantTx := rfl
@[simp] theorem turn_count : (count c s).turn = s.turn := rfl
@[simp] theorem line_count : (count c s).line = s.line := rfl
@[simp] theorem pointer_count : (count c s).pointer = s.pointer := rfl
@[simp] theorem galleryOrigin_count : (count c s).galleryOrigin = s.galleryOrigin := rfl
@[simp] theorem pollList_count : (count c s).pollList = s.pollList := rfl
@[simp] theorem cursors_count : (count c s).cursors = s.cursors := rfl
@[simp] theorem procedure_count : (count c s).procedure = s.procedure := rfl
@[simp] theorem supervision_count : (count c s).supervision = s.supervision := rfl
@[simp] theorem store_count : (count c s).store = s.store := rfl
@[simp] theorem save_count : (count c s).save = s.save := rfl
@[simp] theorem restartWaiting_count : (count c s).restartWaiting = s.restartWaiting := rfl
@[simp] theorem faulty_count : (count c s).faulty = s.faulty := rfl
@[simp] theorem imageFaultRaised_count : (count c s).imageFaultRaised = s.imageFaultRaised := rfl

end count

/-! ### handOn -/

section handOn

variable (c : Instr)

@[simp] theorem pending_handOn : (handOn c s).pending = s.pending := rfl
@[simp] theorem handed_handOn : (handOn c s).handed = s.handed ++ [c] := rfl
@[simp] theorem freeCount_handOn : (handOn c s).freeCount = s.freeCount := rfl
@[simp] theorem now_handOn : (handOn c s).now = s.now := rfl
@[simp] theorem loading_handOn : (handOn c s).loading = s.loading := rfl
@[simp] theorem pins_handOn : (handOn c s).pins = s.pins := rfl
@[simp] theorem device_handOn : (handOn c s).device = s.device := rfl
@[simp] theorem calendar_handOn : (handOn c s).calendar = s.calendar := rfl
@[simp] theorem nodes_handOn : (handOn c s).nodes = s.nodes := rfl
@[simp] theorem points_handOn : (handOn c s).points = s.points := rfl
@[simp] theorem objects_handOn : (handOn c s).objects = s.objects := rfl
@[simp] theorem groups_handOn : (handOn c s).groups = s.groups := rfl
@[simp] theorem zones_handOn : (handOn c s).zones = s.zones := rfl
@[simp] theorem conditions_handOn : (handOn c s).conditions = s.conditions := rfl
@[simp] theorem latches_handOn : (handOn c s).latches = s.latches := rfl
@[simp] theorem degraded_handOn : (handOn c s).degraded = s.degraded := rfl
@[simp] theorem counters_handOn : (handOn c s).counters = s.counters := rfl
@[simp] theorem galleryAsm_handOn : (handOn c s).galleryAsm = s.galleryAsm := rfl
@[simp] theorem plantAsm_handOn : (handOn c s).plantAsm = s.plantAsm := rfl
@[simp] theorem gallerySeq_handOn : (handOn c s).gallerySeq = s.gallerySeq := rfl
@[simp] theorem plantSeq_handOn : (handOn c s).plantSeq = s.plantSeq := rfl
@[simp] theorem g2p_handOn : (handOn c s).g2p = s.g2p := rfl
@[simp] theorem p2g_handOn : (handOn c s).p2g = s.p2g := rfl
@[simp] theorem plantOrigin_handOn : (handOn c s).plantOrigin = s.plantOrigin := rfl
@[simp] theorem plantTx_handOn : (handOn c s).plantTx = s.plantTx := rfl
@[simp] theorem turn_handOn : (handOn c s).turn = s.turn := rfl
@[simp] theorem line_handOn : (handOn c s).line = s.line := rfl
@[simp] theorem pointer_handOn : (handOn c s).pointer = s.pointer := rfl
@[simp] theorem galleryOrigin_handOn : (handOn c s).galleryOrigin = s.galleryOrigin := rfl
@[simp] theorem pollList_handOn : (handOn c s).pollList = s.pollList := rfl
@[simp] theorem cursors_handOn : (handOn c s).cursors = s.cursors := rfl
@[simp] theorem procedure_handOn : (handOn c s).procedure = s.procedure := rfl
@[simp] theorem supervision_handOn : (handOn c s).supervision = s.supervision := rfl
@[simp] theorem store_handOn : (handOn c s).store = s.store := rfl
@[simp] theorem save_handOn : (handOn c s).save = s.save := rfl
@[simp] theorem restartWaiting_handOn : (handOn c s).restartWaiting = s.restartWaiting := rfl
@[simp] theorem faulty_handOn : (handOn c s).faulty = s.faulty := rfl
@[simp] theorem imageFaultRaised_handOn : (handOn c s).imageFaultRaised = s.imageFaultRaised := rfl

end handOn

/-! ### taken -/

section taken

variable (c : Instr)

@[simp] theorem pending_taken : (taken c s).pending = s.pending := rfl
@[simp] theorem handed_taken : (taken c s).handed = s.handed.erase c := rfl
@[simp] theorem freeCount_taken : (taken c s).freeCount = s.freeCount := rfl
@[simp] theorem now_taken : (taken c s).now = s.now := rfl
@[simp] theorem loading_taken : (taken c s).loading = s.loading := rfl
@[simp] theorem pins_taken : (taken c s).pins = s.pins := rfl
@[simp] theorem device_taken : (taken c s).device = s.device := rfl
@[simp] theorem calendar_taken : (taken c s).calendar = s.calendar := rfl
@[simp] theorem nodes_taken : (taken c s).nodes = s.nodes := rfl
@[simp] theorem points_taken : (taken c s).points = s.points := rfl
@[simp] theorem objects_taken : (taken c s).objects = s.objects := rfl
@[simp] theorem groups_taken : (taken c s).groups = s.groups := rfl
@[simp] theorem zones_taken : (taken c s).zones = s.zones := rfl
@[simp] theorem conditions_taken : (taken c s).conditions = s.conditions := rfl
@[simp] theorem latches_taken : (taken c s).latches = s.latches := rfl
@[simp] theorem degraded_taken : (taken c s).degraded = s.degraded := rfl
@[simp] theorem counters_taken : (taken c s).counters = s.counters := rfl
@[simp] theorem galleryAsm_taken : (taken c s).galleryAsm = s.galleryAsm := rfl
@[simp] theorem plantAsm_taken : (taken c s).plantAsm = s.plantAsm := rfl
@[simp] theorem gallerySeq_taken : (taken c s).gallerySeq = s.gallerySeq := rfl
@[simp] theorem plantSeq_taken : (taken c s).plantSeq = s.plantSeq := rfl
@[simp] theorem g2p_taken : (taken c s).g2p = s.g2p := rfl
@[simp] theorem p2g_taken : (taken c s).p2g = s.p2g := rfl
@[simp] theorem plantOrigin_taken : (taken c s).plantOrigin = s.plantOrigin := rfl
@[simp] theorem plantTx_taken : (taken c s).plantTx = s.plantTx := rfl
@[simp] theorem turn_taken : (taken c s).turn = s.turn := rfl
@[simp] theorem line_taken : (taken c s).line = s.line := rfl
@[simp] theorem pointer_taken : (taken c s).pointer = s.pointer := rfl
@[simp] theorem galleryOrigin_taken : (taken c s).galleryOrigin = s.galleryOrigin := rfl
@[simp] theorem pollList_taken : (taken c s).pollList = s.pollList := rfl
@[simp] theorem cursors_taken : (taken c s).cursors = s.cursors := rfl
@[simp] theorem procedure_taken : (taken c s).procedure = s.procedure := rfl
@[simp] theorem supervision_taken : (taken c s).supervision = s.supervision := rfl
@[simp] theorem store_taken : (taken c s).store = s.store := rfl
@[simp] theorem save_taken : (taken c s).save = s.save := rfl
@[simp] theorem restartWaiting_taken : (taken c s).restartWaiting = s.restartWaiting := rfl
@[simp] theorem faulty_taken : (taken c s).faulty = s.faulty := rfl
@[simp] theorem imageFaultRaised_taken : (taken c s).imageFaultRaised = s.imageFaultRaised := rfl

end taken

/-! ### setCursor -/

section setCursor

variable (t : TableId) (p : Position)

@[simp] theorem pending_setCursor : (setCursor t p s).pending = s.pending := rfl
@[simp] theorem handed_setCursor : (setCursor t p s).handed = s.handed := rfl
@[simp] theorem freeCount_setCursor : (setCursor t p s).freeCount = s.freeCount := rfl
@[simp] theorem now_setCursor : (setCursor t p s).now = s.now := rfl
@[simp] theorem loading_setCursor : (setCursor t p s).loading = s.loading := rfl
@[simp] theorem pins_setCursor : (setCursor t p s).pins = s.pins := rfl
@[simp] theorem device_setCursor : (setCursor t p s).device = s.device := rfl
@[simp] theorem calendar_setCursor : (setCursor t p s).calendar = s.calendar := rfl
@[simp] theorem nodes_setCursor : (setCursor t p s).nodes = s.nodes := rfl
@[simp] theorem points_setCursor : (setCursor t p s).points = s.points := rfl
@[simp] theorem objects_setCursor : (setCursor t p s).objects = s.objects := rfl
@[simp] theorem groups_setCursor : (setCursor t p s).groups = s.groups := rfl
@[simp] theorem zones_setCursor : (setCursor t p s).zones = s.zones := rfl
@[simp] theorem conditions_setCursor : (setCursor t p s).conditions = s.conditions := rfl
@[simp] theorem latches_setCursor : (setCursor t p s).latches = s.latches := rfl
@[simp] theorem degraded_setCursor : (setCursor t p s).degraded = s.degraded := rfl
@[simp] theorem counters_setCursor : (setCursor t p s).counters = s.counters := rfl
@[simp] theorem galleryAsm_setCursor : (setCursor t p s).galleryAsm = s.galleryAsm := rfl
@[simp] theorem plantAsm_setCursor : (setCursor t p s).plantAsm = s.plantAsm := rfl
@[simp] theorem gallerySeq_setCursor : (setCursor t p s).gallerySeq = s.gallerySeq := rfl
@[simp] theorem plantSeq_setCursor : (setCursor t p s).plantSeq = s.plantSeq := rfl
@[simp] theorem g2p_setCursor : (setCursor t p s).g2p = s.g2p := rfl
@[simp] theorem p2g_setCursor : (setCursor t p s).p2g = s.p2g := rfl
@[simp] theorem plantOrigin_setCursor : (setCursor t p s).plantOrigin = s.plantOrigin := rfl
@[simp] theorem plantTx_setCursor : (setCursor t p s).plantTx = s.plantTx := rfl
@[simp] theorem turn_setCursor : (setCursor t p s).turn = s.turn := rfl
@[simp] theorem line_setCursor : (setCursor t p s).line = s.line := rfl
@[simp] theorem pointer_setCursor : (setCursor t p s).pointer = s.pointer := rfl
@[simp] theorem galleryOrigin_setCursor : (setCursor t p s).galleryOrigin = s.galleryOrigin := rfl
@[simp] theorem pollList_setCursor : (setCursor t p s).pollList = s.pollList := rfl
@[simp] theorem cursors_setCursor : (setCursor t p s).cursors = modifyAt s.cursors (tableNumber t) fun _ => p := rfl
@[simp] theorem procedure_setCursor : (setCursor t p s).procedure = s.procedure := rfl
@[simp] theorem supervision_setCursor : (setCursor t p s).supervision = s.supervision := rfl
@[simp] theorem store_setCursor : (setCursor t p s).store = s.store := rfl
@[simp] theorem save_setCursor : (setCursor t p s).save = s.save := rfl
@[simp] theorem restartWaiting_setCursor : (setCursor t p s).restartWaiting = s.restartWaiting := rfl
@[simp] theorem faulty_setCursor : (setCursor t p s).faulty = s.faulty := rfl
@[simp] theorem imageFaultRaised_setCursor : (setCursor t p s).imageFaultRaised = s.imageFaultRaised := rfl

end setCursor

end Sys2Proof.Machine
end

