-- ==== Sys2Proof/Laws/Tables.lean ====
section
/-! SUPPORT. What a change of one entry of a table leaves at every index, for each of the five tables. -/

namespace Sys2Proof.Machine

/-! ### One entry of a vector -/

theorem getElem?_modifyAt {α : Type} {n : Nat} (t : Vector α n) (i j : Nat) (f : α → α) :
    (modifyAt t i f)[j]? = if i = j then t[j]?.map f else t[j]? := by
  unfold modifyAt
  by_cases h : i < n
  · simp only [h, dite_true, Vector.getElem?_set]
    by_cases e : i = j
    · subst e; simp [h]
    · simp [e]
  · simp only [h, dite_false]
    by_cases e : i = j
    · subst e; simp [h]
    · simp [e]

/-- A change that ends where it began changes nothing. -/
theorem modifyAt_id {α : Type} {n : Nat} (t : Vector α n) (i : Nat) (f : α → α) (h : ∀ x ∈ t[i]?, f x = x) :
    modifyAt t i f = t := by
  ext j hj
  have e := getElem?_modifyAt t i j f
  have tj : t[j]? = some t[j] := Vector.getElem?_eq_getElem hj
  rw [Vector.getElem?_eq_getElem hj, tj] at e
  by_cases ij : i = j
  · subst ij
    have := h t[i] (by simp [tj])
    simp_all
  · simpa [ij] using e

theorem map_modifyAt {α β : Type} {n : Nat} (t : Vector α n) (i : Nat) (f : α → α) (g : α → β)
    (h : ∀ x, g (f x) = g x) : (modifyAt t i f).map g = t.map g := by
  ext j hj
  have e := getElem?_modifyAt t i j f
  rw [Vector.getElem?_eq_getElem hj, Vector.getElem?_eq_getElem hj] at e
  by_cases ij : i = j
  · subst ij; simp at e; simp [e, h]
  · simp [ij] at e; simp [e]

/-! ### The five tables

`x_modX` says what stands at an index after a change; the two `simp` lemmas after it are its cases. -/

theorem node_modNode (s : State) (i j : Nat) (f : Node → Node) :
    (s.modNode i f).node j = if i = j ∧ j < 64 then f (s.node j) else s.node j := by
  unfold State.node State.modNode
  simp only [getElem?_modifyAt]
  by_cases e : i = j
  · by_cases h : j < 64 <;> simp [e, h]
  · simp [e]

@[simp] theorem node_modNode_self (s : State) (i : Nat) (f : Node → Node) (h : i < 64) :
    (s.modNode i f).node i = f (s.node i) := by simp [node_modNode, h]

@[simp] theorem node_modNode_other (s : State) (i j : Nat) (f : Node → Node) (h : i ≠ j) :
    (s.modNode i f).node j = s.node j := by simp [node_modNode, h]

theorem node_congr {s t : State} (h : t.nodes = s.nodes) (i : Nat) : t.node i = s.node i := by
  unfold State.node; rw [h]

/-- An index beyond the table gives the blank, disabled entry. -/
theorem node_beyond (s : State) (i : Nat) (h : 64 ≤ i) : s.node i = factoryNode := by
  unfold State.node
  rw [Vector.getElem?_eq_none (by omega)]
  rfl

theorem point_modPoint (s : State) (i j : Nat) (f : Point → Point) :
    (s.modPoint i f).point j = if i = j ∧ j < 192 then f (s.point j) else s.point j := by
  unfold State.point State.modPoint
  simp only [getElem?_modifyAt]
  by_cases e : i = j
  · by_cases h : j < 192 <;> simp [e, h]
  · simp [e]

@[simp] theorem point_modPoint_self (s : State) (i : Nat) (f : Point → Point) (h : i < 192) :
    (s.modPoint i f).point i = f (s.point i) := by simp [point_modPoint, h]

@[simp] theorem point_modPoint_other (s : State) (i j : Nat) (f : Point → Point) (h : i ≠ j) :
    (s.modPoint i f).point j = s.point j := by simp [point_modPoint, h]

theorem point_congr {s t : State} (h : t.points = s.points) (i : Nat) : t.point i = s.point i := by
  unfold State.point; rw [h]

/-- An index beyond the table gives the blank, disabled entry. -/
theorem point_beyond (s : State) (i : Nat) (h : 192 ≤ i) : s.point i = factoryPoint := by
  unfold State.point
  rw [Vector.getElem?_eq_none (by omega)]
  rfl

theorem object_modObject (s : State) (i j : Nat) (f : Obj → Obj) :
    (s.modObject i f).object j = if i = j ∧ j < 256 then f (s.object j) else s.object j := by
  unfold State.object State.modObject
  simp only [getElem?_modifyAt]
  by_cases e : i = j
  · by_cases h : j < 256 <;> simp [e, h]
  · simp [e]

@[simp] theorem object_modObject_self (s : State) (i : Nat) (f : Obj → Obj) (h : i < 256) :
    (s.modObject i f).object i = f (s.object i) := by simp [object_modObject, h]

@[simp] theorem object_modObject_other (s : State) (i j : Nat) (f : Obj → Obj) (h : i ≠ j) :
    (s.modObject i f).object j = s.object j := by simp [object_modObject, h]

theorem object_congr {s t : State} (h : t.objects = s.objects) (i : Nat) : t.object i = s.object i := by
  unfold State.object; rw [h]

/-- An index beyond the table gives the blank, disabled entry. -/
theorem object_beyond (s : State) (i : Nat) (h : 256 ≤ i) : s.object i = factoryObject := by
  unfold State.object
  rw [Vector.getElem?_eq_none (by omega)]
  rfl

theorem group_modGroup (s : State) (i j : Nat) (f : Group → Group) :
    (s.modGroup i f).group j = if i = j ∧ j < 48 then f (s.group j) else s.group j := by
  unfold State.group State.modGroup
  simp only [getElem?_modifyAt]
  by_cases e : i = j
  · by_cases h : j < 48 <;> simp [e, h]
  · simp [e]

@[simp] theorem group_modGroup_self (s : State) (i : Nat) (f : Group → Group) (h : i < 48) :
    (s.modGroup i f).group i = f (s.group i) := by simp [group_modGroup, h]

@[simp] theorem group_modGroup_other (s : State) (i j : Nat) (f : Group → Group) (h : i ≠ j) :
    (s.modGroup i f).group j = s.group j := by simp [group_modGroup, h]

theorem group_congr {s t : State} (h : t.groups = s.groups) (i : Nat) : t.group i = s.group i := by
  unfold State.group; rw [h]

/-- An index beyond the table gives the blank, disabled entry. -/
theorem group_beyond (s : State) (i : Nat) (h : 48 ≤ i) : s.group i = factoryGroup := by
  unfold State.group
  rw [Vector.getElem?_eq_none (by omega)]
  rfl

theorem zone_modZone (s : State) (i j : Nat) (f : Zone → Zone) :
    (s.modZone i f).zone j = if i = j ∧ j < 24 then f (s.zone j) else s.zone j := by
  unfold State.zone State.modZone
  simp only [getElem?_modifyAt]
  by_cases e : i = j
  · by_cases h : j < 24 <;> simp [e, h]
  · simp [e]

@[simp] theorem zone_modZone_self (s : State) (i : Nat) (f : Zone → Zone) (h : i < 24) :
    (s.modZone i f).zone i = f (s.zone i) := by simp [zone_modZone, h]

@[simp] theorem zone_modZone_other (s : State) (i j : Nat) (f : Zone → Zone) (h : i ≠ j) :
    (s.modZone i f).zone j = s.zone j := by simp [zone_modZone, h]

theorem zone_congr {s t : State} (h : t.zones = s.zones) (i : Nat) : t.zone i = s.zone i := by
  unfold State.zone; rw [h]

/-- An index beyond the table gives the blank, disabled entry. -/
theorem zone_beyond (s : State) (i : Nat) (h : 24 ≤ i) : s.zone i = factoryZone := by
  unfold State.zone
  rw [Vector.getElem?_eq_none (by omega)]
  rfl

end Sys2Proof.Machine
end

