-- ==== Sys2Proof/Laws/Reports.lean ====
section
/-! SUPPORT. What a report can do: raises, clears, offers to the queues of the plant port and takes of its arbiter change
nothing but what `exceptReports` blanks, and keep the bounds of the queues and of the Condition Table. -/

namespace Sys2Proof.Machine

/-! ### Counters -/

theorem withoutCounters_modifyAt (ids : List CounterId) (c : CounterId) (hc : c ∈ ids) (v : Vector Counter 17)
    (f : Counter → Counter) :
    withoutCounters ids (modifyAt v (counterIndex c) f) = withoutCounters ids v := by
  unfold withoutCounters
  ext i hi
  all_goals
    simp only [Vector.getElem_mapFinIdx]
    by_cases e : counterIndex c = i
    · have : ids.any (fun d => counterIndex d == i) = true :=
        List.any_eq_true.mpr ⟨c, hc, by simp [e]⟩
      simp [this]
    · have h := getElem?_modifyAt v (counterIndex c) i f
      rw [Vector.getElem?_eq_getElem hi, Vector.getElem?_eq_getElem hi] at h
      simp [e] at h
      simp [h]

/-! ### The relation -/

/-- A step of reports from `s` to `t`. -/
structure Reported (s t : State) : Prop where
  frame : exceptReports t = exceptReports s
  queues : QueuesBounded s → QueuesBounded t
  table : TableBounded s → TableBounded t

theorem Reported.refl (s : State) : Reported s s := ⟨rfl, id, id⟩

theorem Reported.trans {s t u : State} (h : Reported s t) (k : Reported t u) : Reported s u :=
  ⟨k.frame.trans h.frame, k.queues ∘ h.queues, k.table ∘ h.table⟩

/-! ### Counting a drop -/

theorem reported_countMany (c : CounterId) (n : Nat) (hc : c ∈ [CounterId.g2pDrops, .plantOriginDrops]) (s : State) :
    Reported s (countMany c n s) where
  frame := by
    simp only [exceptReports, countMany]
    rw [withoutCounters_modifyAt _ _ hc]
  queues h := ⟨h.g2p, h.p2g, h.origin, h.trims⟩
  table h := ⟨h.length, h.keys⟩

theorem reported_count (c : CounterId) (hc : c ∈ [CounterId.g2pDrops, .plantOriginDrops]) (s : State) :
    Reported s (count c s) := reported_countMany c 1 hc s

/-! ### The plant transmit arbiter -/

theorem reported_takeG2p (f : Frame) (rest : List Frame) (s : State) (h : s.g2p = f :: rest) :
    Reported s (takeG2p f rest s) where
  frame := rfl
  queues q := ⟨by have := q.g2p; simp [takeG2p, h] at *; omega, q.p2g, q.origin, q.trims⟩
  table q := ⟨q.length, q.keys⟩

theorem reported_takeOrigin (o : OriginFrame) (rest : List OriginFrame) (s : State) (h : s.plantOrigin = o :: rest) :
    Reported s (takeOrigin o rest s) where
  frame := rfl
  queues q := ⟨q.g2p, q.p2g, by have := q.origin; simp [takeOrigin, h] at *; omega, by
    have t := q.trims
    rw [h, List.filterMap_cons] at t
    show (rest.filterMap trimZone).Nodup
    cases e : trimZone o <;> simp [e] at t
    · exact t
    · exact t.2⟩
  table q := ⟨q.length, q.keys⟩

theorem reported_plantTake (s : State) : Reported s (plantTake s) := by
  unfold plantTake
  split
  · exact .refl s
  · split <;> rename_i hg ho
    · exact .refl s
    · exact reported_takeG2p _ _ _ hg
    · exact reported_takeOrigin _ _ _ ho
    · split
      · exact reported_takeG2p _ _ _ hg
      · exact reported_takeOrigin _ _ _ ho

/-! ### Offers -/

theorem reported_offerG2p (f : Frame) (s : State) : Reported s (offerG2p f s) := by
  unfold offerG2p
  split
  · rename_i h
    refine Reported.trans (t := { s with g2p := s.g2p ++ [f] })
      ⟨rfl, fun q => ⟨?_, q.p2g, q.origin, q.trims⟩, fun q => ⟨q.length, q.keys⟩⟩ (reported_plantTake _)
    simp at h ⊢
    omega
  · exact reported_count _ (by decide) s

theorem reported_dropOrigin (o : OriginFrame) (s : State) (h : o.tag ≠ .reply true) :
    Reported s (dropOrigin o s) := by
  simp only [dropOrigin, h, if_false]
  exact reported_count _ (by decide) s

theorem trimZone_replaced (o w : OriginFrame) (h : replacesTrim o w = true) : trimZone o = trimZone w := by
  unfold replacesTrim at h
  cases ho : o.tag <;> simp [ho] at h
  simp [trimZone, ho, h]

theorem filterMap_trimZone_replace (o : OriginFrame) (l : List OriginFrame) :
    (l.map fun w => if replacesTrim o w then o else w).filterMap trimZone = l.filterMap trimZone := by
  rw [List.filterMap_map]
  congr 1
  funext w
  by_cases h : replacesTrim o w = true
  · simp [h, trimZone_replaced o w h]
  · simp [h]

/-- A TRIM that finds none of its zone to replace is the only one of its zone. -/
theorem trims_append (o : OriginFrame) (l : List OriginFrame) (n : (l.filterMap trimZone).Nodup)
    (h : l.any (replacesTrim o) = false) : ((l ++ [o]).filterMap trimZone).Nodup := by
  rw [List.filterMap_append, List.nodup_append]
  refine ⟨n, by cases e : trimZone o <;> simp [e], ?_⟩
  intro z hz y hy
  cases e : trimZone o with
  | none => simp [e] at hy
  | some z' =>
      simp [e] at hy
      subst hy
      rintro rfl
      obtain ⟨w, hw, hz'⟩ := List.mem_filterMap.mp hz
      have := (List.any_eq_false.mp h) w hw
      cases ho : o.tag <;> cases hwt : w.tag <;> simp_all [trimZone, replacesTrim]

theorem reported_offerOrigin (o : OriginFrame) (s : State) (h : o.tag ≠ .reply true) :
    Reported s (offerOrigin o s) := by
  unfold offerOrigin
  split
  · exact reported_dropOrigin o s h
  · split
    · exact ⟨rfl, fun q => ⟨q.g2p, q.p2g, by simpa using q.origin, by
        simp only [filterMap_trimZone_replace]; exact q.trims⟩, fun q => ⟨q.length, q.keys⟩⟩
    · rename_i n
      split
      · rename_i c
        refine Reported.trans (t := { s with plantOrigin := s.plantOrigin ++ [o] })
          ⟨rfl, fun q => ⟨q.g2p, q.p2g, ?_, ?_⟩, fun q => ⟨q.length, q.keys⟩⟩ (reported_plantTake _)
        · simp; omega
        · exact trims_append o _ q.trims (by simpa using n)
      · exact reported_dropOrigin o s h

theorem reported_report (c : Condition) (raised : Bool) (s : State) : Reported s (report c raised s) := by
  unfold report
  split
  · exact .refl s
  · exact reported_offerOrigin _ s (by simp [conditionFrame])

/-! ### The Condition Table -/

theorem conditionKey_eq (c e : Condition) : sameCondition c.kind c.subject e = true ↔ conditionKey e = conditionKey c := by
  simp [sameCondition, conditionKey]

theorem keys_replace (c : Condition) (l : List Condition) :
    (l.map fun e => if sameCondition c.kind c.subject e then c else e).map conditionKey = l.map conditionKey := by
  rw [List.map_map]
  apply List.map_congr_left
  intro e _
  by_cases h : sameCondition c.kind c.subject e = true
  · simp [h, (conditionKey_eq c e).mp h]
  · simp [h]

theorem keys_append (c : Condition) (l : List Condition) (n : (l.map conditionKey).Nodup)
    (h : l.any (sameCondition c.kind c.subject) = false) : ((l ++ [c]).map conditionKey).Nodup := by
  rw [List.map_append, List.nodup_append]
  refine ⟨n, by simp, ?_⟩
  intro k hk y hy
  simp at hy
  subst hy
  rintro rfl
  obtain ⟨e, he, hk⟩ := List.mem_map.mp hk
  have := (List.any_eq_false.mp h) e he
  exact this ((conditionKey_eq c e).mpr hk)

theorem recordRaise_bounded (c : Condition) (l t : List Condition) (h : recordRaise c l = some t)
    (len : l.length ≤ conditionCapacity) (n : (l.map conditionKey).Nodup) :
    t.length ≤ conditionCapacity ∧ (t.map conditionKey).Nodup := by
  unfold recordRaise at h
  split at h
  · simp at h; subst h
    exact ⟨by simpa using len, by rw [keys_replace]; exact n⟩
  · rename_i absent
    have absent : l.any (sameCondition c.kind c.subject) = false := by simpa using absent
    split at h
    · rename_i room
      simp at h; subst h
      exact ⟨by simp; omega, keys_append c l n absent⟩
    · split at h
      · rename_i old
        simp at h; subst h
        have sub : List.Sublist (l.eraseP fun e => e.state == .latched) l := List.eraseP_sublist
        refine ⟨?_, keys_append c _ (n.sublist (sub.map _)) ?_⟩
        · obtain ⟨e, he, hp⟩ := List.any_eq_true.mp old
          have := List.length_eraseP_of_mem (p := fun e : Condition => e.state == .latched) he hp
          have pos : 0 < l.length := List.length_pos_of_mem he
          simp [this]; omega
        · rw [List.any_eq_false] at absent ⊢
          exact fun e he => absent e (sub.subset he)
      · simp at h

theorem reported_recorded (c : Condition) (s : State) : Reported s (recorded c s) := by
  unfold recorded
  split
  · rename_i table h
    exact ⟨rfl, fun q => ⟨q.g2p, q.p2g, q.origin, q.trims⟩, fun q =>
      ⟨(recordRaise_bounded _ _ _ h q.length q.keys).1, (recordRaise_bounded _ _ _ h q.length q.keys).2⟩⟩
  · exact ⟨rfl, fun q => ⟨q.g2p, q.p2g, q.origin, q.trims⟩, fun q => ⟨q.length, q.keys⟩⟩

theorem reported_latchRaise (k : ConditionKind) (s : State) : Reported s (latchRaise k s) := by
  unfold latchRaise
  split
  · exact .refl s
  · exact ⟨rfl, fun q => ⟨q.g2p, q.p2g, q.origin, q.trims⟩, fun q => ⟨q.length, q.keys⟩⟩

theorem reported_raise (k : ConditionKind) (subject detail : Nat) (s : State) :
    Reported s (raise k subject detail s) :=
  ((reported_recorded _ s).trans (reported_latchRaise k _)).trans (reported_report _ _ _)

theorem keys_latched (k : ConditionKind) (subject : Nat) (l : List Condition) :
    (l.map fun e => if sameCondition k subject e then { e with state := .latched } else e).map conditionKey =
      l.map conditionKey := by
  rw [List.map_map]
  apply List.map_congr_left
  intro e _
  by_cases h : sameCondition k subject e = true <;> simp [h, conditionKey]

theorem reported_latched (k : ConditionKind) (subject : Nat) (s : State) : Reported s (latched k subject s) where
  frame := rfl
  queues q := ⟨q.g2p, q.p2g, q.origin, q.trims⟩
  table q := ⟨by simpa [latched] using q.length, by simp only [latched, keys_latched]; exact q.keys⟩

theorem reported_clear (k : ConditionKind) (subject : Nat) (s : State) : Reported s (clear k subject s) :=
  (reported_latched k subject s).trans (reported_report _ _ _)

theorem reported_clearIf (active : Bool) (k : ConditionKind) (subject : Nat) (s : State) :
    Reported s (clearIf active k subject s) := by
  unfold clearIf
  split
  · exact reported_clear k subject s
  · exact .refl s

theorem reported_follow (k : ConditionKind) (subject detail : Nat) (before after : Bool) (s : State) :
    Reported s (follow k subject detail before after s) := by
  unfold follow
  split
  · exact reported_raise k subject detail s
  · split
    · exact reported_clear k subject s
    · exact .refl s

end Sys2Proof.Machine
end

