-- ==== Sys2Proof/Laws/Evaluation.lean ====
section
/-! SUPPORT. What an evaluation and an echo can do (`Evaluated`): they change nothing but what `exceptEvaluation` blanks,
and keep the bounds of the queues, of the Condition Table and of the groups' levels. -/

namespace Sys2Proof.Machine

/-- The bounds that every change of light control keeps. -/
structure Bounds (s t : State) : Prop where
  queues : QueuesBounded s → QueuesBounded t
  table : TableBounded s → TableBounded t
  levels : LevelsInRange s → LevelsInRange t

theorem Bounds.refl (s : State) : Bounds s s := ⟨id, id, id⟩

theorem Bounds.trans {s t u : State} (h : Bounds s t) (k : Bounds t u) : Bounds s u :=
  ⟨k.queues ∘ h.queues, k.table ∘ h.table, k.levels ∘ h.levels⟩

theorem levelsInRange_congr {s t : State} (h : t.groups = s.groups) (l : LevelsInRange s) : LevelsInRange t :=
  fun g => by rw [group_congr h g]; exact l g

/-- A change that the bounds do not see. -/
theorem bounds_of {s t : State} (g : t.g2p = s.g2p) (p : t.p2g = s.p2g) (o : t.plantOrigin = s.plantOrigin)
    (c : t.conditions = s.conditions) (gr : t.groups = s.groups) : Bounds s t where
  queues q := ⟨g ▸ q.g2p, p ▸ q.p2g, o ▸ q.origin, o ▸ q.trims⟩
  table q := ⟨c ▸ q.length, c ▸ q.keys⟩
  levels := levelsInRange_congr gr

/-- A step of evaluations and echoes from `s` to `t`. -/
structure Evaluated (s t : State) : Prop extends Bounds s t where
  frame : exceptEvaluation t = exceptEvaluation s

theorem Evaluated.refl (s : State) : Evaluated s s := ⟨.refl s, rfl⟩

theorem Evaluated.trans {s t u : State} (h : Evaluated s t) (k : Evaluated t u) : Evaluated s u :=
  ⟨h.toBounds.trans k.toBounds, k.frame.trans h.frame⟩

theorem exceptEvaluation_exceptReports (s : State) :
    { exceptReports s with
      galleryOrigin := [], groups := (exceptReports s).groups.map groupSettings,
      zones := (exceptReports s).zones.map zoneSettings } = exceptEvaluation s := rfl

theorem Reported.evaluated {s t : State} (h : Reported s t) : Evaluated s t where
  queues := h.queues
  table := h.table
  levels := levelsInRange_congr (congrArg State.groups h.frame :)
  frame := by rw [← exceptEvaluation_exceptReports t, h.frame, exceptEvaluation_exceptReports]

/-! ### The plain changes -/

theorem levelsInRange_modGroup {s : State} {i : Nat} {f : Group → Group}
    (h : levelLegal (s.group i) → levelLegal (f (s.group i))) (l : LevelsInRange s) :
    LevelsInRange (s.modGroup i f) := by
  intro j
  rw [group_modGroup]
  split
  · rename_i e
    obtain ⟨rfl, _⟩ := e
    exact h (l i)
  · exact l j

theorem evaluated_modGroup (s : State) (i : Nat) (f : Group → Group) (h : ∀ g, groupSettings (f g) = groupSettings g)
    (l : levelLegal (s.group i) → levelLegal (f (s.group i))) : Evaluated s (s.modGroup i f) where
  queues q := ⟨q.g2p, q.p2g, q.origin, q.trims⟩
  table q := ⟨q.length, q.keys⟩
  levels := levelsInRange_modGroup l
  frame := by
    simp only [exceptEvaluation, exceptReports, groups_modGroup, map_modifyAt _ _ _ _ h]
    rfl

theorem evaluated_evalPending (s : State) (z : Nat) (b : Bool) :
    Evaluated s (s.modZone z fun zn => { zn with evalPending := b }) where
  toBounds := bounds_of rfl rfl rfl rfl rfl
  frame := by
    simp only [exceptEvaluation, exceptReports, zones_modZone,
      map_modifyAt _ z (fun zn : Zone => { zn with evalPending := b }) zoneSettings (fun _ => rfl)]
    rfl

theorem evaluated_foldl {α : Type} (f : State → α → State) (h : ∀ s a, Evaluated s (f s a)) (l : List α) (s : State) :
    Evaluated s (l.foldl f s) := by
  induction l generalizing s with
  | nil => exact .refl s
  | cons a l ih => exact (h s a).trans (ih _)

theorem evaluated_forEach (n : Nat) (f : Nat → State → State) (h : ∀ i s, Evaluated s (f i s)) (s : State) :
    Evaluated s (forEach n f s) := evaluated_foldl _ (fun s i => h i s) _ s

/-! ### Ratios -/

theorem evaluated_judgeLamp (z g : Nat) (s : State) : Evaluated s (judgeLamp z g s) := by
  unfold judgeLamp
  split
  · exact (evaluated_modGroup s g _ (by intro g; rfl) (by exact id)).trans (reported_follow _ _ _ _ _ _).evaluated
  · exact .refl s

theorem evaluated_storeShadeRatio (z : Nat) (s : State) : Evaluated s (storeShadeRatio z s) := by
  unfold storeShadeRatio
  split
  · exact evaluated_modGroup s _ _ (by intro g; rfl) (by exact id)
  · exact .refl s

theorem evaluated_judgeRatios (z : Nat) (s : State) : Evaluated s (judgeRatios z s) :=
  (evaluated_storeShadeRatio z s).trans (evaluated_foldl _ (fun s g => evaluated_judgeLamp z g s) _ _)

/-! ### Targets lie within 0 to 1000 and within the cap (R109) -/

theorem effHi_le (g : Group) (l : levelLegal g) : effHi g ≤ 1000 ∧ ∀ c, g.cap = some c → effHi g ≤ c := by
  obtain ⟨_, hi, _⟩ := l
  unfold effHi
  split
  · rename_i c e
    rw [e]
    exact ⟨by omega, fun c' h => by simp at h; omega⟩
  · rename_i e
    simp [e, hi]

theorem capLimit_le (g : Group) (t : Nat) (h : t ≤ 1000) :
    capLimit g t ≤ 1000 ∧ ∀ c, g.cap = some c → capLimit g t ≤ c := by
  unfold capLimit
  split
  · rename_i c e
    rw [e]
    exact ⟨by omega, fun c' h => by simp at h; omega⟩
  · rename_i e
    simp [e, h]

theorem closedTarget_le (g : Group) (d : Bool) (l : levelLegal g) : closedTarget g d ≤ 1000 := by
  obtain ⟨h1, h2, h3, _⟩ := l
  unfold closedTarget
  split
  · omega
  · split <;> omega

theorem target_le (s : State) (z g : Nat) (l : LevelsInRange s) :
    target s z g ≤ 1000 ∧ ∀ c, (s.group g).cap = some c → target s z g ≤ c := by
  have lg := l g
  obtain ⟨e1, e2⟩ := effHi_le _ lg
  unfold target
  dsimp only
  split
  · exact ⟨lg.2.2.2.1, lg.2.2.2.2⟩
  · split
    · exact ⟨by omega, fun c h => by have := e2 c h; omega⟩
    · exact capLimit_le _ _ (closedTarget_le _ _ lg)
    · exact capLimit_le _ _ (closedTarget_le _ _ lg)

/-! ### Commanding and evaluation -/

theorem evaluated_changeJudged (g : Nat) (f : Group → Group) (h : ∀ g, groupSettings (f g) = groupSettings g)
    (l : ∀ g, levelLegal g → levelLegal (f g)) (s : State) : Evaluated s (changeJudged g f s) :=
  (evaluated_modGroup s g f h (l _)).trans (reported_follow _ _ _ _ _ _).evaluated

/-- R110: a target keeps the level's bounds where it lies within them. -/
def TargetLegal (s : State) (g t : Nat) : Prop := t ≤ 1000 ∧ ∀ c, (s.group g).cap = some c → t ≤ c

theorem commandGroup_frame (g t : Nat) (s : State) :
    exceptEvaluation (commandGroup g t s) = exceptEvaluation s ∧ (QueuesBounded s → QueuesBounded (commandGroup g t s)) ∧
      (TableBounded s → TableBounded (commandGroup g t s)) ∧
      (TargetLegal s g t → LevelsInRange s → LevelsInRange (commandGroup g t s)) := by
  unfold commandGroup
  split
  · exact ⟨rfl, id, id, fun _ => id⟩
  · split
    · refine ⟨?_, fun q => ⟨q.g2p, q.p2g, q.origin, q.trims⟩, fun q => ⟨q.length, q.keys⟩, fun h l => ?_⟩
      · simp only [exceptEvaluation, exceptReports, groups_modGroup,
          map_modifyAt _ g (fun gr : Group => { gr with level := t, phase := .queued }) groupSettings (fun _ => rfl)]
        rfl
      · exact levelsInRange_congr (s := s.modGroup g fun gr => { gr with level := t, phase := .queued }) rfl
          (levelsInRange_modGroup (fun k => ⟨k.1, k.2.1, k.2.2.1, h.1, h.2⟩) l)
    · have := evaluated_changeJudged g (fun gr => { gr with resend := true, unavailable := true })
        (by intro g; rfl) (by intro _; exact id) s
      exact ⟨this.frame, this.queues, this.table, fun _ => this.levels⟩

theorem groups_followed (k : ConditionKind) (a d : Nat) (x y : Bool) (s : State) : (follow k a d x y s).groups = s.groups :=
  (congrArg State.groups (reported_follow k a d x y s).frame :)

theorem cap_commandGroup (g t : Nat) (s : State) (h : Nat) : ((commandGroup g t s).group h).cap = (s.group h).cap := by
  unfold commandGroup
  split
  · rfl
  · split
    · show ((s.modGroup g _).group h).cap = _
      rw [group_modGroup]
      split <;> rfl
    · unfold changeJudged
      dsimp only
      rw [group_congr (groups_followed ..), group_modGroup]
      split <;> rfl

theorem commandAll (l : List (Nat × Nat)) (s : State)
    (h : LevelsInRange s → ∀ gt ∈ l, TargetLegal s gt.1 gt.2) :
    Evaluated s (l.foldl (fun s gt => commandGroup gt.1 gt.2 s) s) := by
  have frame : exceptEvaluation (l.foldl (fun s gt => commandGroup gt.1 gt.2 s) s) = exceptEvaluation s ∧
      (QueuesBounded s → QueuesBounded (l.foldl (fun s gt => commandGroup gt.1 gt.2 s) s)) ∧
      (TableBounded s → TableBounded (l.foldl (fun s gt => commandGroup gt.1 gt.2 s) s)) := by
    clear h
    induction l generalizing s with
    | nil => exact ⟨rfl, id, id⟩
    | cons a l ih =>
        obtain ⟨f, q, t, _⟩ := commandGroup_frame a.1 a.2 s
        obtain ⟨f', q', t'⟩ := ih (commandGroup a.1 a.2 s)
        exact ⟨f'.trans f, q' ∘ q, t' ∘ t⟩
  refine ⟨⟨frame.2.1, frame.2.2, fun lv => ?_⟩, frame.1⟩
  have legal := h lv
  clear frame h
  induction l generalizing s with
  | nil => exact lv
  | cons a l ih =>
      refine ih _ ((commandGroup_frame a.1 a.2 s).2.2.2 (legal a (List.mem_cons_self ..)) lv) fun gt hgt => ?_
      have := legal gt (List.mem_cons_of_mem _ hgt)
      exact ⟨this.1, by rw [cap_commandGroup]; exact this.2⟩

theorem evaluated_evaluate (z : Nat) (s : State) : Evaluated s (evaluate z s) := by
  refine (evaluated_judgeRatios z s).trans (commandAll _ _ fun lv gt hgt => ?_)
  obtain ⟨g, _, rfl⟩ := List.mem_map.mp hgt
  exact target_le _ z g lv

theorem evaluated_requestCore (z : Nat) (s : State) : Evaluated s (requestCore z s) := by
  unfold requestCore
  split
  · exact evaluated_evaluate z s
  · exact evaluated_evalPending s z true

theorem evaluated_rejudgeZone (z : Nat) (s : State) : Evaluated s (rejudgeZone z s) := by
  unfold rejudgeZone
  split
  · exact (evaluated_evalPending s z false).trans (evaluated_evaluate z _)
  · exact .refl s

/-! ### The life of an own command, and echoes -/

theorem evaluated_declineCommand (g : Nat) (s : State) : Evaluated s (declineCommand g s) :=
  (evaluated_changeJudged g _ (by intro g; rfl) (by intro _; exact id) s).trans (evaluated_rejudgeZone _ _)

theorem evaluated_commandExpiry (g : Nat) (s : State) : Evaluated s (commandExpiry g s) := by
  unfold commandExpiry
  split
  · exact (evaluated_changeJudged g _ (by intro g; rfl) (by intro _; exact id) s).trans (evaluated_rejudgeZone _ _)
  · exact .refl s

theorem evaluated_commandCancelled (g : Nat) (s : State) : Evaluated s (commandCancelled g s) := by
  unfold commandCancelled
  split
  · exact (evaluated_modGroup s g _ (by intro g; rfl) (by exact id)).trans (evaluated_rejudgeZone _ _)
  · exact .refl s

theorem evaluated_mismatchTest (g : Nat) (s : State) : Evaluated s (mismatchTest g s) := by
  unfold mismatchTest
  dsimp only
  split
  · exact ((evaluated_modGroup s g _ (by intro g; rfl) (by exact id)).trans (reported_raise _ _ _ _).evaluated).trans
      (evaluated_requestCore _ _)
  · split
    · exact (evaluated_modGroup s g _ (by intro g; rfl) (by exact id)).trans (reported_clear _ _ _).evaluated
    · exact .refl s

theorem evaluated_mismatchRelief (g : Nat) (s : State) : Evaluated s (mismatchRelief g s) := by
  unfold mismatchRelief
  dsimp only
  split
  · exact (evaluated_modGroup s g _ (by intro g; rfl) (by exact id)).trans (reported_clear _ _ _).evaluated
  · exact .refl s

theorem evaluated_takeApplied (g level : Nat) (s : State) : Evaluated s (takeApplied g level s) :=
  evaluated_changeJudged g _ (by intro g; rfl) (by intro _; exact id) s

theorem evaluated_pollEchoEntry (n : Nat) (x : Option Nat) (s : State) (e : EchoEntry) :
    Evaluated s (pollEchoEntry n x s e) := by
  unfold pollEchoEntry
  split
  · split
    · exact .refl s
    · exact (evaluated_takeApplied _ _ s).trans (evaluated_mismatchTest _ _)
  · exact .refl s

theorem evaluated_pollEcho (n : Nat) (entries : List EchoEntry) (s : State) : Evaluated s (pollEcho n entries s) :=
  evaluated_foldl _ (evaluated_pollEchoEntry n none) entries s

theorem evaluated_forwardedEcho (node : Option Nat) (src : Byte) (entries : List EchoEntry) (s : State) :
    Evaluated s (forwardedEcho node src entries s) :=
  evaluated_foldl _ (fun s _ => evaluated_foldl _ (fun s _ =>
    (evaluated_takeApplied _ _ s).trans (evaluated_mismatchRelief _ _)) _ s) entries s

theorem evaluated_ownEchoGroup (g : Nat) (entries : List EchoEntry) (s : State) :
    Evaluated s (ownEchoGroup g entries s) := by
  unfold ownEchoGroup
  split
  · split
    · exact (evaluated_changeJudged g _ (by intro g; rfl) (by intro _; exact id) s).trans (evaluated_mismatchTest _ _)
    · exact evaluated_commandExpiry g s
  · exact .refl s

theorem evaluated_ownEcho (g : Nat) (node : Option Nat) (entries : List EchoEntry) (s : State) :
    Evaluated s (ownEcho g node entries s) := by
  unfold ownEcho
  dsimp only
  split
  · exact (evaluated_ownEchoGroup g entries s).trans (evaluated_foldl _ (evaluated_pollEchoEntry _ _) entries _)
  · exact evaluated_ownEchoGroup g entries s

/-! ### Building-side commands -/

/-- R120: the level of every group reached is at most 1000 and, where a cap is set, at most the cap. -/
theorem evaluated_capGroup (requested level : Nat) (h : level ≤ 1000) (k : level ≤ requested) (s : State) (g : Nat) :
    Evaluated s (capGroup requested level s g) := by
  have m : Evaluated s (s.modGroup g fun gr =>
      { gr with
        cap := capOfRequest requested
        level := level
        phase := match gr.phase with
          | .queued => .queued
          | .sent => .sent
          | .idle => .settling (settleEnd s gr)
          | .settling _ => .settling (settleEnd s gr) }) := by
    refine evaluated_modGroup s g _ (by intro g; rfl) fun l => ⟨l.1, l.2.1, l.2.2.1, h, fun c e => ?_⟩
    show level ≤ c
    change capOfRequest requested = some c at e
    unfold capOfRequest at e
    split at e <;> simp at e
    omega
  unfold capGroup
  dsimp only
  split
  · exact m.trans (evaluated_requestCore _ _)
  · exact m

theorem forwardedLevel_le (s : State) (reached : List Nat) (requested : Nat) :
    forwardedLevel s reached requested ≤ 1000 ∧ forwardedLevel s reached requested ≤ requested ∧
      ∀ g ∈ reached, forwardedLevel s reached requested ≤ (s.group g).level := by
  unfold forwardedLevel
  have fold : ∀ (l : List Nat) (m : Nat), l.foldl (fun m g => min m (s.group g).level) m ≤ m ∧
      ∀ g ∈ l, l.foldl (fun m g => min m (s.group g).level) m ≤ (s.group g).level := by
    intro l
    induction l with
    | nil => intro m; simp
    | cons a l ih =>
        intro m
        obtain ⟨h1, h2⟩ := ih (min m (s.group a).level)
        simp only [List.foldl_cons]
        refine ⟨by omega, fun g hg => ?_⟩
        rcases List.mem_cons.mp hg with rfl | hg
        · omega
        · exact h2 g hg
  obtain ⟨h1, h2⟩ := fold reached (min 1000 requested)
  exact ⟨by omega, by omega, h2⟩

theorem evaluated_capGroups (requested level : Nat) (h : level ≤ 1000) (k : level ≤ requested) (l : List Nat)
    (s : State) : Evaluated s (l.foldl (capGroup requested level) s) :=
  evaluated_foldl _ (fun s g => evaluated_capGroup requested level h k s g) l s

/-! ### A node that can be reached again, and the removal of a cap -/

theorem evaluated_relieveGroup (n g : Nat) (s : State) : Evaluated s (relieveGroup n g s) := by
  unfold relieveGroup
  split
  · exact (evaluated_changeJudged g _ (by intro g; rfl) (by intro _; exact id) s).trans (evaluated_requestCore _ _)
  · exact .refl s

theorem evaluated_nodeBack (n : Nat) (s : State) : Evaluated s (nodeBack n s) :=
  evaluated_forEach 48 _ (evaluated_relieveGroup n) s

theorem evaluated_capClear (g : Nat) (s : State) : Evaluated s (capClear g s) := by
  unfold capClear
  split
  · exact (evaluated_modGroup s g _ (by intro g; rfl)
      (fun l => ⟨l.1, l.2.1, l.2.2.1, l.2.2.2.1, by simp⟩)).trans (evaluated_requestCore _ _)
  · exact .refl s

end Sys2Proof.Machine
end

