-- ==== Sys2Proof/Laws/Grants.lean ====
section
/-! SUPPORT. What a grant of the gallery line can do (`Lit`): it changes nothing but what `exceptLight` blanks, and keeps
the bounds of the queues, of the Condition Table and of the groups' levels. At a line that is not FREE it does
nothing. -/

namespace Sys2Proof.Machine

/-- A step of light control and of grants from `s` to `t`. -/
structure Lit (s t : State) : Prop extends Bounds s t where
  frame : exceptLight t = exceptLight s

theorem Lit.refl (s : State) : Lit s s := ⟨.refl s, rfl⟩

theorem Lit.trans {s t u : State} (h : Lit s t) (k : Lit t u) : Lit s u :=
  ⟨h.toBounds.trans k.toBounds, k.frame.trans h.frame⟩

theorem withoutCounters_mono (ids more : List CounterId) (h : ids ⊆ more) (v : Vector Counter 17) :
    withoutCounters more (withoutCounters ids v) = withoutCounters more v := by
  unfold withoutCounters
  ext i hi
  all_goals
    simp only [Vector.getElem_mapFinIdx]
    by_cases e : more.any (fun d => counterIndex d == i) = true
    · simp [e]
    · have : ids.any (fun d => counterIndex d == i) = false := by
        rw [Bool.not_eq_true, List.any_eq_false] at e
        rw [List.any_eq_false]
        exact fun x hx => e x (h hx)
      simp [e, this]

theorem groupSettings_twice (v : Vector Group 48) : (v.map groupSettings).map groupSettings = v.map groupSettings := by
  rw [Vector.map_map]; rfl

theorem zoneSettings_twice (v : Vector Zone 24) : (v.map zoneSettings).map zoneSettings = v.map zoneSettings := by
  rw [Vector.map_map]; rfl

theorem exceptLight_exceptEvaluation (s : State) : exceptLight (exceptEvaluation s) = exceptLight s := by
  simp only [exceptLight, exceptEvaluation, exceptReports]
  rw [withoutCounters_mono _ _ (by decide), groupSettings_twice, zoneSettings_twice]

theorem Evaluated.lit {s t : State} (h : Evaluated s t) : Lit s t where
  toBounds := h.toBounds
  frame := by rw [← exceptLight_exceptEvaluation t, h.frame, exceptLight_exceptEvaluation]

theorem Reported.lit {s t : State} (h : Reported s t) : Lit s t := h.evaluated.lit

/-! ### The plain changes -/

theorem lit_count (c : CounterId) (hc : c ∈ grantCounters) (s : State) : Lit s (count c s) where
  toBounds := bounds_of rfl rfl rfl rfl rfl
  frame := by
    simp only [exceptLight, count, countMany]
    rw [withoutCounters_modifyAt _ _ hc]

/-- A change that `exceptLight` and the bounds do not see. -/
theorem lit_of (s t : State) (f : exceptLight t = exceptLight s) (g : t.g2p = s.g2p) (p : t.p2g = s.p2g)
    (o : t.plantOrigin = s.plantOrigin) (c : t.conditions = s.conditions) (gr : t.groups = s.groups) : Lit s t :=
  ⟨bounds_of g p o c gr, f⟩

theorem lit_foldl {α : Type} (f : State → α → State) (h : ∀ s a, Lit s (f s a)) (l : List α) (s : State) :
    Lit s (l.foldl f s) := by
  induction l generalizing s with
  | nil => exact .refl s
  | cons a l ih => exact (h s a).trans (ih _)

theorem lit_forEach (n : Nat) (f : Nat → State → State) (h : ∀ i s, Lit s (f i s)) (s : State) :
    Lit s (forEach n f s) := lit_foldl _ (fun s i => h i s) _ s

/-! ### Building-side commands -/

theorem lit_presentLevel (f : Frame) (s : State) : Lit s (presentLevel f s).1 := by
  unfold presentLevel
  split
  · exact .refl s
  · dsimp only
    split
    · split
      · exact lit_count _ (by decide) s
      · exact .refl s
    · split
      · exact .refl s
      · split
        · exact lit_count _ (by decide) s
        · obtain ⟨h1, h2, _⟩ := forwardedLevel_le s (groupsReached s f.dest _) _
          refine Lit.trans ?_ (evaluated_capGroups _ _ h1 h2 _ _).lit
          split
          · exact .refl s
          · exact lit_count _ (by decide) s

/-! ### Sending -/

theorem lit_abandonForDrive (s : State) : Lit s (abandonForDrive s) := by
  unfold abandonForDrive
  split
  · exact .refl s
  · exact (lit_of s { s with galleryAsm := .hunt } rfl rfl rfl rfl rfl rfl).trans (lit_count _ (by decide) _)

theorem lit_startSending (kind : TransactionKind) (f : Frame) (awaited accepts : Option Byte) (s : State) :
    Lit s (startSending kind f awaited accepts s) :=
  (lit_abandonForDrive s).trans (lit_of _ _ rfl rfl rfl rfl rfl rfl)

theorem lit_sendOwn (kind : TransactionKind) (dest frameKind : Byte) (payload : List Byte) (accepts : Byte)
    (s : State) : Lit s (sendOwn kind dest frameKind payload accepts s) :=
  (lit_of s { s with gallerySeq := s.gallerySeq + 1 } rfl rfl rfl rfl rfl rfl).trans (lit_startSending _ _ _ _ _)

/-! ### Grants -/

theorem lit_presentCommand (g : Nat) (s : State) : Lit s (presentCommand g s) := by
  unfold presentCommand
  dsimp only
  split
  · exact (evaluated_modGroup s g _ (by intro g; rfl) (by exact id)).lit.trans (lit_sendOwn _ _ _ _ _ _)
  · exact (evaluated_declineCommand g s).lit

theorem lit_grantCommand (s : State) : Lit s (grantCommand s) := by
  unfold grantCommand
  split
  · exact .refl s
  · rename_i g rest _
    exact (lit_of s { s with galleryOrigin := rest } rfl rfl rfl rfl rfl rfl).trans (lit_presentCommand g _)

theorem lit_presentForward (f : Frame) (s : State) : Lit s (presentForward f s) := by
  unfold presentForward
  split
  · have h := lit_presentLevel f s
    split <;> rename_i e <;> rw [e] at h
    · exact h.trans (lit_startSending _ _ _ _ _)
    · exact h
  · exact lit_startSending _ _ _ _ _

theorem lit_grantForward (s : State) : Lit s (grantForward s) := by
  unfold grantForward
  split
  · exact .refl s
  · rename_i f rest h
    refine Lit.trans (t := { s with p2g := rest }) ⟨⟨fun q => ⟨q.g2p, ?_, q.origin, q.trims⟩,
      fun q => ⟨q.length, q.keys⟩, levelsInRange_congr rfl⟩, rfl⟩ (lit_presentForward f _)
    have := q.p2g
    simp [h] at this ⊢
    omega

theorem lit_grantPoll (s : State) : Lit s (grantPoll s) := by
  unfold grantPoll
  split
  · exact .refl s
  · dsimp only
    split
    · exact (lit_count _ (by decide) s).trans (lit_sendOwn _ _ _ _ _ _)
    · exact lit_sendOwn _ _ _ _ _ _

theorem lit_grantOnce (c : GrantClass) (s : State) : Lit s (grantOnce c s) := by
  refine (lit_of s { s with pointer := classAfter c } rfl rfl rfl rfl rfl rfl).trans ?_
  cases c
  · exact lit_grantCommand _
  · exact lit_grantForward _
  · exact lit_grantPoll _

theorem lit_grantLoop (fuel : Nat) (s : State) : Lit s (grantLoop fuel s) := by
  induction fuel generalizing s with
  | zero => exact .refl s
  | succ n ih =>
      unfold grantLoop
      split
      · split
        · exact .refl s
        · exact (lit_grantOnce _ s).trans (ih _)
      · exact .refl s

theorem lit_grant (s : State) : Lit s (grant s) := lit_grantLoop _ s

theorem lit_grantJoined (s : State) : Lit s (grantJoined s) := by
  unfold grantJoined
  split
  · exact .refl s
  · exact lit_grant s

theorem lit_requestEvaluation (z : Nat) (s : State) : Lit s (requestEvaluation z s) :=
  (evaluated_requestCore z s).lit.trans (lit_grantJoined _)

theorem lit_rejudge (z : Nat) (s : State) : Lit s (rejudge z s) :=
  (evaluated_rejudgeZone z s).lit.trans (lit_grantJoined _)

/-! ### A line that is not FREE, and one with nothing to grant -/

theorem lineFree_iff (s : State) : lineFree s = true ↔ s.line = .free := by simp [lineFree]

theorem grantLoop_of_not_free (fuel : Nat) (s : State) (h : s.line ≠ .free) : grantLoop fuel s = s := by
  cases fuel with
  | zero => rfl
  | succ n => simp [grantLoop, (lineFree_iff s).not.mpr h]

theorem grant_of_not_free (s : State) (h : s.line ≠ .free) : grant s = s := grantLoop_of_not_free _ s h

theorem grantJoined_of_not_free (s : State) (h : s.line ≠ .free) : grantJoined s = s := by
  unfold grantJoined
  split
  · rfl
  · exact grant_of_not_free s h

theorem grant_of_none (s : State) (h : chosenClass s = none) : grant s = s := by
  unfold grant grantLoop
  split
  · rw [h]
  · rfl

/-- One grant that sends ends the grants. -/
theorem grant_of_sent (s : State) (c : GrantClass) (h : s.line = .free) (hc : chosenClass s = some c)
    (sent : (grantOnce c s).line ≠ .free) : grant s = grantOnce c s := by
  unfold grant grantLoop
  rw [if_pos ((lineFree_iff s).mpr h), hc]
  exact grantLoop_of_not_free _ _ sent

/-! ### The events of the line -/

theorem lit_beginTurnaround (s : State) : Lit s (beginTurnaround s) := lit_of _ _ rfl rfl rfl rfl rfl rfl

theorem lit_galleryTransmitComplete (s : State) : Lit s (galleryTransmitComplete s) := by
  unfold galleryTransmitComplete
  split
  · split <;> first | exact .refl s | exact lit_of _ _ rfl rfl rfl rfl rfl rfl
  · exact .refl s

theorem lit_turnaroundEnd (s : State) : Lit s (turnaroundEnd s) := by
  unfold turnaroundEnd
  split
  · exact (lit_of s { s with line := .free } rfl rfl rfl rfl rfl rfl).trans (lit_grant _)
  · exact .refl s

theorem lit_settleExpiry (g : Nat) (s : State) : Lit s (settleExpiry g s) := by
  unfold settleExpiry
  split
  · exact (evaluated_modGroup s g _ (by intro g; rfl) (by exact id)).lit.trans (lit_rejudge _ _)
  · exact .refl s

end Sys2Proof.Machine
end

