-- ==== Sys2Proof/Laws/Fields.lean ====
section
/-! SUPPORT. The fields that reports, evaluations and grants leave as they were: as projections of `Reported`,
`Evaluated` and `Lit`, and as `simp` lemmas for the operations that meanings call. -/

namespace Sys2Proof.Machine

/-! ### Projections -/

theorem Reported.pending {s t : State} (h : Reported s t) : t.pending = s.pending := (congrArg State.pending h.frame :)
theorem Reported.handed {s t : State} (h : Reported s t) : t.handed = s.handed := (congrArg State.handed h.frame :)
theorem Reported.freeCount {s t : State} (h : Reported s t) : t.freeCount = s.freeCount := (congrArg State.freeCount h.frame :)
theorem Reported.now {s t : State} (h : Reported s t) : t.now = s.now := (congrArg State.now h.frame :)
theorem Reported.loading {s t : State} (h : Reported s t) : t.loading = s.loading := (congrArg State.loading h.frame :)
theorem Reported.pins {s t : State} (h : Reported s t) : t.pins = s.pins := (congrArg State.pins h.frame :)
theorem Reported.device {s t : State} (h : Reported s t) : t.device = s.device := (congrArg State.device h.frame :)
theorem Reported.calendar {s t : State} (h : Reported s t) : t.calendar = s.calendar := (congrArg State.calendar h.frame :)
theorem Reported.nodes {s t : State} (h : Reported s t) : t.nodes = s.nodes := (congrArg State.nodes h.frame :)
theorem Reported.points {s t : State} (h : Reported s t) : t.points = s.points := (congrArg State.points h.frame :)
theorem Reported.objects {s t : State} (h : Reported s t) : t.objects = s.objects := (congrArg State.objects h.frame :)
theorem Reported.groups {s t : State} (h : Reported s t) : t.groups = s.groups := (congrArg State.groups h.frame :)
theorem Reported.zones {s t : State} (h : Reported s t) : t.zones = s.zones := (congrArg State.zones h.frame :)
theorem Reported.degraded {s t : State} (h : Reported s t) : t.degraded = s.degraded := (congrArg State.degraded h.frame :)
theorem Reported.galleryAsm {s t : State} (h : Reported s t) : t.galleryAsm = s.galleryAsm := (congrArg State.galleryAsm h.frame :)
theorem Reported.plantAsm {s t : State} (h : Reported s t) : t.plantAsm = s.plantAsm := (congrArg State.plantAsm h.frame :)
theorem Reported.gallerySeq {s t : State} (h : Reported s t) : t.gallerySeq = s.gallerySeq := (congrArg State.gallerySeq h.frame :)
theorem Reported.p2g {s t : State} (h : Reported s t) : t.p2g = s.p2g := (congrArg State.p2g h.frame :)
theorem Reported.line {s t : State} (h : Reported s t) : t.line = s.line := (congrArg State.line h.frame :)
theorem Reported.pointer {s t : State} (h : Reported s t) : t.pointer = s.pointer := (congrArg State.pointer h.frame :)
theorem Reported.galleryOrigin {s t : State} (h : Reported s t) : t.galleryOrigin = s.galleryOrigin := (congrArg State.galleryOrigin h.frame :)
theorem Reported.pollList {s t : State} (h : Reported s t) : t.pollList = s.pollList := (congrArg State.pollList h.frame :)
theorem Reported.cursors {s t : State} (h : Reported s t) : t.cursors = s.cursors := (congrArg State.cursors h.frame :)
theorem Reported.procedure {s t : State} (h : Reported s t) : t.procedure = s.procedure := (congrArg State.procedure h.frame :)
theorem Reported.supervision {s t : State} (h : Reported s t) : t.supervision = s.supervision := (congrArg State.supervision h.frame :)
theorem Reported.store {s t : State} (h : Reported s t) : t.store = s.store := (congrArg State.store h.frame :)
theorem Reported.save {s t : State} (h : Reported s t) : t.save = s.save := (congrArg State.save h.frame :)
theorem Reported.restartWaiting {s t : State} (h : Reported s t) : t.restartWaiting = s.restartWaiting := (congrArg State.restartWaiting h.frame :)
theorem Reported.faulty {s t : State} (h : Reported s t) : t.faulty = s.faulty := (congrArg State.faulty h.frame :)
theorem Reported.imageFaultRaised {s t : State} (h : Reported s t) : t.imageFaultRaised = s.imageFaultRaised := (congrArg State.imageFaultRaised h.frame :)

theorem Evaluated.pending {s t : State} (h : Evaluated s t) : t.pending = s.pending := (congrArg State.pending h.frame :)
theorem Evaluated.handed {s t : State} (h : Evaluated s t) : t.handed = s.handed := (congrArg State.handed h.frame :)
theorem Evaluated.freeCount {s t : State} (h : Evaluated s t) : t.freeCount = s.freeCount := (congrArg State.freeCount h.frame :)
theorem Evaluated.now {s t : State} (h : Evaluated s t) : t.now = s.now := (congrArg State.now h.frame :)
theorem Evaluated.loading {s t : State} (h : Evaluated s t) : t.loading = s.loading := (congrArg State.loading h.frame :)
theorem Evaluated.pins {s t : State} (h : Evaluated s t) : t.pins = s.pins := (congrArg State.pins h.frame :)
theorem Evaluated.device {s t : State} (h : Evaluated s t) : t.device = s.device := (congrArg State.device h.frame :)
theorem Evaluated.calendar {s t : State} (h : Evaluated s t) : t.calendar = s.calendar := (congrArg State.calendar h.frame :)
theorem Evaluated.nodes {s t : State} (h : Evaluated s t) : t.nodes = s.nodes := (congrArg State.nodes h.frame :)
theorem Evaluated.points {s t : State} (h : Evaluated s t) : t.points = s.points := (congrArg State.points h.frame :)
theorem Evaluated.objects {s t : State} (h : Evaluated s t) : t.objects = s.objects := (congrArg State.objects h.frame :)
theorem Evaluated.degraded {s t : State} (h : Evaluated s t) : t.degraded = s.degraded := (congrArg State.degraded h.frame :)
theorem Evaluated.galleryAsm {s t : State} (h : Evaluated s t) : t.galleryAsm = s.galleryAsm := (congrArg State.galleryAsm h.frame :)
theorem Evaluated.plantAsm {s t : State} (h : Evaluated s t) : t.plantAsm = s.plantAsm := (congrArg State.plantAsm h.frame :)
theorem Evaluated.gallerySeq {s t : State} (h : Evaluated s t) : t.gallerySeq = s.gallerySeq := (congrArg State.gallerySeq h.frame :)
theorem Evaluated.p2g {s t : State} (h : Evaluated s t) : t.p2g = s.p2g := (congrArg State.p2g h.frame :)
theorem Evaluated.line {s t : State} (h : Evaluated s t) : t.line = s.line := (congrArg State.line h.frame :)
theorem Evaluated.pointer {s t : State} (h : Evaluated s t) : t.pointer = s.pointer := (congrArg State.pointer h.frame :)
theorem Evaluated.pollList {s t : State} (h : Evaluated s t) : t.pollList = s.pollList := (congrArg State.pollList h.frame :)
theorem Evaluated.cursors {s t : State} (h : Evaluated s t) : t.cursors = s.cursors := (congrArg State.cursors h.frame :)
theorem Evaluated.procedure {s t : State} (h : Evaluated s t) : t.procedure = s.procedure := (congrArg State.procedure h.frame :)
theorem Evaluated.supervision {s t : State} (h : Evaluated s t) : t.supervision = s.supervision := (congrArg State.supervision h.frame :)
theorem Evaluated.store {s t : State} (h : Evaluated s t) : t.store = s.store := (congrArg State.store h.frame :)
theorem Evaluated.save {s t : State} (h : Evaluated s t) : t.save = s.save := (congrArg State.save h.frame :)
theorem Evaluated.restartWaiting {s t : State} (h : Evaluated s t) : t.restartWaiting = s.restartWaiting := (congrArg State.restartWaiting h.frame :)
theorem Evaluated.faulty {s t : State} (h : Evaluated s t) : t.faulty = s.faulty := (congrArg State.faulty h.frame :)
theorem Evaluated.imageFaultRaised {s t : State} (h : Evaluated s t) : t.imageFaultRaised = s.imageFaultRaised := (congrArg State.imageFaultRaised h.frame :)

theorem Lit.pending {s t : State} (h : Lit s t) : t.pending = s.pending := (congrArg State.pending h.frame :)
theorem Lit.handed {s t : State} (h : Lit s t) : t.handed = s.handed := (congrArg State.handed h.frame :)
theorem Lit.freeCount {s t : State} (h : Lit s t) : t.freeCount = s.freeCount := (congrArg State.freeCount h.frame :)
theorem Lit.now {s t : State} (h : Lit s t) : t.now = s.now := (congrArg State.now h.frame :)
theorem Lit.loading {s t : State} (h : Lit s t) : t.loading = s.loading := (congrArg State.loading h.frame :)
theorem Lit.pins {s t : State} (h : Lit s t) : t.pins = s.pins := (congrArg State.pins h.frame :)
theorem Lit.device {s t : State} (h : Lit s t) : t.device = s.device := (congrArg State.device h.frame :)
theorem Lit.calendar {s t : State} (h : Lit s t) : t.calendar = s.calendar := (congrArg State.calendar h.frame :)
theorem Lit.nodes {s t : State} (h : Lit s t) : t.nodes = s.nodes := (congrArg State.nodes h.frame :)
theorem Lit.points {s t : State} (h : Lit s t) : t.points = s.points := (congrArg State.points h.frame :)
theorem Lit.objects {s t : State} (h : Lit s t) : t.objects = s.objects := (congrArg State.objects h.frame :)
theorem Lit.degraded {s t : State} (h : Lit s t) : t.degraded = s.degraded := (congrArg State.degraded h.frame :)
theorem Lit.plantAsm {s t : State} (h : Lit s t) : t.plantAsm = s.plantAsm := (congrArg State.plantAsm h.frame :)
theorem Lit.pollList {s t : State} (h : Lit s t) : t.pollList = s.pollList := (congrArg State.pollList h.frame :)
theorem Lit.cursors {s t : State} (h : Lit s t) : t.cursors = s.cursors := (congrArg State.cursors h.frame :)
theorem Lit.procedure {s t : State} (h : Lit s t) : t.procedure = s.procedure := (congrArg State.procedure h.frame :)
theorem Lit.supervision {s t : State} (h : Lit s t) : t.supervision = s.supervision := (congrArg State.supervision h.frame :)
theorem Lit.store {s t : State} (h : Lit s t) : t.store = s.store := (congrArg State.store h.frame :)
theorem Lit.save {s t : State} (h : Lit s t) : t.save = s.save := (congrArg State.save h.frame :)
theorem Lit.restartWaiting {s t : State} (h : Lit s t) : t.restartWaiting = s.restartWaiting := (congrArg State.restartWaiting h.frame :)
theorem Lit.faulty {s t : State} (h : Lit s t) : t.faulty = s.faulty := (congrArg State.faulty h.frame :)
theorem Lit.imageFaultRaised {s t : State} (h : Lit s t) : t.imageFaultRaised = s.imageFaultRaised := (congrArg State.imageFaultRaised h.frame :)

theorem Lit.groupsCore {s t : State} (h : Lit s t) : t.groups.map groupSettings = s.groups.map groupSettings :=
  (congrArg State.groups h.frame :)

theorem Lit.zonesCore {s t : State} (h : Lit s t) : t.zones.map zoneSettings = s.zones.map zoneSettings :=
  (congrArg State.zones h.frame :)

theorem Lit.zone {s t : State} (h : Lit s t) (i : Nat) : zoneSettings (t.zone i) = zoneSettings (s.zone i) := by
  have e := congrArg (fun v : Vector Zone 24 => v[i]?) h.zonesCore
  simp only [Vector.getElem?_map] at e
  unfold State.zone
  cases ht : t.zones[i]? <;> cases hs : s.zones[i]? <;> simp_all

theorem Lit.group {s t : State} (h : Lit s t) (i : Nat) : groupSettings (t.group i) = groupSettings (s.group i) := by
  have e := congrArg (fun v : Vector Group 48 => v[i]?) h.groupsCore
  simp only [Vector.getElem?_map] at e
  unfold State.group
  cases ht : t.groups[i]? <;> cases hs : s.groups[i]? <;> simp_all

theorem Evaluated.node {s t : State} (h : Evaluated s t) (i : Nat) : t.node i = s.node i := node_congr h.nodes i
theorem Evaluated.point {s t : State} (h : Evaluated s t) (i : Nat) : t.point i = s.point i := point_congr h.points i
theorem Evaluated.object {s t : State} (h : Evaluated s t) (i : Nat) : t.object i = s.object i :=
  object_congr h.objects i
theorem Evaluated.zone {s t : State} (h : Evaluated s t) (i : Nat) :
    zoneSettings (t.zone i) = zoneSettings (s.zone i) := h.lit.zone i
theorem Evaluated.group {s t : State} (h : Evaluated s t) (i : Nat) :
    groupSettings (t.group i) = groupSettings (s.group i) := h.lit.group i
theorem Lit.node {s t : State} (h : Lit s t) (i : Nat) : t.node i = s.node i := node_congr h.nodes i
theorem Lit.point {s t : State} (h : Lit s t) (i : Nat) : t.point i = s.point i := point_congr h.points i
theorem Lit.object {s t : State} (h : Lit s t) (i : Nat) : t.object i = s.object i := object_congr h.objects i
theorem Reported.node {s t : State} (h : Reported s t) (i : Nat) : t.node i = s.node i := node_congr h.nodes i
theorem Reported.point {s t : State} (h : Reported s t) (i : Nat) : t.point i = s.point i := point_congr h.points i
theorem Reported.object {s t : State} (h : Reported s t) (i : Nat) : t.object i = s.object i := object_congr h.objects i
theorem Reported.group {s t : State} (h : Reported s t) (i : Nat) : t.group i = s.group i := group_congr h.groups i
theorem Reported.zone {s t : State} (h : Reported s t) (i : Nat) : t.zone i = s.zone i := zone_congr h.zones i

/-! ### raise -/

section raise

variable (k : ConditionKind) (a d : Nat) (s : State)

@[simp] theorem pending_raise : (raise k a d s).pending = s.pending := (reported_raise k a d s).pending
@[simp] theorem handed_raise : (raise k a d s).handed = s.handed := (reported_raise k a d s).handed
@[simp] theorem freeCount_raise : (raise k a d s).freeCount = s.freeCount := (reported_raise k a d s).freeCount
@[simp] theorem now_raise : (raise k a d s).now = s.now := (reported_raise k a d s).now
@[simp] theorem loading_raise : (raise k a d s).loading = s.loading := (reported_raise k a d s).loading
@[simp] theorem pins_raise : (raise k a d s).pins = s.pins := (reported_raise k a d s).pins
@[simp] theorem device_raise : (raise k a d s).device = s.device := (reported_raise k a d s).device
@[simp] theorem calendar_raise : (raise k a d s).calendar = s.calendar := (reported_raise k a d s).calendar
@[simp] theorem nodes_raise : (raise k a d s).nodes = s.nodes := (reported_raise k a d s).nodes
@[simp] theorem points_raise : (raise k a d s).points = s.points := (reported_raise k a d s).points
@[simp] theorem objects_raise : (raise k a d s).objects = s.objects := (reported_raise k a d s).objects
@[simp] theorem groups_raise : (raise k a d s).groups = s.groups := (reported_raise k a d s).groups
@[simp] theorem zones_raise : (raise k a d s).zones = s.zones := (reported_raise k a d s).zones
@[simp] theorem degraded_raise : (raise k a d s).degraded = s.degraded := (reported_raise k a d s).degraded
@[simp] theorem galleryAsm_raise : (raise k a d s).galleryAsm = s.galleryAsm := (reported_raise k a d s).galleryAsm
@[simp] theorem plantAsm_raise : (raise k a d s).plantAsm = s.plantAsm := (reported_raise k a d s).plantAsm
@[simp] theorem gallerySeq_raise : (raise k a d s).gallerySeq = s.gallerySeq := (reported_raise k a d s).gallerySeq
@[simp] theorem p2g_raise : (raise k a d s).p2g = s.p2g := (reported_raise k a d s).p2g
@[simp] theorem line_raise : (raise k a d s).line = s.line := (reported_raise k a d s).line
@[simp] theorem pointer_raise : (raise k a d s).pointer = s.pointer := (reported_raise k a d s).pointer
@[simp] theorem galleryOrigin_raise : (raise k a d s).galleryOrigin = s.galleryOrigin := (reported_raise k a d s).galleryOrigin
@[simp] theorem pollList_raise : (raise k a d s).pollList = s.pollList := (reported_raise k a d s).pollList
@[simp] theorem cursors_raise : (raise k a d s).cursors = s.cursors := (reported_raise k a d s).cursors
@[simp] theorem procedure_raise : (raise k a d s).procedure = s.procedure := (reported_raise k a d s).procedure
@[simp] theorem supervision_raise : (raise k a d s).supervision = s.supervision := (reported_raise k a d s).supervision
@[simp] theorem store_raise : (raise k a d s).store = s.store := (reported_raise k a d s).store
@[simp] theorem save_raise : (raise k a d s).save = s.save := (reported_raise k a d s).save
@[simp] theorem restartWaiting_raise : (raise k a d s).restartWaiting = s.restartWaiting := (reported_raise k a d s).restartWaiting
@[simp] theorem faulty_raise : (raise k a d s).faulty = s.faulty := (reported_raise k a d s).faulty
@[simp] theorem imageFaultRaised_raise : (raise k a d s).imageFaultRaised = s.imageFaultRaised := (reported_raise k a d s).imageFaultRaised
@[simp] theorem node_raise (i : Nat) : (raise k a d s).node i = s.node i := (reported_raise k a d s).node i
@[simp] theorem point_raise (i : Nat) : (raise k a d s).point i = s.point i := (reported_raise k a d s).point i
@[simp] theorem object_raise (i : Nat) : (raise k a d s).object i = s.object i := (reported_raise k a d s).object i
@[simp] theorem group_raise (i : Nat) : (raise k a d s).group i = s.group i := (reported_raise k a d s).group i
@[simp] theorem zone_raise (i : Nat) : (raise k a d s).zone i = s.zone i := (reported_raise k a d s).zone i

end raise

/-! ### clear -/

section clear

variable (k : ConditionKind) (a : Nat) (s : State)

@[simp] theorem pending_clear : (clear k a s).pending = s.pending := (reported_clear k a s).pending
@[simp] theorem handed_clear : (clear k a s).handed = s.handed := (reported_clear k a s).handed
@[simp] theorem freeCount_clear : (clear k a s).freeCount = s.freeCount := (reported_clear k a s).freeCount
@[simp] theorem now_clear : (clear k a s).now = s.now := (reported_clear k a s).now
@[simp] theorem loading_clear : (clear k a s).loading = s.loading := (reported_clear k a s).loading
@[simp] theorem pins_clear : (clear k a s).pins = s.pins := (reported_clear k a s).pins
@[simp] theorem device_clear : (clear k a s).device = s.device := (reported_clear k a s).device
@[simp] theorem calendar_clear : (clear k a s).calendar = s.calendar := (reported_clear k a s).calendar
@[simp] theorem nodes_clear : (clear k a s).nodes = s.nodes := (reported_clear k a s).nodes
@[simp] theorem points_clear : (clear k a s).points = s.points := (reported_clear k a s).points
@[simp] theorem objects_clear : (clear k a s).objects = s.objects := (reported_clear k a s).objects
@[simp] theorem groups_clear : (clear k a s).groups = s.groups := (reported_clear k a s).groups
@[simp] theorem zones_clear : (clear k a s).zones = s.zones := (reported_clear k a s).zones
@[simp] theorem degraded_clear : (clear k a s).degraded = s.degraded := (reported_clear k a s).degraded
@[simp] theorem galleryAsm_clear : (clear k a s).galleryAsm = s.galleryAsm := (reported_clear k a s).galleryAsm
@[simp] theorem plantAsm_clear : (clear k a s).plantAsm = s.plantAsm := (reported_clear k a s).plantAsm
@[simp] theorem gallerySeq_clear : (clear k a s).gallerySeq = s.gallerySeq := (reported_clear k a s).gallerySeq
@[simp] theorem p2g_clear : (clear k a s).p2g = s.p2g := (reported_clear k a s).p2g
@[simp] theorem line_clear : (clear k a s).line = s.line := (reported_clear k a s).line
@[simp] theorem pointer_clear : (clear k a s).pointer = s.pointer := (reported_clear k a s).pointer
@[simp] theorem galleryOrigin_clear : (clear k a s).galleryOrigin = s.galleryOrigin := (reported_clear k a s).galleryOrigin
@[simp] theorem pollList_clear : (clear k a s).pollList = s.pollList := (reported_clear k a s).pollList
@[simp] theorem cursors_clear : (clear k a s).cursors = s.cursors := (reported_clear k a s).cursors
@[simp] theorem procedure_clear : (clear k a s).procedure = s.procedure := (reported_clear k a s).procedure
@[simp] theorem supervision_clear : (clear k a s).supervision = s.supervision := (reported_clear k a s).supervision
@[simp] theorem store_clear : (clear k a s).store = s.store := (reported_clear k a s).store
@[simp] theorem save_clear : (clear k a s).save = s.save := (reported_clear k a s).save
@[simp] theorem restartWaiting_clear : (clear k a s).restartWaiting = s.restartWaiting := (reported_clear k a s).restartWaiting
@[simp] theorem faulty_clear : (clear k a s).faulty = s.faulty := (reported_clear k a s).faulty
@[simp] theorem imageFaultRaised_clear : (clear k a s).imageFaultRaised = s.imageFaultRaised := (reported_clear k a s).imageFaultRaised
@[simp] theorem node_clear (i : Nat) : (clear k a s).node i = s.node i := (reported_clear k a s).node i
@[simp] theorem point_clear (i : Nat) : (clear k a s).point i = s.point i := (reported_clear k a s).point i
@[simp] theorem object_clear (i : Nat) : (clear k a s).object i = s.object i := (reported_clear k a s).object i
@[simp] theorem group_clear (i : Nat) : (clear k a s).group i = s.group i := (reported_clear k a s).group i
@[simp] theorem zone_clear (i : Nat) : (clear k a s).zone i = s.zone i := (reported_clear k a s).zone i

end clear

/-! ### clearIf -/

section clearIf

variable (b : Bool) (k : ConditionKind) (a : Nat) (s : State)

@[simp] theorem pending_clearIf : (clearIf b k a s).pending = s.pending := (reported_clearIf b k a s).pending
@[simp] theorem handed_clearIf : (clearIf b k a s).handed = s.handed := (reported_clearIf b k a s).handed
@[simp] theorem freeCount_clearIf : (clearIf b k a s).freeCount = s.freeCount := (reported_clearIf b k a s).freeCount
@[simp] theorem now_clearIf : (clearIf b k a s).now = s.now := (reported_clearIf b k a s).now
@[simp] theorem loading_clearIf : (clearIf b k a s).loading = s.loading := (reported_clearIf b k a s).loading
@[simp] theorem pins_clearIf : (clearIf b k a s).pins = s.pins := (reported_clearIf b k a s).pins
@[simp] theorem device_clearIf : (clearIf b k a s).device = s.device := (reported_clearIf b k a s).device
@[simp] theorem calendar_clearIf : (clearIf b k a s).calendar = s.calendar := (reported_clearIf b k a s).calendar
@[simp] theorem nodes_clearIf : (clearIf b k a s).nodes = s.nodes := (reported_clearIf b k a s).nodes
@[simp] theorem points_clearIf : (clearIf b k a s).points = s.points := (reported_clearIf b k a s).points
@[simp] theorem objects_clearIf : (clearIf b k a s).objects = s.objects := (reported_clearIf b k a s).objects
@[simp] theorem groups_clearIf : (clearIf b k a s).groups = s.groups := (reported_clearIf b k a s).groups
@[simp] theorem zones_clearIf : (clearIf b k a s).zones = s.zones := (reported_clearIf b k a s).zones
@[simp] theorem degraded_clearIf : (clearIf b k a s).degraded = s.degraded := (reported_clearIf b k a s).degraded
@[simp] theorem galleryAsm_clearIf : (clearIf b k a s).galleryAsm = s.galleryAsm := (reported_clearIf b k a s).galleryAsm
@[simp] theorem plantAsm_clearIf : (clearIf b k a s).plantAsm = s.plantAsm := (reported_clearIf b k a s).plantAsm
@[simp] theorem gallerySeq_clearIf : (clearIf b k a s).gallerySeq = s.gallerySeq := (reported_clearIf b k a s).gallerySeq
@[simp] theorem p2g_clearIf : (clearIf b k a s).p2g = s.p2g := (reported_clearIf b k a s).p2g
@[simp] theorem line_clearIf : (clearIf b k a s).line = s.line := (reported_clearIf b k a s).line
@[simp] theorem pointer_clearIf : (clearIf b k a s).pointer = s.pointer := (reported_clearIf b k a s).pointer
@[simp] theorem galleryOrigin_clearIf : (clearIf b k a s).galleryOrigin = s.galleryOrigin := (reported_clearIf b k a s).galleryOrigin
@[simp] theorem pollList_clearIf : (clearIf b k a s).pollList = s.pollList := (reported_clearIf b k a s).pollList
@[simp] theorem cursors_clearIf : (clearIf b k a s).cursors = s.cursors := (reported_clearIf b k a s).cursors
@[simp] theorem procedure_clearIf : (clearIf b k a s).procedure = s.procedure := (reported_clearIf b k a s).procedure
@[simp] theorem supervision_clearIf : (clearIf b k a s).supervision = s.supervision := (reported_clearIf b k a s).supervision
@[simp] theorem store_clearIf : (clearIf b k a s).store = s.store := (reported_clearIf b k a s).store
@[simp] theorem save_clearIf : (clearIf b k a s).save = s.save := (reported_clearIf b k a s).save
@[simp] theorem restartWaiting_clearIf : (clearIf b k a s).restartWaiting = s.restartWaiting := (reported_clearIf b k a s).restartWaiting
@[simp] theorem faulty_clearIf : (clearIf b k a s).faulty = s.faulty := (reported_clearIf b k a s).faulty
@[simp] theorem imageFaultRaised_clearIf : (clearIf b k a s).imageFaultRaised = s.imageFaultRaised := (reported_clearIf b k a s).imageFaultRaised
@[simp] theorem node_clearIf (i : Nat) : (clearIf b k a s).node i = s.node i := (reported_clearIf b k a s).node i
@[simp] theorem point_clearIf (i : Nat) : (clearIf b k a s).point i = s.point i := (reported_clearIf b k a s).point i
@[simp] theorem object_clearIf (i : Nat) : (clearIf b k a s).object i = s.object i := (reported_clearIf b k a s).object i
@[simp] theorem group_clearIf (i : Nat) : (clearIf b k a s).group i = s.group i := (reported_clearIf b k a s).group i
@[simp] theorem zone_clearIf (i : Nat) : (clearIf b k a s).zone i = s.zone i := (reported_clearIf b k a s).zone i

end clearIf

/-! ### follow -/

section follow

variable (k : ConditionKind) (a d : Nat) (x y : Bool) (s : State)

@[simp] theorem pending_follow : (follow k a d x y s).pending = s.pending := (reported_follow k a d x y s).pending
@[simp] theorem handed_follow : (follow k a d x y s).handed = s.handed := (reported_follow k a d x y s).handed
@[simp] theorem freeCount_follow : (follow k a d x y s).freeCount = s.freeCount := (reported_follow k a d x y s).freeCount
@[simp] theorem now_follow : (follow k a d x y s).now = s.now := (reported_follow k a d x y s).now
@[simp] theorem loading_follow : (follow k a d x y s).loading = s.loading := (reported_follow k a d x y s).loading
@[simp] theorem pins_follow : (follow k a d x y s).pins = s.pins := (reported_follow k a d x y s).pins
@[simp] theorem device_follow : (follow k a d x y s).device = s.device := (reported_follow k a d x y s).device
@[simp] theorem calendar_follow : (follow k a d x y s).calendar = s.calendar := (reported_follow k a d x y s).calendar
@[simp] theorem nodes_follow : (follow k a d x y s).nodes = s.nodes := (reported_follow k a d x y s).nodes
@[simp] theorem points_follow : (follow k a d x y s).points = s.points := (reported_follow k a d x y s).points
@[simp] theorem objects_follow : (follow k a d x y s).objects = s.objects := (reported_follow k a d x y s).objects
@[simp] theorem groups_follow : (follow k a d x y s).groups = s.groups := (reported_follow k a d x y s).groups
@[simp] theorem zones_follow : (follow k a d x y s).zones = s.zones := (reported_follow k a d x y s).zones
@[simp] theorem degraded_follow : (follow k a d x y s).degraded = s.degraded := (reported_follow k a d x y s).degraded
@[simp] theorem galleryAsm_follow : (follow k a d x y s).galleryAsm = s.galleryAsm := (reported_follow k a d x y s).galleryAsm
@[simp] theorem plantAsm_follow : (follow k a d x y s).plantAsm = s.plantAsm := (reported_follow k a d x y s).plantAsm
@[simp] theorem gallerySeq_follow : (follow k a d x y s).gallerySeq = s.gallerySeq := (reported_follow k a d x y s).gallerySeq
@[simp] theorem p2g_follow : (follow k a d x y s).p2g = s.p2g := (reported_follow k a d x y s).p2g
@[simp] theorem line_follow : (follow k a d x y s).line = s.line := (reported_follow k a d x y s).line
@[simp] theorem pointer_follow : (follow k a d x y s).pointer = s.pointer := (reported_follow k a d x y s).pointer
@[simp] theorem galleryOrigin_follow : (follow k a d x y s).galleryOrigin = s.galleryOrigin := (reported_follow k a d x y s).galleryOrigin
@[simp] theorem pollList_follow : (follow k a d x y s).pollList = s.pollList := (reported_follow k a d x y s).pollList
@[simp] theorem cursors_follow : (follow k a d x y s).cursors = s.cursors := (reported_follow k a d x y s).cursors
@[simp] theorem procedure_follow : (follow k a d x y s).procedure = s.procedure := (reported_follow k a d x y s).procedure
@[simp] theorem supervision_follow : (follow k a d x y s).supervision = s.supervision := (reported_follow k a d x y s).supervision
@[simp] theorem store_follow : (follow k a d x y s).store = s.store := (reported_follow k a d x y s).store
@[simp] theorem save_follow : (follow k a d x y s).save = s.save := (reported_follow k a d x y s).save
@[simp] theorem restartWaiting_follow : (follow k a d x y s).restartWaiting = s.restartWaiting := (reported_follow k a d x y s).restartWaiting
@[simp] theorem faulty_follow : (follow k a d x y s).faulty = s.faulty := (reported_follow k a d x y s).faulty
@[simp] theorem imageFaultRaised_follow : (follow k a d x y s).imageFaultRaised = s.imageFaultRaised := (reported_follow k a d x y s).imageFaultRaised
@[simp] theorem node_follow (i : Nat) : (follow k a d x y s).node i = s.node i := (reported_follow k a d x y s).node i
@[simp] theorem point_follow (i : Nat) : (follow k a d x y s).point i = s.point i := (reported_follow k a d x y s).point i
@[simp] theorem object_follow (i : Nat) : (follow k a d x y s).object i = s.object i := (reported_follow k a d x y s).object i
@[simp] theorem group_follow (i : Nat) : (follow k a d x y s).group i = s.group i := (reported_follow k a d x y s).group i
@[simp] theorem zone_follow (i : Nat) : (follow k a d x y s).zone i = s.zone i := (reported_follow k a d x y s).zone i

end follow

/-! ### report -/

section report

variable (c : Condition) (b : Bool) (s : State)

@[simp] theorem pending_report : (report c b s).pending = s.pending := (reported_report c b s).pending
@[simp] theorem handed_report : (report c b s).handed = s.handed := (reported_report c b s).handed
@[simp] theorem freeCount_report : (report c b s).freeCount = s.freeCount := (reported_report c b s).freeCount
@[simp] theorem now_report : (report c b s).now = s.now := (reported_report c b s).now
@[simp] theorem loading_report : (report c b s).loading = s.loading := (reported_report c b s).loading
@[simp] theorem pins_report : (report c b s).pins = s.pins := (reported_report c b s).pins
@[simp] theorem device_report : (report c b s).device = s.device := (reported_report c b s).device
@[simp] theorem calendar_report : (report c b s).calendar = s.calendar := (reported_report c b s).calendar
@[simp] theorem nodes_report : (report c b s).nodes = s.nodes := (reported_report c b s).nodes
@[simp] theorem points_report : (report c b s).points = s.points := (reported_report c b s).points
@[simp] theorem objects_report : (report c b s).objects = s.objects := (reported_report c b s).objects
@[simp] theorem groups_report : (report c b s).groups = s.groups := (reported_report c b s).groups
@[simp] theorem zones_report : (report c b s).zones = s.zones := (reported_report c b s).zones
@[simp] theorem degraded_report : (report c b s).degraded = s.degraded := (reported_report c b s).degraded
@[simp] theorem galleryAsm_report : (report c b s).galleryAsm = s.galleryAsm := (reported_report c b s).galleryAsm
@[simp] theorem plantAsm_report : (report c b s).plantAsm = s.plantAsm := (reported_report c b s).plantAsm
@[simp] theorem gallerySeq_report : (report c b s).gallerySeq = s.gallerySeq := (reported_report c b s).gallerySeq
@[simp] theorem p2g_report : (report c b s).p2g = s.p2g := (reported_report c b s).p2g
@[simp] theorem line_report : (report c b s).line = s.line := (reported_report c b s).line
@[simp] theorem pointer_report : (report c b s).pointer = s.pointer := (reported_report c b s).pointer
@[simp] theorem galleryOrigin_report : (report c b s).galleryOrigin = s.galleryOrigin := (reported_report c b s).galleryOrigin
@[simp] theorem pollList_report : (report c b s).pollList = s.pollList := (reported_report c b s).pollList
@[simp] theorem cursors_report : (report c b s).cursors = s.cursors := (reported_report c b s).cursors
@[simp] theorem procedure_report : (report c b s).procedure = s.procedure := (reported_report c b s).procedure
@[simp] theorem supervision_report : (report c b s).supervision = s.supervision := (reported_report c b s).supervision
@[simp] theorem store_report : (report c b s).store = s.store := (reported_report c b s).store
@[simp] theorem save_report : (report c b s).save = s.save := (reported_report c b s).save
@[simp] theorem restartWaiting_report : (report c b s).restartWaiting = s.restartWaiting := (reported_report c b s).restartWaiting
@[simp] theorem faulty_report : (report c b s).faulty = s.faulty := (reported_report c b s).faulty
@[simp] theorem imageFaultRaised_report : (report c b s).imageFaultRaised = s.imageFaultRaised := (reported_report c b s).imageFaultRaised
@[simp] theorem node_report (i : Nat) : (report c b s).node i = s.node i := (reported_report c b s).node i
@[simp] theorem point_report (i : Nat) : (report c b s).point i = s.point i := (reported_report c b s).point i
@[simp] theorem object_report (i : Nat) : (report c b s).object i = s.object i := (reported_report c b s).object i
@[simp] theorem group_report (i : Nat) : (report c b s).group i = s.group i := (reported_report c b s).group i
@[simp] theorem zone_report (i : Nat) : (report c b s).zone i = s.zone i := (reported_report c b s).zone i

end report

/-! ### offerG2p -/

section offerG2p

variable (f : Frame) (s : State)

@[simp] theorem pending_offerG2p : (offerG2p f s).pending = s.pending := (reported_offerG2p f s).pending
@[simp] theorem handed_offerG2p : (offerG2p f s).handed = s.handed := (reported_offerG2p f s).handed
@[simp] theorem freeCount_offerG2p : (offerG2p f s).freeCount = s.freeCount := (reported_offerG2p f s).freeCount
@[simp] theorem now_offerG2p : (offerG2p f s).now = s.now := (reported_offerG2p f s).now
@[simp] theorem loading_offerG2p : (offerG2p f s).loading = s.loading := (reported_offerG2p f s).loading
@[simp] theorem pins_offerG2p : (offerG2p f s).pins = s.pins := (reported_offerG2p f s).pins
@[simp] theorem device_offerG2p : (offerG2p f s).device = s.device := (reported_offerG2p f s).device
@[simp] theorem calendar_offerG2p : (offerG2p f s).calendar = s.calendar := (reported_offerG2p f s).calendar
@[simp] theorem nodes_offerG2p : (offerG2p f s).nodes = s.nodes := (reported_offerG2p f s).nodes
@[simp] theorem points_offerG2p : (offerG2p f s).points = s.points := (reported_offerG2p f s).points
@[simp] theorem objects_offerG2p : (offerG2p f s).objects = s.objects := (reported_offerG2p f s).objects
@[simp] theorem groups_offerG2p : (offerG2p f s).groups = s.groups := (reported_offerG2p f s).groups
@[simp] theorem zones_offerG2p : (offerG2p f s).zones = s.zones := (reported_offerG2p f s).zones
@[simp] theorem degraded_offerG2p : (offerG2p f s).degraded = s.degraded := (reported_offerG2p f s).degraded
@[simp] theorem galleryAsm_offerG2p : (offerG2p f s).galleryAsm = s.galleryAsm := (reported_offerG2p f s).galleryAsm
@[simp] theorem plantAsm_offerG2p : (offerG2p f s).plantAsm = s.plantAsm := (reported_offerG2p f s).plantAsm
@[simp] theorem gallerySeq_offerG2p : (offerG2p f s).gallerySeq = s.gallerySeq := (reported_offerG2p f s).gallerySeq
@[simp] theorem p2g_offerG2p : (offerG2p f s).p2g = s.p2g := (reported_offerG2p f s).p2g
@[simp] theorem line_offerG2p : (offerG2p f s).line = s.line := (reported_offerG2p f s).line
@[simp] theorem pointer_offerG2p : (offerG2p f s).pointer = s.pointer := (reported_offerG2p f s).pointer
@[simp] theorem galleryOrigin_offerG2p : (offerG2p f s).galleryOrigin = s.galleryOrigin := (reported_offerG2p f s).galleryOrigin
@[simp] theorem pollList_offerG2p : (offerG2p f s).pollList = s.pollList := (reported_offerG2p f s).pollList
@[simp] theorem cursors_offerG2p : (offerG2p f s).cursors = s.cursors := (reported_offerG2p f s).cursors
@[simp] theorem procedure_offerG2p : (offerG2p f s).procedure = s.procedure := (reported_offerG2p f s).procedure
@[simp] theorem supervision_offerG2p : (offerG2p f s).supervision = s.supervision := (reported_offerG2p f s).supervision
@[simp] theorem store_offerG2p : (offerG2p f s).store = s.store := (reported_offerG2p f s).store
@[simp] theorem save_offerG2p : (offerG2p f s).save = s.save := (reported_offerG2p f s).save
@[simp] theorem restartWaiting_offerG2p : (offerG2p f s).restartWaiting = s.restartWaiting := (reported_offerG2p f s).restartWaiting
@[simp] theorem faulty_offerG2p : (offerG2p f s).faulty = s.faulty := (reported_offerG2p f s).faulty
@[simp] theorem imageFaultRaised_offerG2p : (offerG2p f s).imageFaultRaised = s.imageFaultRaised := (reported_offerG2p f s).imageFaultRaised
@[simp] theorem node_offerG2p (i : Nat) : (offerG2p f s).node i = s.node i := (reported_offerG2p f s).node i
@[simp] theorem point_offerG2p (i : Nat) : (offerG2p f s).point i = s.point i := (reported_offerG2p f s).point i
@[simp] theorem object_offerG2p (i : Nat) : (offerG2p f s).object i = s.object i := (reported_offerG2p f s).object i
@[simp] theorem group_offerG2p (i : Nat) : (offerG2p f s).group i = s.group i := (reported_offerG2p f s).group i
@[simp] theorem zone_offerG2p (i : Nat) : (offerG2p f s).zone i = s.zone i := (reported_offerG2p f s).zone i

end offerG2p

/-! ### plantTake -/

section plantTake

variable (s : State)

@[simp] theorem pending_plantTake : (plantTake s).pending = s.pending := (reported_plantTake s).pending
@[simp] theorem handed_plantTake : (plantTake s).handed = s.handed := (reported_plantTake s).handed
@[simp] theorem freeCount_plantTake : (plantTake s).freeCount = s.freeCount := (reported_plantTake s).freeCount
@[simp] theorem now_plantTake : (plantTake s).now = s.now := (reported_plantTake s).now
@[simp] theorem loading_plantTake : (plantTake s).loading = s.loading := (reported_plantTake s).loading
@[simp] theorem pins_plantTake : (plantTake s).pins = s.pins := (reported_plantTake s).pins
@[simp] theorem device_plantTake : (plantTake s).device = s.device := (reported_plantTake s).device
@[simp] theorem calendar_plantTake : (plantTake s).calendar = s.calendar := (reported_plantTake s).calendar
@[simp] theorem nodes_plantTake : (plantTake s).nodes = s.nodes := (reported_plantTake s).nodes
@[simp] theorem points_plantTake : (plantTake s).points = s.points := (reported_plantTake s).points
@[simp] theorem objects_plantTake : (plantTake s).objects = s.objects := (reported_plantTake s).objects
@[simp] theorem groups_plantTake : (plantTake s).groups = s.groups := (reported_plantTake s).groups
@[simp] theorem zones_plantTake : (plantTake s).zones = s.zones := (reported_plantTake s).zones
@[simp] theorem degraded_plantTake : (plantTake s).degraded = s.degraded := (reported_plantTake s).degraded
@[simp] theorem galleryAsm_plantTake : (plantTake s).galleryAsm = s.galleryAsm := (reported_plantTake s).galleryAsm
@[simp] theorem plantAsm_plantTake : (plantTake s).plantAsm = s.plantAsm := (reported_plantTake s).plantAsm
@[simp] theorem gallerySeq_plantTake : (plantTake s).gallerySeq = s.gallerySeq := (reported_plantTake s).gallerySeq
@[simp] theorem p2g_plantTake : (plantTake s).p2g = s.p2g := (reported_plantTake s).p2g
@[simp] theorem line_plantTake : (plantTake s).line = s.line := (reported_plantTake s).line
@[simp] theorem pointer_plantTake : (plantTake s).pointer = s.pointer := (reported_plantTake s).pointer
@[simp] theorem galleryOrigin_plantTake : (plantTake s).galleryOrigin = s.galleryOrigin := (reported_plantTake s).galleryOrigin
@[simp] theorem pollList_plantTake : (plantTake s).pollList = s.pollList := (reported_plantTake s).pollList
@[simp] theorem cursors_plantTake : (plantTake s).cursors = s.cursors := (reported_plantTake s).cursors
@[simp] theorem procedure_plantTake : (plantTake s).procedure = s.procedure := (reported_plantTake s).procedure
@[simp] theorem supervision_plantTake : (plantTake s).supervision = s.supervision := (reported_plantTake s).supervision
@[simp] theorem store_plantTake : (plantTake s).store = s.store := (reported_plantTake s).store
@[simp] theorem save_plantTake : (plantTake s).save = s.save := (reported_plantTake s).save
@[simp] theorem restartWaiting_plantTake : (plantTake s).restartWaiting = s.restartWaiting := (reported_plantTake s).restartWaiting
@[simp] theorem faulty_plantTake : (plantTake s).faulty = s.faulty := (reported_plantTake s).faulty
@[simp] theorem imageFaultRaised_plantTake : (plantTake s).imageFaultRaised = s.imageFaultRaised := (reported_plantTake s).imageFaultRaised
@[simp] theorem node_plantTake (i : Nat) : (plantTake s).node i = s.node i := (reported_plantTake s).node i
@[simp] theorem point_plantTake (i : Nat) : (plantTake s).point i = s.point i := (reported_plantTake s).point i
@[simp] theorem object_plantTake (i : Nat) : (plantTake s).object i = s.object i := (reported_plantTake s).object i
@[simp] theorem group_plantTake (i : Nat) : (plantTake s).group i = s.group i := (reported_plantTake s).group i
@[simp] theorem zone_plantTake (i : Nat) : (plantTake s).zone i = s.zone i := (reported_plantTake s).zone i

end plantTake

/-! ### evaluate -/

section evaluate

variable (z : Nat) (s : State)

@[simp] theorem pending_evaluate : (evaluate z s).pending = s.pending := (evaluated_evaluate z s).pending
@[simp] theorem handed_evaluate : (evaluate z s).handed = s.handed := (evaluated_evaluate z s).handed
@[simp] theorem freeCount_evaluate : (evaluate z s).freeCount = s.freeCount := (evaluated_evaluate z s).freeCount
@[simp] theorem now_evaluate : (evaluate z s).now = s.now := (evaluated_evaluate z s).now
@[simp] theorem loading_evaluate : (evaluate z s).loading = s.loading := (evaluated_evaluate z s).loading
@[simp] theorem pins_evaluate : (evaluate z s).pins = s.pins := (evaluated_evaluate z s).pins
@[simp] theorem device_evaluate : (evaluate z s).device = s.device := (evaluated_evaluate z s).device
@[simp] theorem calendar_evaluate : (evaluate z s).calendar = s.calendar := (evaluated_evaluate z s).calendar
@[simp] theorem nodes_evaluate : (evaluate z s).nodes = s.nodes := (evaluated_evaluate z s).nodes
@[simp] theorem points_evaluate : (evaluate z s).points = s.points := (evaluated_evaluate z s).points
@[simp] theorem objects_evaluate : (evaluate z s).objects = s.objects := (evaluated_evaluate z s).objects
@[simp] theorem degraded_evaluate : (evaluate z s).degraded = s.degraded := (evaluated_evaluate z s).degraded
@[simp] theorem galleryAsm_evaluate : (evaluate z s).galleryAsm = s.galleryAsm := (evaluated_evaluate z s).galleryAsm
@[simp] theorem plantAsm_evaluate : (evaluate z s).plantAsm = s.plantAsm := (evaluated_evaluate z s).plantAsm
@[simp] theorem gallerySeq_evaluate : (evaluate z s).gallerySeq = s.gallerySeq := (evaluated_evaluate z s).gallerySeq
@[simp] theorem p2g_evaluate : (evaluate z s).p2g = s.p2g := (evaluated_evaluate z s).p2g
@[simp] theorem line_evaluate : (evaluate z s).line = s.line := (evaluated_evaluate z s).line
@[simp] theorem pointer_evaluate : (evaluate z s).pointer = s.pointer := (evaluated_evaluate z s).pointer
@[simp] theorem pollList_evaluate : (evaluate z s).pollList = s.pollList := (evaluated_evaluate z s).pollList
@[simp] theorem cursors_evaluate : (evaluate z s).cursors = s.cursors := (evaluated_evaluate z s).cursors
@[simp] theorem procedure_evaluate : (evaluate z s).procedure = s.procedure := (evaluated_evaluate z s).procedure
@[simp] theorem supervision_evaluate : (evaluate z s).supervision = s.supervision := (evaluated_evaluate z s).supervision
@[simp] theorem store_evaluate : (evaluate z s).store = s.store := (evaluated_evaluate z s).store
@[simp] theorem save_evaluate : (evaluate z s).save = s.save := (evaluated_evaluate z s).save
@[simp] theorem restartWaiting_evaluate : (evaluate z s).restartWaiting = s.restartWaiting := (evaluated_evaluate z s).restartWaiting
@[simp] theorem faulty_evaluate : (evaluate z s).faulty = s.faulty := (evaluated_evaluate z s).faulty
@[simp] theorem imageFaultRaised_evaluate : (evaluate z s).imageFaultRaised = s.imageFaultRaised := (evaluated_evaluate z s).imageFaultRaised
@[simp] theorem node_evaluate (i : Nat) : (evaluate z s).node i = s.node i := (evaluated_evaluate z s).node i
@[simp] theorem point_evaluate (i : Nat) : (evaluate z s).point i = s.point i := (evaluated_evaluate z s).point i
@[simp] theorem object_evaluate (i : Nat) : (evaluate z s).object i = s.object i := (evaluated_evaluate z s).object i

end evaluate

/-! ### requestCore -/

section requestCore

variable (z : Nat) (s : State)

@[simp] theorem pending_requestCore : (requestCore z s).pending = s.pending := (evaluated_requestCore z s).pending
@[simp] theorem handed_requestCore : (requestCore z s).handed = s.handed := (evaluated_requestCore z s).handed
@[simp] theorem freeCount_requestCore : (requestCore z s).freeCount = s.freeCount := (evaluated_requestCore z s).freeCount
@[simp] theorem now_requestCore : (requestCore z s).now = s.now := (evaluated_requestCore z s).now
@[simp] theorem loading_requestCore : (requestCore z s).loading = s.loading := (evaluated_requestCore z s).loading
@[simp] theorem pins_requestCore : (requestCore z s).pins = s.pins := (evaluated_requestCore z s).pins
@[simp] theorem device_requestCore : (requestCore z s).device = s.device := (evaluated_requestCore z s).device
@[simp] theorem calendar_requestCore : (requestCore z s).calendar = s.calendar := (evaluated_requestCore z s).calendar
@[simp] theorem nodes_requestCore : (requestCore z s).nodes = s.nodes := (evaluated_requestCore z s).nodes
@[simp] theorem points_requestCore : (requestCore z s).points = s.points := (evaluated_requestCore z s).points
@[simp] theorem objects_requestCore : (requestCore z s).objects = s.objects := (evaluated_requestCore z s).objects
@[simp] theorem degraded_requestCore : (requestCore z s).degraded = s.degraded := (evaluated_requestCore z s).degraded
@[simp] theorem galleryAsm_requestCore : (requestCore z s).galleryAsm = s.galleryAsm := (evaluated_requestCore z s).galleryAsm
@[simp] theorem plantAsm_requestCore : (requestCore z s).plantAsm = s.plantAsm := (evaluated_requestCore z s).plantAsm
@[simp] theorem gallerySeq_requestCore : (requestCore z s).gallerySeq = s.gallerySeq := (evaluated_requestCore z s).gallerySeq
@[simp] theorem p2g_requestCore : (requestCore z s).p2g = s.p2g := (evaluated_requestCore z s).p2g
@[simp] theorem line_requestCore : (requestCore z s).line = s.line := (evaluated_requestCore z s).line
@[simp] theorem pointer_requestCore : (requestCore z s).pointer = s.pointer := (evaluated_requestCore z s).pointer
@[simp] theorem pollList_requestCore : (requestCore z s).pollList = s.pollList := (evaluated_requestCore z s).pollList
@[simp] theorem cursors_requestCore : (requestCore z s).cursors = s.cursors := (evaluated_requestCore z s).cursors
@[simp] theorem procedure_requestCore : (requestCore z s).procedure = s.procedure := (evaluated_requestCore z s).procedure
@[simp] theorem supervision_requestCore : (requestCore z s).supervision = s.supervision := (evaluated_requestCore z s).supervision
@[simp] theorem store_requestCore : (requestCore z s).store = s.store := (evaluated_requestCore z s).store
@[simp] theorem save_requestCore : (requestCore z s).save = s.save := (evaluated_requestCore z s).save
@[simp] theorem restartWaiting_requestCore : (requestCore z s).restartWaiting = s.restartWaiting := (evaluated_requestCore z s).restartWaiting
@[simp] theorem faulty_requestCore : (requestCore z s).faulty = s.faulty := (evaluated_requestCore z s).faulty
@[simp] theorem imageFaultRaised_requestCore : (requestCore z s).imageFaultRaised = s.imageFaultRaised := (evaluated_requestCore z s).imageFaultRaised
@[simp] theorem node_requestCore (i : Nat) : (requestCore z s).node i = s.node i := (evaluated_requestCore z s).node i
@[simp] theorem point_requestCore (i : Nat) : (requestCore z s).point i = s.point i := (evaluated_requestCore z s).point i
@[simp] theorem object_requestCore (i : Nat) : (requestCore z s).object i = s.object i := (evaluated_requestCore z s).object i

end requestCore

/-! ### rejudgeZone -/

section rejudgeZone

variable (z : Nat) (s : State)

@[simp] theorem pending_rejudgeZone : (rejudgeZone z s).pending = s.pending := (evaluated_rejudgeZone z s).pending
@[simp] theorem handed_rejudgeZone : (rejudgeZone z s).handed = s.handed := (evaluated_rejudgeZone z s).handed
@[simp] theorem freeCount_rejudgeZone : (rejudgeZone z s).freeCount = s.freeCount := (evaluated_rejudgeZone z s).freeCount
@[simp] theorem now_rejudgeZone : (rejudgeZone z s).now = s.now := (evaluated_rejudgeZone z s).now
@[simp] theorem loading_rejudgeZone : (rejudgeZone z s).loading = s.loading := (evaluated_rejudgeZone z s).loading
@[simp] theorem pins_rejudgeZone : (rejudgeZone z s).pins = s.pins := (evaluated_rejudgeZone z s).pins
@[simp] theorem device_rejudgeZone : (rejudgeZone z s).device = s.device := (evaluated_rejudgeZone z s).device
@[simp] theorem calendar_rejudgeZone : (rejudgeZone z s).calendar = s.calendar := (evaluated_rejudgeZone z s).calendar
@[simp] theorem nodes_rejudgeZone : (rejudgeZone z s).nodes = s.nodes := (evaluated_rejudgeZone z s).nodes
@[simp] theorem points_rejudgeZone : (rejudgeZone z s).points = s.points := (evaluated_rejudgeZone z s).points
@[simp] theorem objects_rejudgeZone : (rejudgeZone z s).objects = s.objects := (evaluated_rejudgeZone z s).objects
@[simp] theorem degraded_rejudgeZone : (rejudgeZone z s).degraded = s.degraded := (evaluated_rejudgeZone z s).degraded
@[simp] theorem galleryAsm_rejudgeZone : (rejudgeZone z s).galleryAsm = s.galleryAsm := (evaluated_rejudgeZone z s).galleryAsm
@[simp] theorem plantAsm_rejudgeZone : (rejudgeZone z s).plantAsm = s.plantAsm := (evaluated_rejudgeZone z s).plantAsm
@[simp] theorem gallerySeq_rejudgeZone : (rejudgeZone z s).gallerySeq = s.gallerySeq := (evaluated_rejudgeZone z s).gallerySeq
@[simp] theorem p2g_rejudgeZone : (rejudgeZone z s).p2g = s.p2g := (evaluated_rejudgeZone z s).p2g
@[simp] theorem line_rejudgeZone : (rejudgeZone z s).line = s.line := (evaluated_rejudgeZone z s).line
@[simp] theorem pointer_rejudgeZone : (rejudgeZone z s).pointer = s.pointer := (evaluated_rejudgeZone z s).pointer
@[simp] theorem pollList_rejudgeZone : (rejudgeZone z s).pollList = s.pollList := (evaluated_rejudgeZone z s).pollList
@[simp] theorem cursors_rejudgeZone : (rejudgeZone z s).cursors = s.cursors := (evaluated_rejudgeZone z s).cursors
@[simp] theorem procedure_rejudgeZone : (rejudgeZone z s).procedure = s.procedure := (evaluated_rejudgeZone z s).procedure
@[simp] theorem supervision_rejudgeZone : (rejudgeZone z s).supervision = s.supervision := (evaluated_rejudgeZone z s).supervision
@[simp] theorem store_rejudgeZone : (rejudgeZone z s).store = s.store := (evaluated_rejudgeZone z s).store
@[simp] theorem save_rejudgeZone : (rejudgeZone z s).save = s.save := (evaluated_rejudgeZone z s).save
@[simp] theorem restartWaiting_rejudgeZone : (rejudgeZone z s).restartWaiting = s.restartWaiting := (evaluated_rejudgeZone z s).restartWaiting
@[simp] theorem faulty_rejudgeZone : (rejudgeZone z s).faulty = s.faulty := (evaluated_rejudgeZone z s).faulty
@[simp] theorem imageFaultRaised_rejudgeZone : (rejudgeZone z s).imageFaultRaised = s.imageFaultRaised := (evaluated_rejudgeZone z s).imageFaultRaised
@[simp] theorem node_rejudgeZone (i : Nat) : (rejudgeZone z s).node i = s.node i := (evaluated_rejudgeZone z s).node i
@[simp] theorem point_rejudgeZone (i : Nat) : (rejudgeZone z s).point i = s.point i := (evaluated_rejudgeZone z s).point i
@[simp] theorem object_rejudgeZone (i : Nat) : (rejudgeZone z s).object i = s.object i := (evaluated_rejudgeZone z s).object i

end rejudgeZone

/-! ### commandExpiry -/

section commandExpiry

variable (g : Nat) (s : State)

@[simp] theorem pending_commandExpiry : (commandExpiry g s).pending = s.pending := (evaluated_commandExpiry g s).pending
@[simp] theorem handed_commandExpiry : (commandExpiry g s).handed = s.handed := (evaluated_commandExpiry g s).handed
@[simp] theorem freeCount_commandExpiry : (commandExpiry g s).freeCount = s.freeCount := (evaluated_commandExpiry g s).freeCount
@[simp] theorem now_commandExpiry : (commandExpiry g s).now = s.now := (evaluated_commandExpiry g s).now
@[simp] theorem loading_commandExpiry : (commandExpiry g s).loading = s.loading := (evaluated_commandExpiry g s).loading
@[simp] theorem pins_commandExpiry : (commandExpiry g s).pins = s.pins := (evaluated_commandExpiry g s).pins
@[simp] theorem device_commandExpiry : (commandExpiry g s).device = s.device := (evaluated_commandExpiry g s).device
@[simp] theorem calendar_commandExpiry : (commandExpiry g s).calendar = s.calendar := (evaluated_commandExpiry g s).calendar
@[simp] theorem nodes_commandExpiry : (commandExpiry g s).nodes = s.nodes := (evaluated_commandExpiry g s).nodes
@[simp] theorem points_commandExpiry : (commandExpiry g s).points = s.points := (evaluated_commandExpiry g s).points
@[simp] theorem objects_commandExpiry : (commandExpiry g s).objects = s.objects := (evaluated_commandExpiry g s).objects
@[simp] theorem degraded_commandExpiry : (commandExpiry g s).degraded = s.degraded := (evaluated_commandExpiry g s).degraded
@[simp] theorem galleryAsm_commandExpiry : (commandExpiry g s).galleryAsm = s.galleryAsm := (evaluated_commandExpiry g s).galleryAsm
@[simp] theorem plantAsm_commandExpiry : (commandExpiry g s).plantAsm = s.plantAsm := (evaluated_commandExpiry g s).plantAsm
@[simp] theorem gallerySeq_commandExpiry : (commandExpiry g s).gallerySeq = s.gallerySeq := (evaluated_commandExpiry g s).gallerySeq
@[simp] theorem p2g_commandExpiry : (commandExpiry g s).p2g = s.p2g := (evaluated_commandExpiry g s).p2g
@[simp] theorem line_commandExpiry : (commandExpiry g s).line = s.line := (evaluated_commandExpiry g s).line
@[simp] theorem pointer_commandExpiry : (commandExpiry g s).pointer = s.pointer := (evaluated_commandExpiry g s).pointer
@[simp] theorem pollList_commandExpiry : (commandExpiry g s).pollList = s.pollList := (evaluated_commandExpiry g s).pollList
@[simp] theorem cursors_commandExpiry : (commandExpiry g s).cursors = s.cursors := (evaluated_commandExpiry g s).cursors
@[simp] theorem procedure_commandExpiry : (commandExpiry g s).procedure = s.procedure := (evaluated_commandExpiry g s).procedure
@[simp] theorem supervision_commandExpiry : (commandExpiry g s).supervision = s.supervision := (evaluated_commandExpiry g s).supervision
@[simp] theorem store_commandExpiry : (commandExpiry g s).store = s.store := (evaluated_commandExpiry g s).store
@[simp] theorem save_commandExpiry : (commandExpiry g s).save = s.save := (evaluated_commandExpiry g s).save
@[simp] theorem restartWaiting_commandExpiry : (commandExpiry g s).restartWaiting = s.restartWaiting := (evaluated_commandExpiry g s).restartWaiting
@[simp] theorem faulty_commandExpiry : (commandExpiry g s).faulty = s.faulty := (evaluated_commandExpiry g s).faulty
@[simp] theorem imageFaultRaised_commandExpiry : (commandExpiry g s).imageFaultRaised = s.imageFaultRaised := (evaluated_commandExpiry g s).imageFaultRaised
@[simp] theorem node_commandExpiry (i : Nat) : (commandExpiry g s).node i = s.node i := (evaluated_commandExpiry g s).node i
@[simp] theorem point_commandExpiry (i : Nat) : (commandExpiry g s).point i = s.point i := (evaluated_commandExpiry g s).point i
@[simp] theorem object_commandExpiry (i : Nat) : (commandExpiry g s).object i = s.object i := (evaluated_commandExpiry g s).object i

end commandExpiry

/-! ### commandCancelled -/

section commandCancelled

variable (g : Nat) (s : State)

@[simp] theorem pending_commandCancelled : (commandCancelled g s).pending = s.pending := (evaluated_commandCancelled g s).pending
@[simp] theorem handed_commandCancelled : (commandCancelled g s).handed = s.handed := (evaluated_commandCancelled g s).handed
@[simp] theorem freeCount_commandCancelled : (commandCancelled g s).freeCount = s.freeCount := (evaluated_commandCancelled g s).freeCount
@[simp] theorem now_commandCancelled : (commandCancelled g s).now = s.now := (evaluated_commandCancelled g s).now
@[simp] theorem loading_commandCancelled : (commandCancelled g s).loading = s.loading := (evaluated_commandCancelled g s).loading
@[simp] theorem pins_commandCancelled : (commandCancelled g s).pins = s.pins := (evaluated_commandCancelled g s).pins
@[simp] theorem device_commandCancelled : (commandCancelled g s).device = s.device := (evaluated_commandCancelled g s).device
@[simp] theorem calendar_commandCancelled : (commandCancelled g s).calendar = s.calendar := (evaluated_commandCancelled g s).calendar
@[simp] theorem nodes_commandCancelled : (commandCancelled g s).nodes = s.nodes := (evaluated_commandCancelled g s).nodes
@[simp] theorem points_commandCancelled : (commandCancelled g s).points = s.points := (evaluated_commandCancelled g s).points
@[simp] theorem objects_commandCancelled : (commandCancelled g s).objects = s.objects := (evaluated_commandCancelled g s).objects
@[simp] theorem degraded_commandCancelled : (commandCancelled g s).degraded = s.degraded := (evaluated_commandCancelled g s).degraded
@[simp] theorem galleryAsm_commandCancelled : (commandCancelled g s).galleryAsm = s.galleryAsm := (evaluated_commandCancelled g s).galleryAsm
@[simp] theorem plantAsm_commandCancelled : (commandCancelled g s).plantAsm = s.plantAsm := (evaluated_commandCancelled g s).plantAsm
@[simp] theorem gallerySeq_commandCancelled : (commandCancelled g s).gallerySeq = s.gallerySeq := (evaluated_commandCancelled g s).gallerySeq
@[simp] theorem p2g_commandCancelled : (commandCancelled g s).p2g = s.p2g := (evaluated_commandCancelled g s).p2g
@[simp] theorem line_commandCancelled : (commandCancelled g s).line = s.line := (evaluated_commandCancelled g s).line
@[simp] theorem pointer_commandCancelled : (commandCancelled g s).pointer = s.pointer := (evaluated_commandCancelled g s).pointer
@[simp] theorem pollList_commandCancelled : (commandCancelled g s).pollList = s.pollList := (evaluated_commandCancelled g s).pollList
@[simp] theorem cursors_commandCancelled : (commandCancelled g s).cursors = s.cursors := (evaluated_commandCancelled g s).cursors
@[simp] theorem procedure_commandCancelled : (commandCancelled g s).procedure = s.procedure := (evaluated_commandCancelled g s).procedure
@[simp] theorem supervision_commandCancelled : (commandCancelled g s).supervision = s.supervision := (evaluated_commandCancelled g s).supervision
@[simp] theorem store_commandCancelled : (commandCancelled g s).store = s.store := (evaluated_commandCancelled g s).store
@[simp] theorem save_commandCancelled : (commandCancelled g s).save = s.save := (evaluated_commandCancelled g s).save
@[simp] theorem restartWaiting_commandCancelled : (commandCancelled g s).restartWaiting = s.restartWaiting := (evaluated_commandCancelled g s).restartWaiting
@[simp] theorem faulty_commandCancelled : (commandCancelled g s).faulty = s.faulty := (evaluated_commandCancelled g s).faulty
@[simp] theorem imageFaultRaised_commandCancelled : (commandCancelled g s).imageFaultRaised = s.imageFaultRaised := (evaluated_commandCancelled g s).imageFaultRaised
@[simp] theorem node_commandCancelled (i : Nat) : (commandCancelled g s).node i = s.node i := (evaluated_commandCancelled g s).node i
@[simp] theorem point_commandCancelled (i : Nat) : (commandCancelled g s).point i = s.point i := (evaluated_commandCancelled g s).point i
@[simp] theorem object_commandCancelled (i : Nat) : (commandCancelled g s).object i = s.object i := (evaluated_commandCancelled g s).object i

end commandCancelled

/-! ### nodeBack -/

section nodeBack

variable (n : Nat) (s : State)

@[simp] theorem pending_nodeBack : (nodeBack n s).pending = s.pending := (evaluated_nodeBack n s).pending
@[simp] theorem handed_nodeBack : (nodeBack n s).handed = s.handed := (evaluated_nodeBack n s).handed
@[simp] theorem freeCount_nodeBack : (nodeBack n s).freeCount = s.freeCount := (evaluated_nodeBack n s).freeCount
@[simp] theorem now_nodeBack : (nodeBack n s).now = s.now := (evaluated_nodeBack n s).now
@[simp] theorem loading_nodeBack : (nodeBack n s).loading = s.loading := (evaluated_nodeBack n s).loading
@[simp] theorem pins_nodeBack : (nodeBack n s).pins = s.pins := (evaluated_nodeBack n s).pins
@[simp] theorem device_nodeBack : (nodeBack n s).device = s.device := (evaluated_nodeBack n s).device
@[simp] theorem calendar_nodeBack : (nodeBack n s).calendar = s.calendar := (evaluated_nodeBack n s).calendar
@[simp] theorem nodes_nodeBack : (nodeBack n s).nodes = s.nodes := (evaluated_nodeBack n s).nodes
@[simp] theorem points_nodeBack : (nodeBack n s).points = s.points := (evaluated_nodeBack n s).points
@[simp] theorem objects_nodeBack : (nodeBack n s).objects = s.objects := (evaluated_nodeBack n s).objects
@[simp] theorem degraded_nodeBack : (nodeBack n s).degraded = s.degraded := (evaluated_nodeBack n s).degraded
@[simp] theorem galleryAsm_nodeBack : (nodeBack n s).galleryAsm = s.galleryAsm := (evaluated_nodeBack n s).galleryAsm
@[simp] theorem plantAsm_nodeBack : (nodeBack n s).plantAsm = s.plantAsm := (evaluated_nodeBack n s).plantAsm
@[simp] theorem gallerySeq_nodeBack : (nodeBack n s).gallerySeq = s.gallerySeq := (evaluated_nodeBack n s).gallerySeq
@[simp] theorem p2g_nodeBack : (nodeBack n s).p2g = s.p2g := (evaluated_nodeBack n s).p2g
@[simp] theorem line_nodeBack : (nodeBack n s).line = s.line := (evaluated_nodeBack n s).line
@[simp] theorem pointer_nodeBack : (nodeBack n s).pointer = s.pointer := (evaluated_nodeBack n s).pointer
@[simp] theorem pollList_nodeBack : (nodeBack n s).pollList = s.pollList := (evaluated_nodeBack n s).pollList
@[simp] theorem cursors_nodeBack : (nodeBack n s).cursors = s.cursors := (evaluated_nodeBack n s).cursors
@[simp] theorem procedure_nodeBack : (nodeBack n s).procedure = s.procedure := (evaluated_nodeBack n s).procedure
@[simp] theorem supervision_nodeBack : (nodeBack n s).supervision = s.supervision := (evaluated_nodeBack n s).supervision
@[simp] theorem store_nodeBack : (nodeBack n s).store = s.store := (evaluated_nodeBack n s).store
@[simp] theorem save_nodeBack : (nodeBack n s).save = s.save := (evaluated_nodeBack n s).save
@[simp] theorem restartWaiting_nodeBack : (nodeBack n s).restartWaiting = s.restartWaiting := (evaluated_nodeBack n s).restartWaiting
@[simp] theorem faulty_nodeBack : (nodeBack n s).faulty = s.faulty := (evaluated_nodeBack n s).faulty
@[simp] theorem imageFaultRaised_nodeBack : (nodeBack n s).imageFaultRaised = s.imageFaultRaised := (evaluated_nodeBack n s).imageFaultRaised
@[simp] theorem node_nodeBack (i : Nat) : (nodeBack n s).node i = s.node i := (evaluated_nodeBack n s).node i
@[simp] theorem point_nodeBack (i : Nat) : (nodeBack n s).point i = s.point i := (evaluated_nodeBack n s).point i
@[simp] theorem object_nodeBack (i : Nat) : (nodeBack n s).object i = s.object i := (evaluated_nodeBack n s).object i

end nodeBack

/-! ### capClear -/

section capClear

variable (g : Nat) (s : State)

@[simp] theorem pending_capClear : (capClear g s).pending = s.pending := (evaluated_capClear g s).pending
@[simp] theorem handed_capClear : (capClear g s).handed = s.handed := (evaluated_capClear g s).handed
@[simp] theorem freeCount_capClear : (capClear g s).freeCount = s.freeCount := (evaluated_capClear g s).freeCount
@[simp] theorem now_capClear : (capClear g s).now = s.now := (evaluated_capClear g s).now
@[simp] theorem loading_capClear : (capClear g s).loading = s.loading := (evaluated_capClear g s).loading
@[simp] theorem pins_capClear : (capClear g s).pins = s.pins := (evaluated_capClear g s).pins
@[simp] theorem device_capClear : (capClear g s).device = s.device := (evaluated_capClear g s).device
@[simp] theorem calendar_capClear : (capClear g s).calendar = s.calendar := (evaluated_capClear g s).calendar
@[simp] theorem nodes_capClear : (capClear g s).nodes = s.nodes := (evaluated_capClear g s).nodes
@[simp] theorem points_capClear : (capClear g s).points = s.points := (evaluated_capClear g s).points
@[simp] theorem objects_capClear : (capClear g s).objects = s.objects := (evaluated_capClear g s).objects
@[simp] theorem degraded_capClear : (capClear g s).degraded = s.degraded := (evaluated_capClear g s).degraded
@[simp] theorem galleryAsm_capClear : (capClear g s).galleryAsm = s.galleryAsm := (evaluated_capClear g s).galleryAsm
@[simp] theorem plantAsm_capClear : (capClear g s).plantAsm = s.plantAsm := (evaluated_capClear g s).plantAsm
@[simp] theorem gallerySeq_capClear : (capClear g s).gallerySeq = s.gallerySeq := (evaluated_capClear g s).gallerySeq
@[simp] theorem p2g_capClear : (capClear g s).p2g = s.p2g := (evaluated_capClear g s).p2g
@[simp] theorem line_capClear : (capClear g s).line = s.line := (evaluated_capClear g s).line
@[simp] theorem pointer_capClear : (capClear g s).pointer = s.pointer := (evaluated_capClear g s).pointer
@[simp] theorem pollList_capClear : (capClear g s).pollList = s.pollList := (evaluated_capClear g s).pollList
@[simp] theorem cursors_capClear : (capClear g s).cursors = s.cursors := (evaluated_capClear g s).cursors
@[simp] theorem procedure_capClear : (capClear g s).procedure = s.procedure := (evaluated_capClear g s).procedure
@[simp] theorem supervision_capClear : (capClear g s).supervision = s.supervision := (evaluated_capClear g s).supervision
@[simp] theorem store_capClear : (capClear g s).store = s.store := (evaluated_capClear g s).store
@[simp] theorem save_capClear : (capClear g s).save = s.save := (evaluated_capClear g s).save
@[simp] theorem restartWaiting_capClear : (capClear g s).restartWaiting = s.restartWaiting := (evaluated_capClear g s).restartWaiting
@[simp] theorem faulty_capClear : (capClear g s).faulty = s.faulty := (evaluated_capClear g s).faulty
@[simp] theorem imageFaultRaised_capClear : (capClear g s).imageFaultRaised = s.imageFaultRaised := (evaluated_capClear g s).imageFaultRaised
@[simp] theorem node_capClear (i : Nat) : (capClear g s).node i = s.node i := (evaluated_capClear g s).node i
@[simp] theorem point_capClear (i : Nat) : (capClear g s).point i = s.point i := (evaluated_capClear g s).point i
@[simp] theorem object_capClear (i : Nat) : (capClear g s).object i = s.object i := (evaluated_capClear g s).object i

end capClear

/-! ### requestEvaluation -/

section requestEvaluation

variable (z : Nat) (s : State)

@[simp] theorem pending_requestEvaluation : (requestEvaluation z s).pending = s.pending := (lit_requestEvaluation z s).pending
@[simp] theorem handed_requestEvaluation : (requestEvaluation z s).handed = s.handed := (lit_requestEvaluation z s).handed
@[simp] theorem freeCount_requestEvaluation : (requestEvaluation z s).freeCount = s.freeCount := (lit_requestEvaluation z s).freeCount
@[simp] theorem now_requestEvaluation : (requestEvaluation z s).now = s.now := (lit_requestEvaluation z s).now
@[simp] theorem loading_requestEvaluation : (requestEvaluation z s).loading = s.loading := (lit_requestEvaluation z s).loading
@[simp] theorem pins_requestEvaluation : (requestEvaluation z s).pins = s.pins := (lit_requestEvaluation z s).pins
@[simp] theorem device_requestEvaluation : (requestEvaluation z s).device = s.device := (lit_requestEvaluation z s).device
@[simp] theorem calendar_requestEvaluation : (requestEvaluation z s).calendar = s.calendar := (lit_requestEvaluation z s).calendar
@[simp] theorem nodes_requestEvaluation : (requestEvaluation z s).nodes = s.nodes := (lit_requestEvaluation z s).nodes
@[simp] theorem points_requestEvaluation : (requestEvaluation z s).points = s.points := (lit_requestEvaluation z s).points
@[simp] theorem objects_requestEvaluation : (requestEvaluation z s).objects = s.objects := (lit_requestEvaluation z s).objects
@[simp] theorem degraded_requestEvaluation : (requestEvaluation z s).degraded = s.degraded := (lit_requestEvaluation z s).degraded
@[simp] theorem plantAsm_requestEvaluation : (requestEvaluation z s).plantAsm = s.plantAsm := (lit_requestEvaluation z s).plantAsm
@[simp] theorem pollList_requestEvaluation : (requestEvaluation z s).pollList = s.pollList := (lit_requestEvaluation z s).pollList
@[simp] theorem cursors_requestEvaluation : (requestEvaluation z s).cursors = s.cursors := (lit_requestEvaluation z s).cursors
@[simp] theorem procedure_requestEvaluation : (requestEvaluation z s).procedure = s.procedure := (lit_requestEvaluation z s).procedure
@[simp] theorem supervision_requestEvaluation : (requestEvaluation z s).supervision = s.supervision := (lit_requestEvaluation z s).supervision
@[simp] theorem store_requestEvaluation : (requestEvaluation z s).store = s.store := (lit_requestEvaluation z s).store
@[simp] theorem save_requestEvaluation : (requestEvaluation z s).save = s.save := (lit_requestEvaluation z s).save
@[simp] theorem restartWaiting_requestEvaluation : (requestEvaluation z s).restartWaiting = s.restartWaiting := (lit_requestEvaluation z s).restartWaiting
@[simp] theorem faulty_requestEvaluation : (requestEvaluation z s).faulty = s.faulty := (lit_requestEvaluation z s).faulty
@[simp] theorem imageFaultRaised_requestEvaluation : (requestEvaluation z s).imageFaultRaised = s.imageFaultRaised := (lit_requestEvaluation z s).imageFaultRaised
@[simp] theorem node_requestEvaluation (i : Nat) : (requestEvaluation z s).node i = s.node i := (lit_requestEvaluation z s).node i
@[simp] theorem point_requestEvaluation (i : Nat) : (requestEvaluation z s).point i = s.point i := (lit_requestEvaluation z s).point i
@[simp] theorem object_requestEvaluation (i : Nat) : (requestEvaluation z s).object i = s.object i := (lit_requestEvaluation z s).object i

end requestEvaluation

/-! ### rejudge -/

section rejudge

variable (z : Nat) (s : State)

@[simp] theorem pending_rejudge : (rejudge z s).pending = s.pending := (lit_rejudge z s).pending
@[simp] theorem handed_rejudge : (rejudge z s).handed = s.handed := (lit_rejudge z s).handed
@[simp] theorem freeCount_rejudge : (rejudge z s).freeCount = s.freeCount := (lit_rejudge z s).freeCount
@[simp] theorem now_rejudge : (rejudge z s).now = s.now := (lit_rejudge z s).now
@[simp] theorem loading_rejudge : (rejudge z s).loading = s.loading := (lit_rejudge z s).loading
@[simp] theorem pins_rejudge : (rejudge z s).pins = s.pins := (lit_rejudge z s).pins
@[simp] theorem device_rejudge : (rejudge z s).device = s.device := (lit_rejudge z s).device
@[simp] theorem calendar_rejudge : (rejudge z s).calendar = s.calendar := (lit_rejudge z s).calendar
@[simp] theorem nodes_rejudge : (rejudge z s).nodes = s.nodes := (lit_rejudge z s).nodes
@[simp] theorem points_rejudge : (rejudge z s).points = s.points := (lit_rejudge z s).points
@[simp] theorem objects_rejudge : (rejudge z s).objects = s.objects := (lit_rejudge z s).objects
@[simp] theorem degraded_rejudge : (rejudge z s).degraded = s.degraded := (lit_rejudge z s).degraded
@[simp] theorem plantAsm_rejudge : (rejudge z s).plantAsm = s.plantAsm := (lit_rejudge z s).plantAsm
@[simp] theorem pollList_rejudge : (rejudge z s).pollList = s.pollList := (lit_rejudge z s).pollList
@[simp] theorem cursors_rejudge : (rejudge z s).cursors = s.cursors := (lit_rejudge z s).cursors
@[simp] theorem procedure_rejudge : (rejudge z s).procedure = s.procedure := (lit_rejudge z s).procedure
@[simp] theorem supervision_rejudge : (rejudge z s).supervision = s.supervision := (lit_rejudge z s).supervision
@[simp] theorem store_rejudge : (rejudge z s).store = s.store := (lit_rejudge z s).store
@[simp] theorem save_rejudge : (rejudge z s).save = s.save := (lit_rejudge z s).save
@[simp] theorem restartWaiting_rejudge : (rejudge z s).restartWaiting = s.restartWaiting := (lit_rejudge z s).restartWaiting
@[simp] theorem faulty_rejudge : (rejudge z s).faulty = s.faulty := (lit_rejudge z s).faulty
@[simp] theorem imageFaultRaised_rejudge : (rejudge z s).imageFaultRaised = s.imageFaultRaised := (lit_rejudge z s).imageFaultRaised
@[simp] theorem node_rejudge (i : Nat) : (rejudge z s).node i = s.node i := (lit_rejudge z s).node i
@[simp] theorem point_rejudge (i : Nat) : (rejudge z s).point i = s.point i := (lit_rejudge z s).point i
@[simp] theorem object_rejudge (i : Nat) : (rejudge z s).object i = s.object i := (lit_rejudge z s).object i

end rejudge

/-! ### grant -/

section grant

variable (s : State)

@[simp] theorem pending_grant : (grant s).pending = s.pending := (lit_grant s).pending
@[simp] theorem handed_grant : (grant s).handed = s.handed := (lit_grant s).handed
@[simp] theorem freeCount_grant : (grant s).freeCount = s.freeCount := (lit_grant s).freeCount
@[simp] theorem now_grant : (grant s).now = s.now := (lit_grant s).now
@[simp] theorem loading_grant : (grant s).loading = s.loading := (lit_grant s).loading
@[simp] theorem pins_grant : (grant s).pins = s.pins := (lit_grant s).pins
@[simp] theorem device_grant : (grant s).device = s.device := (lit_grant s).device
@[simp] theorem calendar_grant : (grant s).calendar = s.calendar := (lit_grant s).calendar
@[simp] theorem nodes_grant : (grant s).nodes = s.nodes := (lit_grant s).nodes
@[simp] theorem points_grant : (grant s).points = s.points := (lit_grant s).points
@[simp] theorem objects_grant : (grant s).objects = s.objects := (lit_grant s).objects
@[simp] theorem degraded_grant : (grant s).degraded = s.degraded := (lit_grant s).degraded
@[simp] theorem plantAsm_grant : (grant s).plantAsm = s.plantAsm := (lit_grant s).plantAsm
@[simp] theorem pollList_grant : (grant s).pollList = s.pollList := (lit_grant s).pollList
@[simp] theorem cursors_grant : (grant s).cursors = s.cursors := (lit_grant s).cursors
@[simp] theorem procedure_grant : (grant s).procedure = s.procedure := (lit_grant s).procedure
@[simp] theorem supervision_grant : (grant s).supervision = s.supervision := (lit_grant s).supervision
@[simp] theorem store_grant : (grant s).store = s.store := (lit_grant s).store
@[simp] theorem save_grant : (grant s).save = s.save := (lit_grant s).save
@[simp] theorem restartWaiting_grant : (grant s).restartWaiting = s.restartWaiting := (lit_grant s).restartWaiting
@[simp] theorem faulty_grant : (grant s).faulty = s.faulty := (lit_grant s).faulty
@[simp] theorem imageFaultRaised_grant : (grant s).imageFaultRaised = s.imageFaultRaised := (lit_grant s).imageFaultRaised
@[simp] theorem node_grant (i : Nat) : (grant s).node i = s.node i := (lit_grant s).node i
@[simp] theorem point_grant (i : Nat) : (grant s).point i = s.point i := (lit_grant s).point i
@[simp] theorem object_grant (i : Nat) : (grant s).object i = s.object i := (lit_grant s).object i

end grant

/-! ### grantJoined -/

section grantJoined

variable (s : State)

@[simp] theorem pending_grantJoined : (grantJoined s).pending = s.pending := (lit_grantJoined s).pending
@[simp] theorem handed_grantJoined : (grantJoined s).handed = s.handed := (lit_grantJoined s).handed
@[simp] theorem freeCount_grantJoined : (grantJoined s).freeCount = s.freeCount := (lit_grantJoined s).freeCount
@[simp] theorem now_grantJoined : (grantJoined s).now = s.now := (lit_grantJoined s).now
@[simp] theorem loading_grantJoined : (grantJoined s).loading = s.loading := (lit_grantJoined s).loading
@[simp] theorem pins_grantJoined : (grantJoined s).pins = s.pins := (lit_grantJoined s).pins
@[simp] theorem device_grantJoined : (grantJoined s).device = s.device := (lit_grantJoined s).device
@[simp] theorem calendar_grantJoined : (grantJoined s).calendar = s.calendar := (lit_grantJoined s).calendar
@[simp] theorem nodes_grantJoined : (grantJoined s).nodes = s.nodes := (lit_grantJoined s).nodes
@[simp] theorem points_grantJoined : (grantJoined s).points = s.points := (lit_grantJoined s).points
@[simp] theorem objects_grantJoined : (grantJoined s).objects = s.objects := (lit_grantJoined s).objects
@[simp] theorem degraded_grantJoined : (grantJoined s).degraded = s.degraded := (lit_grantJoined s).degraded
@[simp] theorem plantAsm_grantJoined : (grantJoined s).plantAsm = s.plantAsm := (lit_grantJoined s).plantAsm
@[simp] theorem pollList_grantJoined : (grantJoined s).pollList = s.pollList := (lit_grantJoined s).pollList
@[simp] theorem cursors_grantJoined : (grantJoined s).cursors = s.cursors := (lit_grantJoined s).cursors
@[simp] theorem procedure_grantJoined : (grantJoined s).procedure = s.procedure := (lit_grantJoined s).procedure
@[simp] theorem supervision_grantJoined : (grantJoined s).supervision = s.supervision := (lit_grantJoined s).supervision
@[simp] theorem store_grantJoined : (grantJoined s).store = s.store := (lit_grantJoined s).store
@[simp] theorem save_grantJoined : (grantJoined s).save = s.save := (lit_grantJoined s).save
@[simp] theorem restartWaiting_grantJoined : (grantJoined s).restartWaiting = s.restartWaiting := (lit_grantJoined s).restartWaiting
@[simp] theorem faulty_grantJoined : (grantJoined s).faulty = s.faulty := (lit_grantJoined s).faulty
@[simp] theorem imageFaultRaised_grantJoined : (grantJoined s).imageFaultRaised = s.imageFaultRaised := (lit_grantJoined s).imageFaultRaised
@[simp] theorem node_grantJoined (i : Nat) : (grantJoined s).node i = s.node i := (lit_grantJoined s).node i
@[simp] theorem point_grantJoined (i : Nat) : (grantJoined s).point i = s.point i := (lit_grantJoined s).point i
@[simp] theorem object_grantJoined (i : Nat) : (grantJoined s).object i = s.object i := (lit_grantJoined s).object i

end grantJoined

end Sys2Proof.Machine
end

