-- ==== Sys2Proof/Laws/Changes.lean ====
section
/-! SUPPORT. A change of one entry written out: the entry's own record put into the function that changes it, a node that
enters or leaves ONLINE, a condition that follows a flag, a group with ACTUATOR_SILENT judged, a place in the poll due
list. -/

namespace Sys2Proof.Machine

/-! ### One entry -/

theorem modifyAt_twice {α : Type} {n : Nat} (t : Vector α n) (i : Nat) (f g : α → α) :
    modifyAt (modifyAt t i f) i g = modifyAt t i fun x => g (f x) := by
  unfold modifyAt
  by_cases h : i < n <;> simp [h]

theorem modifyAt_congr {α : Type} {n : Nat} (t : Vector α n) (i : Nat) (f g : α → α) (h : ∀ x ∈ t[i]?, f x = g x) :
    modifyAt t i f = modifyAt t i g := by
  unfold modifyAt
  by_cases l : i < n
  · simp [l, h t[i] (by simp [l])]
  · simp [l]

theorem modNode_twice (s : State) (i : Nat) (f g : Node → Node) :
    (s.modNode i f).modNode i g = s.modNode i fun x => g (f x) := by
  simp only [State.modNode, modifyAt_twice]

theorem modNode_at (s : State) (i : Nat) (f : Node → Node) : s.modNode i f = s.modNode i fun _ => f (s.node i) := by
  simp only [State.modNode]
  rw [modifyAt_congr _ _ f fun _ => f (s.node i)]
  intro y hy
  simp only [State.node, Option.mem_def.1 hy, Option.getD_some]

theorem modNode_same (s : State) (i : Nat) (f : Node → Node) (h : f (s.node i) = s.node i) : s.modNode i f = s := by
  simp only [State.modNode]
  rw [modifyAt_id]
  intro y hy
  simpa only [State.node, Option.mem_def.1 hy, Option.getD_some] using h

theorem modPoint_twice (s : State) (i : Nat) (f g : Point → Point) :
    (s.modPoint i f).modPoint i g = s.modPoint i fun x => g (f x) := by
  simp only [State.modPoint, modifyAt_twice]

theorem modPoint_at (s : State) (i : Nat) (f : Point → Point) : s.modPoint i f = s.modPoint i fun _ => f (s.point i) := by
  simp only [State.modPoint]
  rw [modifyAt_congr _ _ f fun _ => f (s.point i)]
  intro y hy
  simp only [State.point, Option.mem_def.1 hy, Option.getD_some]

theorem modPoint_same (s : State) (i : Nat) (f : Point → Point) (h : f (s.point i) = s.point i) : s.modPoint i f = s := by
  simp only [State.modPoint]
  rw [modifyAt_id]
  intro y hy
  simpa only [State.point, Option.mem_def.1 hy, Option.getD_some] using h

theorem modObject_twice (s : State) (i : Nat) (f g : Obj → Obj) :
    (s.modObject i f).modObject i g = s.modObject i fun x => g (f x) := by
  simp only [State.modObject, modifyAt_twice]

theorem modObject_at (s : State) (i : Nat) (f : Obj → Obj) : s.modObject i f = s.modObject i fun _ => f (s.object i) := by
  simp only [State.modObject]
  rw [modifyAt_congr _ _ f fun _ => f (s.object i)]
  intro y hy
  simp only [State.object, Option.mem_def.1 hy, Option.getD_some]

theorem modObject_same (s : State) (i : Nat) (f : Obj → Obj) (h : f (s.object i) = s.object i) : s.modObject i f = s := by
  simp only [State.modObject]
  rw [modifyAt_id]
  intro y hy
  simpa only [State.object, Option.mem_def.1 hy, Option.getD_some] using h

theorem modGroup_twice (s : State) (i : Nat) (f g : Group → Group) :
    (s.modGroup i f).modGroup i g = s.modGroup i fun x => g (f x) := by
  simp only [State.modGroup, modifyAt_twice]

theorem modGroup_at (s : State) (i : Nat) (f : Group → Group) : s.modGroup i f = s.modGroup i fun _ => f (s.group i) := by
  simp only [State.modGroup]
  rw [modifyAt_congr _ _ f fun _ => f (s.group i)]
  intro y hy
  simp only [State.group, Option.mem_def.1 hy, Option.getD_some]

theorem modGroup_same (s : State) (i : Nat) (f : Group → Group) (h : f (s.group i) = s.group i) : s.modGroup i f = s := by
  simp only [State.modGroup]
  rw [modifyAt_id]
  intro y hy
  simpa only [State.group, Option.mem_def.1 hy, Option.getD_some] using h

theorem modZone_twice (s : State) (i : Nat) (f g : Zone → Zone) :
    (s.modZone i f).modZone i g = s.modZone i fun x => g (f x) := by
  simp only [State.modZone, modifyAt_twice]

theorem modZone_at (s : State) (i : Nat) (f : Zone → Zone) : s.modZone i f = s.modZone i fun _ => f (s.zone i) := by
  simp only [State.modZone]
  rw [modifyAt_congr _ _ f fun _ => f (s.zone i)]
  intro y hy
  simp only [State.zone, Option.mem_def.1 hy, Option.getD_some]

theorem modZone_same (s : State) (i : Nat) (f : Zone → Zone) (h : f (s.zone i) = s.zone i) : s.modZone i f = s := by
  simp only [State.modZone]
  rw [modifyAt_id]
  intro y hy
  simpa only [State.zone, Option.mem_def.1 hy, Option.getD_some] using h

/-! ### Nodes and groups -/

/-- R56: the enabled points of a node that has left ONLINE are LOST. -/
theorem changeNode_leaves (n : Nat) (f : Node → Node) (s : State) (l : n < 64) (h : (s.node n).state = .online)
    (k : (f (s.node n)).state ≠ .online) :
    changeNode n f s = { s.modNode n fun _ => f (s.node n) with
      points := s.points.map fun p =>
        if p.enable && p.node == n then { p with state := .lost, pending := none } else p } := by
  have a : online s n = true := by simp [online, h]
  have b : online (s.modNode n f) n = false := by simp [online, node_modNode_self _ _ _ l, k]
  simp only [changeNode, a, b, judgePointsOf, node_modNode_self _ _ _ l, if_true, Bool.false_eq_true, beq_false,
    Bool.not_true, if_false, points_modNode]
  rw [modNode_at]
  congr 2
  funext p
  by_cases c : (p.enable && p.node == n) = true
  · simp [judgedPoint, pointStateOf, k]
  · simp [c]

/-- R55: the enabled points of a node that has become ONLINE are judged. -/
theorem changeNode_enters (n : Nat) (f : Node → Node) (s : State) (l : n < 64) (h : (s.node n).state ≠ .online)
    (k : (f (s.node n)).state = .online) :
    changeNode n f s = { s.modNode n fun _ => f (s.node n) with
      points := s.points.map fun p => if p.enable && p.node == n then judgedPoint (f (s.node n)) p else p } := by
  have a : online s n = false := by simp [online, h]
  have b : online (s.modNode n f) n = true := by simp [online, node_modNode_self _ _ _ l, k]
  simp only [changeNode, a, b, judgePointsOf, node_modNode_self _ _ _ l, Bool.false_eq_true,
    beq_true, if_false, points_modNode]
  rw [modNode_at]

/-- A change that does not take a node into ONLINE or out of it leaves the points. -/
theorem changeNode_stays (n : Nat) (f : Node → Node) (s : State) (l : n < 64)
    (h : (f (s.node n)).state = .online ↔ (s.node n).state = .online) :
    changeNode n f s = s.modNode n fun _ => f (s.node n) := by
  have a : (online s n == online (s.modNode n f) n) = true := by
    simp only [online, node_modNode_self _ _ _ l, beq_iff_eq]
    by_cases c : (s.node n).state = .online <;> simp [c] at h ⊢ <;> simp [h]
  simp only [changeNode, a, if_true]
  exact modNode_at s n f

theorem follow_eq (k : ConditionKind) (i d : Nat) (a b : Bool) (s : State) :
    follow k i d a b s =
      if b = true ∧ a = false then raise k i d s else if a = true ∧ b = false then clear k i s else s := by
  unfold follow; cases a <;> cases b <;> rfl

theorem zoneAtRest_iff (s : State) (z : Nat) : zoneAtRest s z = true ↔
    ∀ h < 48, (s.group h).enable = true → (s.group h).zone = z → (s.group h).phase = .idle := by
  simp only [zoneAtRest, zoneGroups, indicesWhere, List.all_eq_true, List.mem_filter, List.mem_range, Bool.and_eq_true,
    beq_iff_eq, and_imp]

theorem enabled_node (s : State) (n : Nat) (h : (s.node n).enable = true) : n < 64 := by
  by_contra c; rw [node_beyond s n (by omega)] at h; simp [factoryNode] at h

theorem enabled_group (s : State) (n : Nat) (h : (s.group n).enable = true) : n < 48 := by
  by_contra c; rw [group_beyond s n (by omega)] at h; simp [factoryGroup] at h

/-- R111: what a change of a group does, with ACTUATOR_SILENT judged. -/
theorem changeJudged_eq (g : Nat) (f : Group → Group) (s : State) (l : g < 48)
    (hz : (f (s.group g)).zone = (s.group g).zone) :
    changeJudged g f s = follow .actuatorSilent g (s.group g).zone (groupSilent (s.group g)) (groupSilent (f (s.group g)))
      (s.modGroup g fun _ => f (s.group g)) := by
  simp only [changeJudged, group_modGroup_self _ _ _ l, hz]
  rw [modGroup_at]

theorem groupSilent_true (g : Group) : groupSilent g = true ↔ g.unavailable = true ∨ 3 ≤ g.misses := by
  simp [groupSilent]

theorem groupSilent_false (g : Group) : groupSilent g = false ↔ g.unavailable = false ∧ g.misses < 3 := by
  simp [groupSilent]

/-! ### The poll due list (R31) -/

theorem insertPoll_placed (n due : Nat) (l : List PollEntry) (h : ∀ e ∈ l, e.node ≠ n) :
    ∃ early late, insertPoll ⟨n, due⟩ l = early ++ ⟨n, due⟩ :: late ∧ early ++ late = l ∧
    (∀ e ∈ early, e.due < due ∨ e.due = due ∧ e.node < n) ∧
    ∀ e ∈ late.head?, due < e.due ∨ e.due = due ∧ n < e.node := by
  induction l with
  | nil => exact ⟨[], [], rfl, rfl, by simp, by simp⟩
  | cons x xs ih =>
    unfold insertPoll
    by_cases c : pollBefore ⟨n, due⟩ x = true
    · refine ⟨[], x :: xs, by simp [c], rfl, by simp, ?_⟩
      simp [pollBefore] at c
      simp; omega
    · obtain ⟨a, b, h1, h2, h3, h4⟩ := ih fun e he => h e (by simp [he])
      refine ⟨x :: a, b, by simp [c, h1], by simp [h2], ?_, h4⟩
      intro e he
      rcases List.mem_cons.1 he with r | r
      · subst r
        simp [pollBefore] at c
        have := h e (by simp)
        omega
      · exact h3 e r

/-- R31: an entry that is taken out and inserted stands at its place. -/
theorem placedInPollList_insert (n due : Nat) (l : List PollEntry) :
    placedInPollList n due l (insertPoll ⟨n, due⟩ (removePoll n l)) :=
  let ⟨a, b, h1, h2, h3, h4⟩ := insertPoll_placed n due (removePoll n l) (by simp [removePoll])
  ⟨a, b, h1, h2, h3, h4⟩

end Sys2Proof.Machine
end

