-- ==== Sys2Proof/Laws/Requests.lean ====
section
/-! SUPPORT. What a service request of one element does: the cursor, the element, the reply. -/

namespace Sys2Proof.Machine

/-! ### Cursors (R158) -/

theorem tableNumber_lt (t : TableId) : tableNumber t < 8 := by cases t <;> decide

@[simp] theorem cursorOf_setCursor_self (t : TableId) (p : Position) (s : State) :
    cursorOf (setCursor t p s) t = p := by
  have := tableNumber_lt t
  simp only [cursorOf, setCursor, getElem?_modifyAt]
  simp [this]

theorem setCursor_cursorOf (t : TableId) (s : State) : setCursor t (cursorOf s t) s = s := by
  have h := tableNumber_lt t
  unfold setCursor
  rw [modifyAt_id _ _ _ fun x hx => ?_]
  rw [Vector.getElem?_eq_getElem h] at hx
  simp [cursorOf, Vector.getElem?_eq_getElem h] at hx ⊢
  exact hx

theorem setCursor_setCursor (t : TableId) (p q : Position) (s : State) :
    setCursor t q (setCursor t p s) = setCursor t q s := by
  unfold setCursor modifyAt
  simp [tableNumber_lt t]

@[simp] theorem stepCursor_stay (t : TableId) (s : State) : stepCursor t .stay s = s := setCursor_cursorOf t s

@[simp] theorem loadCursor_none (t : TableId) (s : State) : loadCursor t none s = s := rfl

@[simp] theorem loadCursor_some (t : TableId) (c : Cursor) (s : State) :
    loadCursor t (some c) s = setCursor t ⟨c.entry.toNat, c.field.toNat⟩ s := rfl

theorem toNat_byteOfNat (n : Nat) (h : n < 256) : (byteOfNat n).toNat = n := by
  simp [byteOfNat]; omega

/-! ### The restart of the Supervision Timer at a request (R156, R168) -/

theorem reported_becomeAttended (s : State) :
    Reported s { becomeAttended s with supervision := s.supervision } := by
  unfold becomeAttended
  split
  · exact .refl s
  · have h := reported_clear .mgmtLost 0 { s with supervision := { s.supervision with attended := true } }
    refine ⟨?_, fun q => ?_, fun c => ?_⟩
    · exact congrArg (fun t : State => { t with supervision := s.supervision }) h.frame
    · have k := h.queues ⟨q.g2p, q.p2g, q.origin, q.trims⟩
      exact ⟨k.g2p, k.p2g, k.origin, k.trims⟩
    · have k := h.table ⟨c.length, c.keys⟩
      exact ⟨k.length, k.keys⟩

/-- A restart of the Supervision Timer does what reports do, and changes the timer. -/
theorem reported_supervisionRestart (s : State) :
    Reported s { supervisionRestart s with supervision := s.supervision } := by
  unfold supervisionRestart
  split
  · exact .refl s
  · have h := reported_becomeAttended s
    exact ⟨h.frame, fun q => ⟨(h.queues q).g2p, (h.queues q).p2g, (h.queues q).origin, (h.queues q).trims⟩,
      fun c => ⟨(h.table c).length, (h.table c).keys⟩⟩

section supervisionRestart

variable (s : State)

@[simp] theorem pending_supervisionRestart : (supervisionRestart s).pending = s.pending := (congrArg State.pending (reported_supervisionRestart s).frame :)
@[simp] theorem handed_supervisionRestart : (supervisionRestart s).handed = s.handed := (congrArg State.handed (reported_supervisionRestart s).frame :)
@[simp] theorem freeCount_supervisionRestart : (supervisionRestart s).freeCount = s.freeCount := (congrArg State.freeCount (reported_supervisionRestart s).frame :)
@[simp] theorem now_supervisionRestart : (supervisionRestart s).now = s.now := (congrArg State.now (reported_supervisionRestart s).frame :)
@[simp] theorem loading_supervisionRestart : (supervisionRestart s).loading = s.loading := (congrArg State.loading (reported_supervisionRestart s).frame :)
@[simp] theorem pins_supervisionRestart : (supervisionRestart s).pins = s.pins := (congrArg State.pins (reported_supervisionRestart s).frame :)
@[simp] theorem device_supervisionRestart : (supervisionRestart s).device = s.device := (congrArg State.device (reported_supervisionRestart s).frame :)
@[simp] theorem calendar_supervisionRestart : (supervisionRestart s).calendar = s.calendar := (congrArg State.calendar (reported_supervisionRestart s).frame :)
@[simp] theorem nodes_supervisionRestart : (supervisionRestart s).nodes = s.nodes := (congrArg State.nodes (reported_supervisionRestart s).frame :)
@[simp] theorem points_supervisionRestart : (supervisionRestart s).points = s.points := (congrArg State.points (reported_supervisionRestart s).frame :)
@[simp] theorem objects_supervisionRestart : (supervisionRestart s).objects = s.objects := (congrArg State.objects (reported_supervisionRestart s).frame :)
@[simp] theorem groups_supervisionRestart : (supervisionRestart s).groups = s.groups := (congrArg State.groups (reported_supervisionRestart s).frame :)
@[simp] theorem zones_supervisionRestart : (supervisionRestart s).zones = s.zones := (congrArg State.zones (reported_supervisionRestart s).frame :)
@[simp] theorem degraded_supervisionRestart : (supervisionRestart s).degraded = s.degraded := (congrArg State.degraded (reported_supervisionRestart s).frame :)
@[simp] theorem galleryAsm_supervisionRestart : (supervisionRestart s).galleryAsm = s.galleryAsm := (congrArg State.galleryAsm (reported_supervisionRestart s).frame :)
@[simp] theorem plantAsm_supervisionRestart : (supervisionRestart s).plantAsm = s.plantAsm := (congrArg State.plantAsm (reported_supervisionRestart s).frame :)
@[simp] theorem gallerySeq_supervisionRestart : (supervisionRestart s).gallerySeq = s.gallerySeq := (congrArg State.gallerySeq (reported_supervisionRestart s).frame :)
@[simp] theorem p2g_supervisionRestart : (supervisionRestart s).p2g = s.p2g := (congrArg State.p2g (reported_supervisionRestart s).frame :)
@[simp] theorem line_supervisionRestart : (supervisionRestart s).line = s.line := (congrArg State.line (reported_supervisionRestart s).frame :)
@[simp] theorem pointer_supervisionRestart : (supervisionRestart s).pointer = s.pointer := (congrArg State.pointer (reported_supervisionRestart s).frame :)
@[simp] theorem galleryOrigin_supervisionRestart : (supervisionRestart s).galleryOrigin = s.galleryOrigin := (congrArg State.galleryOrigin (reported_supervisionRestart s).frame :)
@[simp] theorem pollList_supervisionRestart : (supervisionRestart s).pollList = s.pollList := (congrArg State.pollList (reported_supervisionRestart s).frame :)
@[simp] theorem cursors_supervisionRestart : (supervisionRestart s).cursors = s.cursors := (congrArg State.cursors (reported_supervisionRestart s).frame :)
@[simp] theorem procedure_supervisionRestart : (supervisionRestart s).procedure = s.procedure := (congrArg State.procedure (reported_supervisionRestart s).frame :)
@[simp] theorem store_supervisionRestart : (supervisionRestart s).store = s.store := (congrArg State.store (reported_supervisionRestart s).frame :)
@[simp] theorem save_supervisionRestart : (supervisionRestart s).save = s.save := (congrArg State.save (reported_supervisionRestart s).frame :)
@[simp] theorem restartWaiting_supervisionRestart : (supervisionRestart s).restartWaiting = s.restartWaiting := (congrArg State.restartWaiting (reported_supervisionRestart s).frame :)
@[simp] theorem faulty_supervisionRestart : (supervisionRestart s).faulty = s.faulty := (congrArg State.faulty (reported_supervisionRestart s).frame :)
@[simp] theorem imageFaultRaised_supervisionRestart : (supervisionRestart s).imageFaultRaised = s.imageFaultRaised := (congrArg State.imageFaultRaised (reported_supervisionRestart s).frame :)
@[simp] theorem node_supervisionRestart (i : Nat) : (supervisionRestart s).node i = s.node i := node_congr (nodes_supervisionRestart ..) i
@[simp] theorem point_supervisionRestart (i : Nat) : (supervisionRestart s).point i = s.point i := point_congr (points_supervisionRestart ..) i
@[simp] theorem object_supervisionRestart (i : Nat) : (supervisionRestart s).object i = s.object i := object_congr (objects_supervisionRestart ..) i
@[simp] theorem group_supervisionRestart (i : Nat) : (supervisionRestart s).group i = s.group i := group_congr (groups_supervisionRestart ..) i
@[simp] theorem zone_supervisionRestart (i : Nat) : (supervisionRestart s).zone i = s.zone i := zone_congr (zones_supervisionRestart ..) i

end supervisionRestart

/-! ### The answer -/

theorem reported_answer (rq : Requester) (st : Status) (s : State) : Reported s (answer rq st s) :=
  reported_offerOrigin _ s (by simp)

section answer

variable (rq : Requester) (st : Status) (s : State)

@[simp] theorem pending_answer : (answer rq st s).pending = s.pending := (reported_answer rq st s).pending
@[simp] theorem handed_answer : (answer rq st s).handed = s.handed := (reported_answer rq st s).handed
@[simp] theorem freeCount_answer : (answer rq st s).freeCount = s.freeCount := (reported_answer rq st s).freeCount
@[simp] theorem now_answer : (answer rq st s).now = s.now := (reported_answer rq st s).now
@[simp] theorem loading_answer : (answer rq st s).loading = s.loading := (reported_answer rq st s).loading
@[simp] theorem pins_answer : (answer rq st s).pins = s.pins := (reported_answer rq st s).pins
@[simp] theorem device_answer : (answer rq st s).device = s.device := (reported_answer rq st s).device
@[simp] theorem calendar_answer : (answer rq st s).calendar = s.calendar := (reported_answer rq st s).calendar
@[simp] theorem nodes_answer : (answer rq st s).nodes = s.nodes := (reported_answer rq st s).nodes
@[simp] theorem points_answer : (answer rq st s).points = s.points := (reported_answer rq st s).points
@[simp] theorem objects_answer : (answer rq st s).objects = s.objects := (reported_answer rq st s).objects
@[simp] theorem groups_answer : (answer rq st s).groups = s.groups := (reported_answer rq st s).groups
@[simp] theorem zones_answer : (answer rq st s).zones = s.zones := (reported_answer rq st s).zones
@[simp] theorem degraded_answer : (answer rq st s).degraded = s.degraded := (reported_answer rq st s).degraded
@[simp] theorem galleryAsm_answer : (answer rq st s).galleryAsm = s.galleryAsm := (reported_answer rq st s).galleryAsm
@[simp] theorem plantAsm_answer : (answer rq st s).plantAsm = s.plantAsm := (reported_answer rq st s).plantAsm
@[simp] theorem gallerySeq_answer : (answer rq st s).gallerySeq = s.gallerySeq := (reported_answer rq st s).gallerySeq
@[simp] theorem p2g_answer : (answer rq st s).p2g = s.p2g := (reported_answer rq st s).p2g
@[simp] theorem line_answer : (answer rq st s).line = s.line := (reported_answer rq st s).line
@[simp] theorem pointer_answer : (answer rq st s).pointer = s.pointer := (reported_answer rq st s).pointer
@[simp] theorem galleryOrigin_answer : (answer rq st s).galleryOrigin = s.galleryOrigin := (reported_answer rq st s).galleryOrigin
@[simp] theorem pollList_answer : (answer rq st s).pollList = s.pollList := (reported_answer rq st s).pollList
@[simp] theorem cursors_answer : (answer rq st s).cursors = s.cursors := (reported_answer rq st s).cursors
@[simp] theorem procedure_answer : (answer rq st s).procedure = s.procedure := (reported_answer rq st s).procedure
@[simp] theorem supervision_answer : (answer rq st s).supervision = s.supervision := (reported_answer rq st s).supervision
@[simp] theorem store_answer : (answer rq st s).store = s.store := (reported_answer rq st s).store
@[simp] theorem save_answer : (answer rq st s).save = s.save := (reported_answer rq st s).save
@[simp] theorem restartWaiting_answer : (answer rq st s).restartWaiting = s.restartWaiting := (reported_answer rq st s).restartWaiting
@[simp] theorem faulty_answer : (answer rq st s).faulty = s.faulty := (reported_answer rq st s).faulty
@[simp] theorem imageFaultRaised_answer : (answer rq st s).imageFaultRaised = s.imageFaultRaised := (reported_answer rq st s).imageFaultRaised
@[simp] theorem node_answer (i : Nat) : (answer rq st s).node i = s.node i := node_congr (nodes_answer ..) i
@[simp] theorem point_answer (i : Nat) : (answer rq st s).point i = s.point i := point_congr (points_answer ..) i
@[simp] theorem object_answer (i : Nat) : (answer rq st s).object i = s.object i := object_congr (objects_answer ..) i
@[simp] theorem group_answer (i : Nat) : (answer rq st s).group i = s.group i := group_congr (groups_answer ..) i
@[simp] theorem zone_answer (i : Nat) : (answer rq st s).zone i = s.zone i := zone_congr (zones_answer ..) i

end answer

/-! ### The state in which a one-field request is judged -/

section fieldReached

variable (t : TableId) (e : Half) (f : Nat) (s : State)

@[simp] theorem pending_fieldReached : (fieldReached t e f s).pending = s.pending := pending_supervisionRestart s
@[simp] theorem handed_fieldReached : (fieldReached t e f s).handed = s.handed := handed_supervisionRestart s
@[simp] theorem freeCount_fieldReached : (fieldReached t e f s).freeCount = s.freeCount := freeCount_supervisionRestart s
@[simp] theorem now_fieldReached : (fieldReached t e f s).now = s.now := now_supervisionRestart s
@[simp] theorem loading_fieldReached : (fieldReached t e f s).loading = s.loading := loading_supervisionRestart s
@[simp] theorem pins_fieldReached : (fieldReached t e f s).pins = s.pins := pins_supervisionRestart s
@[simp] theorem device_fieldReached : (fieldReached t e f s).device = s.device := device_supervisionRestart s
@[simp] theorem calendar_fieldReached : (fieldReached t e f s).calendar = s.calendar := calendar_supervisionRestart s
@[simp] theorem nodes_fieldReached : (fieldReached t e f s).nodes = s.nodes := nodes_supervisionRestart s
@[simp] theorem points_fieldReached : (fieldReached t e f s).points = s.points := points_supervisionRestart s
@[simp] theorem objects_fieldReached : (fieldReached t e f s).objects = s.objects := objects_supervisionRestart s
@[simp] theorem groups_fieldReached : (fieldReached t e f s).groups = s.groups := groups_supervisionRestart s
@[simp] theorem zones_fieldReached : (fieldReached t e f s).zones = s.zones := zones_supervisionRestart s
@[simp] theorem degraded_fieldReached : (fieldReached t e f s).degraded = s.degraded := degraded_supervisionRestart s
@[simp] theorem galleryAsm_fieldReached : (fieldReached t e f s).galleryAsm = s.galleryAsm := galleryAsm_supervisionRestart s
@[simp] theorem plantAsm_fieldReached : (fieldReached t e f s).plantAsm = s.plantAsm := plantAsm_supervisionRestart s
@[simp] theorem gallerySeq_fieldReached : (fieldReached t e f s).gallerySeq = s.gallerySeq := gallerySeq_supervisionRestart s
@[simp] theorem p2g_fieldReached : (fieldReached t e f s).p2g = s.p2g := p2g_supervisionRestart s
@[simp] theorem line_fieldReached : (fieldReached t e f s).line = s.line := line_supervisionRestart s
@[simp] theorem pointer_fieldReached : (fieldReached t e f s).pointer = s.pointer := pointer_supervisionRestart s
@[simp] theorem galleryOrigin_fieldReached : (fieldReached t e f s).galleryOrigin = s.galleryOrigin := galleryOrigin_supervisionRestart s
@[simp] theorem pollList_fieldReached : (fieldReached t e f s).pollList = s.pollList := pollList_supervisionRestart s
@[simp] theorem procedure_fieldReached : (fieldReached t e f s).procedure = s.procedure := procedure_supervisionRestart s
@[simp] theorem store_fieldReached : (fieldReached t e f s).store = s.store := store_supervisionRestart s
@[simp] theorem save_fieldReached : (fieldReached t e f s).save = s.save := save_supervisionRestart s
@[simp] theorem restartWaiting_fieldReached : (fieldReached t e f s).restartWaiting = s.restartWaiting := restartWaiting_supervisionRestart s
@[simp] theorem faulty_fieldReached : (fieldReached t e f s).faulty = s.faulty := faulty_supervisionRestart s
@[simp] theorem imageFaultRaised_fieldReached : (fieldReached t e f s).imageFaultRaised = s.imageFaultRaised := imageFaultRaised_supervisionRestart s
@[simp] theorem node_fieldReached (i : Nat) : (fieldReached t e f s).node i = s.node i := node_congr (nodes_fieldReached ..) i
@[simp] theorem point_fieldReached (i : Nat) : (fieldReached t e f s).point i = s.point i := point_congr (points_fieldReached ..) i
@[simp] theorem object_fieldReached (i : Nat) : (fieldReached t e f s).object i = s.object i := object_congr (objects_fieldReached ..) i
@[simp] theorem group_fieldReached (i : Nat) : (fieldReached t e f s).group i = s.group i := group_congr (groups_fieldReached ..) i
@[simp] theorem zone_fieldReached (i : Nat) : (fieldReached t e f s).zone i = s.zone i := zone_congr (zones_fieldReached ..) i

end fieldReached

/-! ### Requests of one element (R156, R157) -/

theorem firstBad_ok (a : Status) : firstBad a .ok = a := by cases a <;> rfl

/-- A change that leaves the gallery origin queue, the nodes and the gallery port asks for no grant. -/
theorem asksGrant_of {s t : State} (q : t.galleryOrigin = s.galleryOrigin) (n : t.nodes = s.nodes)
    (l : t.loading = s.loading) (e : t.device.galleryEnable = s.device.galleryEnable) : asksGrant s t = false := by
  have p : portOn t .gallery = portOn s .gallery := by simp only [portOn, l, e]
  simp [asksGrant, q, node_congr n, p]

theorem asksGrant_self (s : State) : asksGrant s s = false := asksGrant_of rfl rfl rfl rfl

theorem answered_of {s t : State} (rq : Requester) (st : Status) (h : asksGrant s t = false) :
    answered rq st s t = answer rq st t := by simp [answered, h, grantAfter]

theorem answered_self (rq : Requester) (st : Status) (s : State) : answered rq st s s = answer rq st s :=
  answered_of rq st (asksGrant_self s)

/-- A request of one element that is no accepted SAVE or RESTART answers its results, and then makes its grant. -/
theorem serviceRequest_one (rq : Requester) (e : Option Element) (s t : State) (results : List Byte) (g : Bool)
    (h : takeElement e 0 ⟨supervisionRestart s, [], false, false, false⟩ = ⟨t, results, false, false, g⟩) :
    serviceRequest rq [e] s =
      grantAfter g (offerOrigin ⟨rq.src, kindServiceReply, rq.seq :: results, .reply false⟩ t) := by
  unfold serviceRequest
  simp [takeElements, h, replyFrame]

/-- A write of one field: what `writeValue` answers, after the cursor has been loaded at the field. -/
theorem request_field (rq : Requester) (t : TableId) (entry : Half) (field : Nat) (v : Half) (s : State)
    (h : field < 256) :
    let u := fieldReached t entry field s
    let w := writeValue t ⟨entry.toNat, field⟩ v u
    request rq (fieldElement t entry field v) s = .next (answered rq w.2 u w.1) := by
  dsimp only
  unfold request
  rw [serviceRequest_one rq _ s (writeValue t ⟨entry.toNat, field⟩ v (fieldReached t entry field s)).1
    [statusCode (writeValue t ⟨entry.toNat, field⟩ v (fieldReached t entry field s)).2]
    (asksGrant (fieldReached t entry field s) (writeValue t ⟨entry.toNat, field⟩ v (fieldReached t entry field s)).1)]
  · rfl
  · simp only [fieldElement, takeElement, takeWrite, loadCursor_some, toNat_byteOfNat field h, writeValues,
      stepCursor_stay, firstBad_ok, cursorOf_setCursor_self, Bool.or_false, Bool.false_or]
    rfl

/-- An element that ends the request with FORMAT. -/
theorem request_format (rq : Requester) (s : State) :
    request rq none s = .next (answer rq .format (count .serviceFormatErrors (supervisionRestart s))) := by
  unfold request
  rw [serviceRequest_one rq none s (count .serviceFormatErrors (supervisionRestart s)) [statusCode .format] false rfl]
  rfl

/-- A CALL that is refused. -/
theorem request_refused (rq : Requester) (c : Call) (st : Status) (s : State)
    (h : judgeCall (supervisionRestart s) c = some st) :
    request rq (callElement c) s = .next (answer rq st (supervisionRestart s)) := by
  unfold request
  rw [serviceRequest_one rq _ s (supervisionRestart s) [statusCode st] false]
  · rfl
  · simp [callElement, takeElement, takeCall, h]

/-- A CALL of a procedure that completes at once, accepted. -/
theorem request_accepted (rq : Requester) (c : Call) (s : State) (h : judgeCall (supervisionRestart s) c = none)
    (save : c ≠ .save) (restart : c ≠ .restart) :
    request rq (callElement c) s =
      .next (answered rq .ok (supervisionRestart s) (runCall c (supervisionRestart s))) := by
  unfold request
  rw [serviceRequest_one rq _ s (runCall c (supervisionRestart s)) [statusCode .ok]
    (asksGrant (supervisionRestart s) (runCall c (supervisionRestart s)))]
  · rfl
  · have e : acceptedStatus c = .ok := by cases c <;> simp_all [acceptedStatus]
    simp [callElement, takeElement, takeCall, h, e, save, restart]

/-! ### The elements of a payload (R157) -/

theorem length_takeOctets {n : Nat} {bs a rest : List Byte} (h : takeOctets n bs = some (a, rest)) :
    rest.length ≤ bs.length := by
  unfold takeOctets at h
  split at h
  · simp only [Option.some.injEq, Prod.mk.injEq] at h
    simp [← h.2]
  · simp at h

theorem length_parseCursor {l : Bool} {bs rest : List Byte} {c : Option Cursor}
    (h : parseCursor l bs = some (c, rest)) : rest.length ≤ bs.length := by
  unfold parseCursor at h
  repeat' split at h
  all_goals simp_all
  all_goals omega

theorem length_parseCall {bs rest : List Byte} {c : Call} (h : parseCall bs = some (c, rest)) :
    rest.length ≤ bs.length := by
  unfold parseCall at h
  split at h
  · simp at h
  · rename_i code tail
    have short : ∀ n a r, takeOctets n tail = some (a, r) → r.length ≤ (code :: tail).length := fun n a r e =>
      Nat.le_succ_of_le (length_takeOctets e)
    split at h
    case _ => simp_all
    case _ => simp_all
    case _ =>
      cases e : takeOctets 18 tail with
      | none => simp [e] at h
      | some p => simp [e] at h; exact h.2 ▸ short _ _ _ e
    case _ =>
      cases e : takeOctets 2 tail with
      | none => simp [e] at h
      | some p => simp [e] at h; exact h.2 ▸ short _ _ _ e
    case _ =>
      cases e : takeOctets 2 tail with
      | none => simp [e] at h
      | some p => simp [e] at h; exact h.2 ▸ short _ _ _ e
    case _ => simp_all
    case _ => simp at h

/-- An element takes at least one octet. -/
theorem length_parseElement {bs rest : List Byte} {e : Element} (h : parseElement bs = some (e, rest)) :
    rest.length < bs.length := by
  unfold parseElement at h
  split at h
  · rename_i control table after
    cases ht : tableOfNumber table.toNat with
    | none => simp [ht] at h
    | some t =>
        cases hc : parseCursor (control.toNat / 32 % 2 == 1) after with
        | none => simp [ht, hc] at h
        | some p =>
            obtain ⟨c, body⟩ := p
            have hb := length_parseCursor hc
            cases body with
            | nil => simp [ht, hc] at h
            | cons n tail =>
                simp only [ht, hc, Option.bind_eq_bind, Option.bind_some] at h
                simp only [List.length_cons] at hb ⊢
                split at h
                · split at h
                  · simp at h; rw [← h.2]; omega
                  · cases e2 : takeOctets (2 * n.toNat) tail with
                    | none => simp [e2] at h
                    | some p =>
                        have := length_takeOctets (a := p.1) (rest := p.2) e2
                        simp [e2] at h; rw [← h.2]; omega
                  · cases e2 : parseCall tail with
                    | none => simp [e2] at h
                    | some p =>
                        have := length_parseCall (c := p.1) (rest := p.2) e2
                        simp [e2] at h; rw [← h.2]; omega
                  · simp at h
                · simp at h
  · simp at h

/-- The fuel of the number of octets is enough. -/
theorem parseElements_fuel (fuel : Nat) :
    ∀ bs : List Byte, bs.length ≤ fuel → parseElements fuel bs = elementsOf bs := by
  unfold elementsOf
  induction fuel using Nat.strongRecOn with
  | _ fuel ih =>
    intro bs hb
    match bs, fuel with
    | [], 0 => rfl
    | [], _ + 1 => rfl
    | b :: bs, 0 => simp at hb
    | b :: bs, fuel + 1 =>
        simp only [List.length_cons, parseElements]
        split
        · rfl
        · rename_i e rest he
          have := length_parseElement he
          simp only [List.length_cons] at this hb
          rw [ih fuel (by omega) rest (by omega), ih bs.length (by omega) rest (by omega)]

/-- R157: the first element, and the elements of the octets after it. -/
theorem elementsOf_cons (b : Byte) (bs : List Byte) :
    elementsOf (b :: bs) = match parseElement (b :: bs) with
      | none => [none]
      | some (e, rest) => some e :: elementsOf rest := by
  rw [← parseElements_fuel (bs.length + 1) (b :: bs) (by simp)]
  simp only [parseElements]
  cases h : parseElement (b :: bs) with
  | none => rfl
  | some p =>
      have := length_parseElement (e := p.1) (rest := p.2) h
      simp only [List.length_cons] at this
      simp only
      rw [parseElements_fuel _ _ (by omega)]

end Sys2Proof.Machine
end

