-- ==== Sys2Proof/Laws/Store.lean ====
section
/-! SUPPORT. The image store: every write keeps the canonical form, and a read gives the octet written last. -/

namespace Sys2Proof.Machine

theorem Memory.wf_nil : Memory.wf [] := ⟨List.Pairwise.nil, by simp⟩

theorem Memory.wf_tail {c : Host.Cell} {m : List Host.Cell} (h : Memory.wf (c :: m)) : Memory.wf m :=
  ⟨(List.pairwise_cons.mp h.1).2, fun d hd => h.2 d (List.mem_cons_of_mem _ hd)⟩

theorem mem_storeCell {a : Nat} {v : Byte} {c : Host.Cell} (h : c ∈ storeCell a v) : c = (a, v) ∧ v ≠ erased := by
  unfold storeCell at h
  split at h
  · simp at h
  · rename_i n; simp at h; exact ⟨h, n⟩

theorem mem_storeWrite {m : List Host.Cell} {a : Nat} {v : Byte} {c : Host.Cell} (h : c ∈ storeWrite m a v) :
    (c = (a, v) ∧ v ≠ erased) ∨ c ∈ m := by
  induction m with
  | nil => exact .inl (mem_storeCell h)
  | cons d m ih =>
      obtain ⟨b, w⟩ := d
      unfold storeWrite at h
      split at h
      · rcases List.mem_append.mp h with h | h
        · exact .inl (mem_storeCell h)
        · exact .inr h
      · split at h
        · rcases List.mem_append.mp h with h | h
          · exact .inl (mem_storeCell h)
          · exact .inr (List.mem_cons_of_mem _ h)
        · rcases List.mem_cons.mp h with h | h
          · exact .inr (h ▸ List.mem_cons_self ..)
          · exact (ih h).imp_right (List.mem_cons_of_mem _)

theorem storeCell_append_wf {a : Nat} {v : Byte} {m : List Host.Cell} (h : Memory.wf m) (lt : ∀ c ∈ m, a < c.1) :
    Memory.wf (storeCell a v ++ m) := by
  unfold storeCell
  split
  · simpa using h
  · rename_i n
    exact ⟨List.pairwise_cons.mpr ⟨lt, h.1⟩, fun c hc => by
      rcases List.mem_cons.mp hc with rfl | hc
      · exact n
      · exact h.2 c hc⟩

/-- Every write keeps the canonical form. -/
theorem storeWrite_wf (m : List Host.Cell) (a : Nat) (v : Byte) (h : Memory.wf m) : Memory.wf (storeWrite m a v) := by
  induction m with
  | nil => simpa [storeWrite] using storeCell_append_wf (v := v) h (a := a) (by simp)
  | cons d m ih =>
      obtain ⟨b, w⟩ := d
      have hb := (List.pairwise_cons.mp h.1).1
      unfold storeWrite
      split
      · rename_i lt
        refine storeCell_append_wf h fun c hc => ?_
        rcases List.mem_cons.mp hc with rfl | hc
        · exact lt
        · exact Nat.lt_trans lt (hb c hc)
      · split
        · rename_i e
          subst e
          exact storeCell_append_wf (Memory.wf_tail h) hb
        · have i := ih (Memory.wf_tail h)
          refine ⟨List.pairwise_cons.mpr ⟨fun c hc => ?_, i.1⟩, fun c hc => ?_⟩
          · rcases mem_storeWrite hc with ⟨rfl, _⟩ | hc
            · show b < a; omega
            · exact hb c hc
          · rcases List.mem_cons.mp hc with rfl | hc
            · exact h.2 _ (List.mem_cons_self ..)
            · exact i.2 c hc

theorem storeWriteAll_wf (vs : List Byte) (m : List Host.Cell) (a : Nat) (h : Memory.wf m) :
    Memory.wf (storeWriteAll m a vs) := by
  induction vs generalizing m a with
  | nil => exact h
  | cons v vs ih => exact ih _ _ (storeWrite_wf m a v h)

theorem storeRead_below {m : List Host.Cell} {a : Nat} (h : ∀ c ∈ m, a < c.1) : storeRead m a = erased := by
  induction m with
  | nil => rfl
  | cons d m ih =>
      obtain ⟨b, w⟩ := d
      have : a < b := h (b, w) (List.mem_cons_self ..)
      unfold storeRead
      rw [if_neg (by omega)]
      exact ih fun c hc => h c (List.mem_cons_of_mem _ hc)

theorem storeRead_storeCell (m : List Host.Cell) (a b : Nat) (v : Byte) (h : ∀ c ∈ m, a < c.1) :
    storeRead (storeCell a v ++ m) b = if b = a then v else storeRead m b := by
  unfold storeCell
  split
  · rename_i e
    split
    · rename_i ba; subst ba; simpa [e] using storeRead_below h
    · rfl
  · simp [storeRead]

/-- A write is seen at its address and nowhere else. -/
theorem storeRead_storeWrite (m : List Host.Cell) (a b : Nat) (v : Byte) (h : Memory.wf m) :
    storeRead (storeWrite m a v) b = if b = a then v else storeRead m b := by
  induction m with
  | nil => simpa [storeWrite] using storeRead_storeCell [] a b v (by simp)
  | cons d m ih =>
      obtain ⟨c, w⟩ := d
      have hc := (List.pairwise_cons.mp h.1).1
      unfold storeWrite
      split
      · rename_i lt
        refine storeRead_storeCell _ a b v fun x hx => ?_
        rcases List.mem_cons.mp hx with rfl | hx
        · exact lt
        · exact Nat.lt_trans lt (hc x hx)
      · split
        · rename_i e
          subst e
          rw [storeRead_storeCell m a b v hc]
          by_cases ba : b = a <;> simp [storeRead, ba]
        · rename_i ne
          have i := ih (Memory.wf_tail h)
          by_cases bc : b = c
          · subst bc; simp [storeRead]; omega
          · simp [storeRead, bc, i]

theorem storeRead_storeWriteAll (vs : List Byte) (m : List Host.Cell) (a b : Nat) (h : Memory.wf m) :
    storeRead (storeWriteAll m a vs) b =
      if h : a ≤ b ∧ b - a < vs.length then vs[b - a]'h.2 else storeRead m b := by
  induction vs generalizing m a with
  | nil => simp [storeWriteAll]
  | cons v vs ih =>
      rw [storeWriteAll, ih _ _ (storeWrite_wf m a v h)]
      by_cases in' : a + 1 ≤ b ∧ b - (a + 1) < vs.length
      · have : a ≤ b ∧ b - a < (v :: vs).length := by simp; omega
        rw [dif_pos in', dif_pos this]
        obtain ⟨k, hk⟩ : ∃ k, b - a = k + 1 := ⟨b - a - 1, by omega⟩
        have : b - (a + 1) = k := by omega
        simp [hk, this]
      · rw [dif_neg in', storeRead_storeWrite m a b v h]
        by_cases ba : b = a
        · subst ba; simp
        · have : ¬ (a ≤ b ∧ b - a < (v :: vs).length) := by simp; omega
          rw [dif_neg this, if_neg ba]

/-- What was written at an address is read back from it. -/
theorem storeReadAll_storeWriteAll (vs : List Byte) (m : List Host.Cell) (a : Nat) (h : Memory.wf m) :
    storeReadAll (storeWriteAll m a vs) a vs.length = vs := by
  unfold storeReadAll
  apply List.ext_getElem
  · simp
  · intro i h1 h2
    simp [storeRead_storeWriteAll vs m a (a + i) h, h2]

end Sys2Proof.Machine
end

