-- ==== Sys2Proof/Laws/Keeps.lean ====
section
/-! SUPPORT. What the operations keep (`Keeps`): the bounds of the queues and of the Condition Table, the rings, the store's
form, the ceilings, the setpoints, the groups' levels, and that no enabled node has the own address. -/

namespace Sys2Proof.Machine

/-- R78, R88 for one object. -/
def ceilingLegal (o : Obj) : Prop :=
  o.cfloor ≤ o.cmax ∧ (o.enable = true → o.cfloor ≤ o.ceiling ∧ o.ceiling ≤ o.cmax)

/-- R137, R139 for one zone, kept from one record to the next. -/
structure ZoneKept (z z' : Zone) : Prop where
  ring : z.ring.length ≤ ringCapacity → z'.ring.length ≤ ringCapacity
  rh : setpointInBand z.rh → setpointInBand z'.rh
  temp : setpointInBand z.temp → setpointInBand z'.temp

theorem ZoneKept.refl (z : Zone) : ZoneKept z z := ⟨id, id, id⟩

/-- The invariants that the operations keep, but for those of the ceilings. -/
structure KeepsRest (s t : State) : Prop extends Bounds s t where
  rings : RingsBounded s → RingsBounded t
  store : Memory.wf s.store → Memory.wf t.store
  setpoints : SetpointsInBand s → SetpointsInBand t
  ownAddress : OwnAddressFree s → OwnAddressFree t

/-- The invariants that the operations keep. -/
structure Keeps (s t : State) : Prop extends KeepsRest s t where
  ceilings : CeilingsInRange s → CeilingsInRange t

theorem KeepsRest.trans {s t u : State} (h : KeepsRest s t) (k : KeepsRest t u) : KeepsRest s u :=
  ⟨h.toBounds.trans k.toBounds, k.rings ∘ h.rings, k.store ∘ h.store, k.setpoints ∘ h.setpoints,
    k.ownAddress ∘ h.ownAddress⟩

theorem Keeps.refl (s : State) : Keeps s s := ⟨⟨.refl s, id, id, id, id⟩, id⟩

theorem Keeps.trans {s t u : State} (h : Keeps s t) (k : Keeps t u) : Keeps s u :=
  ⟨h.toKeepsRest.trans k.toKeepsRest, k.ceilings ∘ h.ceilings⟩

/-- What an operation keeps, read off its effect on one entry at a time. -/
theorem keepsRest_of {s t : State} (b : Bounds s t) (z : ∀ i, ZoneKept (s.zone i) (t.zone i))
    (m : Memory.wf s.store → Memory.wf t.store) (n : OwnAddressFree s → OwnAddressFree t) : KeepsRest s t where
  toBounds := b
  rings h i := (z i).ring (h i)
  store := m
  setpoints h i := ⟨(z i).rh (h i).1, (z i).temp (h i).2⟩
  ownAddress := n

theorem keeps_of {s t : State} (b : Bounds s t) (z : ∀ i, ZoneKept (s.zone i) (t.zone i))
    (o : ∀ i, ceilingLegal (s.object i) → ceilingLegal (t.object i)) (m : Memory.wf s.store → Memory.wf t.store)
    (n : OwnAddressFree s → OwnAddressFree t) : Keeps s t where
  toKeepsRest := keepsRest_of b z m n
  ceilings h i := o i (h i)

theorem ownAddressFree_congr {s t : State} (n : t.nodes = s.nodes) (d : t.device.ownAddress = s.device.ownAddress)
    (h : OwnAddressFree s) : OwnAddressFree t := by
  intro i
  rw [node_congr n, d]
  exact h i

/-- An operation that writes none of what the invariants speak of. -/
theorem keeps_plain {s t : State} (g : t.g2p = s.g2p) (p : t.p2g = s.p2g) (q : t.plantOrigin = s.plantOrigin)
    (c : t.conditions = s.conditions) (gr : t.groups = s.groups) (z : t.zones = s.zones) (o : t.objects = s.objects)
    (n : t.nodes = s.nodes) (d : t.device.ownAddress = s.device.ownAddress) (m : t.store = s.store) : Keeps s t :=
  keeps_of (bounds_of g p q c gr) (fun i => by rw [zone_congr z]; exact .refl _)
    (fun i => by rw [object_congr o]; exact id) (m ▸ id) (ownAddressFree_congr n d)

theorem zoneKept_of_settings {z z' : Zone} (h : zoneSettings z' = zoneSettings z) : ZoneKept z z' := by
  have r : z'.ring = z.ring := (congrArg Zone.ring h :)
  have a : z'.rh = z.rh := (congrArg Zone.rh h :)
  have b : z'.temp = z.temp := (congrArg Zone.temp h :)
  exact ⟨r ▸ id, a ▸ id, b ▸ id⟩

theorem Lit.keeps {s t : State} (h : Lit s t) : Keeps s t :=
  keeps_of h.toBounds (fun i => zoneKept_of_settings (h.zone i)) (fun i => by rw [h.object]; exact id)
    (h.store ▸ id) (ownAddressFree_congr h.nodes (congrArg Device.ownAddress h.device :))

theorem Evaluated.keeps {s t : State} (h : Evaluated s t) : Keeps s t := h.lit.keeps

theorem Reported.keeps {s t : State} (h : Reported s t) : Keeps s t := h.lit.keeps

theorem keeps_foldl {α : Type} (f : State → α → State) (h : ∀ s a, Keeps s (f s a)) (l : List α) (s : State) :
    Keeps s (l.foldl f s) := by
  induction l generalizing s with
  | nil => exact .refl s
  | cons a l ih => exact (h s a).trans (ih _)

theorem keeps_forEach (n : Nat) (f : Nat → State → State) (h : ∀ i s, Keeps s (f i s)) (s : State) :
    Keeps s (forEach n f s) := keeps_foldl _ (fun s i => h i s) _ s

/-! ### Counts, events, the queues -/

theorem keeps_countMany (c : CounterId) (n : Nat) (s : State) : Keeps s (countMany c n s) :=
  keeps_plain rfl rfl rfl rfl rfl rfl rfl rfl rfl rfl

theorem keeps_count (c : CounterId) (s : State) : Keeps s (count c s) := keeps_countMany c 1 s

theorem keeps_handOn (c : Instr) (s : State) : Keeps s (handOn c s) :=
  keeps_plain rfl rfl rfl rfl rfl rfl rfl rfl rfl rfl

theorem keeps_taken (c : Instr) (s : State) : Keeps s (taken c s) :=
  keeps_plain rfl rfl rfl rfl rfl rfl rfl rfl rfl rfl

theorem keeps_setCursor (t : TableId) (p : Position) (s : State) : Keeps s (setCursor t p s) :=
  keeps_plain rfl rfl rfl rfl rfl rfl rfl rfl rfl rfl

theorem keeps_restartReplyGone (s : State) : Keeps s (restartReplyGone s) := by
  unfold restartReplyGone
  split
  · exact keeps_plain rfl rfl rfl rfl rfl rfl rfl rfl rfl rfl
  · exact .refl s

theorem keeps_dropOrigin (o : OriginFrame) (s : State) : Keeps s (dropOrigin o s) := by
  unfold dropOrigin
  dsimp only
  split
  · exact (keeps_count _ s).trans (keeps_restartReplyGone _)
  · exact keeps_count _ s

/-- R14, R16: an offer, of any frame. -/
theorem keeps_offerOrigin (o : OriginFrame) (s : State) : Keeps s (offerOrigin o s) := by
  by_cases h : o.tag = .reply true
  · have absent : s.plantOrigin.any (replacesTrim o) = false := by
      rw [List.any_eq_false]
      intro w _
      simp [replacesTrim, h]
    unfold offerOrigin
    split
    · exact keeps_dropOrigin o s
    · rw [absent]
      simp only [Bool.false_eq_true, if_false]
      split
      · rename_i room
        refine Keeps.trans (t := { s with plantOrigin := s.plantOrigin ++ [o] }) ?_ (reported_plantTake _).keeps
        refine keeps_of ⟨fun q => ⟨q.g2p, q.p2g, ?_, ?_⟩, fun q => ⟨q.length, q.keys⟩, levelsInRange_congr rfl⟩
          (fun _ => .refl _) (fun _ => id) id (ownAddressFree_congr rfl rfl)
        · simp only [List.length_append, List.length_singleton]
          omega
        · have t : trimZone o = none := by simp [trimZone, h]
          simp only [List.filterMap_append, List.filterMap_cons, t, List.filterMap_nil, List.append_nil]
          exact q.trims
      · exact keeps_dropOrigin o s
  · exact (reported_offerOrigin o s h).keeps

theorem keeps_offerG2p (f : Frame) (s : State) : Keeps s (offerG2p f s) := (reported_offerG2p f s).keeps

theorem keeps_offerP2g (f : Frame) (s : State) : Keeps s (offerP2g f s) := by
  unfold offerP2g
  split
  · rename_i room
    simp only [Bool.and_eq_true, decide_eq_true_eq] at room
    refine Keeps.trans (t := { s with p2g := s.p2g ++ [f] }) ?_ (lit_grant _).keeps
    refine keeps_of ⟨fun q => ⟨q.g2p, ?_, q.origin, q.trims⟩, fun q => ⟨q.length, q.keys⟩, levelsInRange_congr rfl⟩
      (fun _ => .refl _) (fun _ => id) id (ownAddressFree_congr rfl rfl)
    simp only [List.length_append, List.length_singleton]
    omega
  · exact keeps_count _ s

theorem keeps_becomeAttended (s : State) : Keeps s (becomeAttended s) := by
  unfold becomeAttended
  split
  · exact .refl s
  · refine Keeps.trans ?_ (reported_clear _ _ _).keeps
    exact keeps_plain rfl rfl rfl rfl rfl rfl rfl rfl rfl rfl

theorem keeps_supervisionRestart (s : State) : Keeps s (supervisionRestart s) := by
  unfold supervisionRestart
  split
  · exact .refl s
  · exact (keeps_becomeAttended s).trans (keeps_plain rfl rfl rfl rfl rfl rfl rfl rfl rfl rfl)

theorem keeps_windowStored (s : State) : Keeps s (windowStored s) := by
  unfold windowStored
  split
  · exact (keeps_becomeAttended s).trans (keeps_plain rfl rfl rfl rfl rfl rfl rfl rfl rfl rfl)
  · exact keeps_supervisionRestart s

/-! ### Changes of one entry -/

theorem keeps_modPoint (s : State) (i : Nat) (f : Point → Point) : Keeps s (s.modPoint i f) :=
  keeps_plain rfl rfl rfl rfl rfl rfl rfl rfl rfl rfl

theorem keeps_points (s : State) (v : Vector Point 192) : Keeps s { s with points := v } :=
  keeps_plain rfl rfl rfl rfl rfl rfl rfl rfl rfl rfl

theorem keeps_modNode (s : State) (n : Nat) (f : Node → Node)
    (h : (s.node n).address ≠ s.device.ownAddress ∨ (s.node n).enable = false →
      (f (s.node n)).enable = true → (f (s.node n)).address ≠ s.device.ownAddress) : Keeps s (s.modNode n f) := by
  refine keeps_of (bounds_of rfl rfl rfl rfl rfl) (fun _ => .refl _) (fun _ => id) id fun o m => ?_
  rw [node_modNode]
  split
  · rename_i e
    obtain ⟨rfl, _⟩ := e
    refine h ?_
    by_cases en : (s.node n).enable = true
    · exact .inl (o n en)
    · exact .inr (by simpa using en)
  · exact o m

/-- A change of a node that does not touch its enable and its address. -/
theorem keeps_modNode_same (s : State) (n : Nat) (f : Node → Node)
    (h : ∀ x, (f x).enable = x.enable ∧ (f x).address = x.address) : Keeps s (s.modNode n f) :=
  keeps_modNode s n f fun k e => by
    rw [(h _).2]
    rw [(h _).1] at e
    rcases k with k | k
    · exact k
    · simp [k] at e

/-- A node that ends disabled. -/
theorem keeps_modNode_off (s : State) (n : Nat) (f : Node → Node) (h : ∀ x, (f x).enable = false) :
    Keeps s (s.modNode n f) := keeps_modNode s n f fun _ e => by simp [h] at e

theorem keeps_modObject (s : State) (i : Nat) (f : Obj → Obj)
    (h : ceilingLegal (s.object i) → ceilingLegal (f (s.object i))) : Keeps s (s.modObject i f) := by
  refine keeps_of (bounds_of rfl rfl rfl rfl rfl) (fun _ => .refl _) (fun j => ?_) id (ownAddressFree_congr rfl rfl)
  rw [object_modObject]
  split
  · rename_i e
    obtain ⟨rfl, _⟩ := e
    exact h
  · exact id

/-- A change of an object, whatever it does to the ceiling. -/
theorem keepsRest_modObject (s : State) (i : Nat) (f : Obj → Obj) : KeepsRest s (s.modObject i f) :=
  keepsRest_of (bounds_of rfl rfl rfl rfl rfl) (fun _ => .refl _) id (ownAddressFree_congr rfl rfl)

theorem keeps_modZone (s : State) (i : Nat) (f : Zone → Zone) (h : ZoneKept (s.zone i) (f (s.zone i))) :
    Keeps s (s.modZone i f) := by
  refine keeps_of (bounds_of rfl rfl rfl rfl rfl) (fun j => ?_) (fun _ => id) id (ownAddressFree_congr rfl rfl)
  rw [zone_modZone]
  split
  · rename_i e
    obtain ⟨rfl, _⟩ := e
    exact h
  · exact .refl _

theorem keeps_modGroup (s : State) (i : Nat) (f : Group → Group)
    (h : levelLegal (s.group i) → levelLegal (f (s.group i))) : Keeps s (s.modGroup i f) :=
  keeps_of ⟨fun q => ⟨q.g2p, q.p2g, q.origin, q.trims⟩, fun q => ⟨q.length, q.keys⟩, levelsInRange_modGroup h⟩
    (fun _ => .refl _) (fun _ => id) id (ownAddressFree_congr rfl rfl)

end Sys2Proof.Machine
end

