-- ==== Sys2Proof/Laws/KeepsBlocks.lean ====
section
/-! SUPPORT. What each block's operations keep, block by block. -/

namespace Sys2Proof.Machine

/-! ### Acquisition Monitor (03) -/

theorem keeps_judgePoint (i : Nat) (s : State) : Keeps s (judgePoint i s) := keeps_modPoint _ _ _

theorem keeps_judgePointsOf (n : Nat) (leaving : Bool) (s : State) : Keeps s (judgePointsOf n leaving s) :=
  keeps_points _ _

theorem keeps_changed (n : Nat) (f : Node → Node) (s : State) (h : Keeps s (s.modNode n f)) :
    Keeps s (changeNode n f s) := by
  unfold changeNode
  dsimp only
  split
  · exact h
  · exact h.trans (keeps_judgePointsOf _ _ _)

theorem keeps_changeNode (n : Nat) (f : Node → Node) (s : State)
    (h : ∀ x, (f x).enable = x.enable ∧ (f x).address = x.address) : Keeps s (changeNode n f s) :=
  keeps_changed n f s (keeps_modNode_same s n f h)

theorem keeps_clearIf (b : Bool) (k : ConditionKind) (a : Nat) (s : State) : Keeps s (clearIf b k a s) :=
  (reported_clearIf b k a s).keeps

theorem keeps_raise (k : ConditionKind) (a d : Nat) (s : State) : Keeps s (raise k a d s) :=
  (reported_raise k a d s).keeps

theorem keeps_clear (k : ConditionKind) (a : Nat) (s : State) : Keeps s (clear k a s) := (reported_clear k a s).keeps

theorem keeps_follow (k : ConditionKind) (a d : Nat) (x y : Bool) (s : State) : Keeps s (follow k a d x y s) :=
  (reported_follow k a d x y s).keeps

theorem keeps_clearNodeConditions (n : Nat) (b : NodeState) (s : State) : Keeps s (clearNodeConditions n b s) :=
  (keeps_clearIf _ _ _ _).trans (keeps_clearIf _ _ _ _)

theorem keeps_pollList (s : State) (l : List PollEntry) : Keeps s { s with pollList := l } :=
  keeps_plain rfl rfl rfl rfl rfl rfl rfl rfl rfl rfl

theorem keeps_reschedule (n : Nat) (s : State) : Keeps s (reschedule n s) := by
  unfold reschedule
  split
  · exact .refl s
  · exact keeps_pollList s _

/-- R41, R42: a node takes its enable only where its address is not the own address. -/
theorem keeps_enableNode (n : Nat) (s : State) (h : nodeEnableAllowed s n = true) : Keeps s (enableNode n s) := by
  have m : Keeps s (s.modNode n fun nd =>
      { nd with enable := true, state := .hunting, runLength := 0, misses := 0, recheckDue := false }) := by
    refine keeps_modNode s n _ fun _ _ => ?_
    simp only [nodeEnableAllowed, Bool.and_eq_true, bne_iff_ne, ne_eq] at h
    exact h.1
  exact (m.trans (keeps_pollList _ _)).trans (evaluated_nodeBack _ _).keeps

theorem keeps_disableNode (n : Nat) (s : State) : Keeps s (disableNode n s) :=
  ((keeps_changed n _ s (keeps_modNode_off s n _ (by intro x; rfl))).trans (keeps_pollList _ _)).trans
    (keeps_clearNodeConditions _ _ _)

theorem keeps_rehuntNode (n : Nat) (s : State) : Keeps s (rehuntNode n s) := by
  have m : Keeps s (clearNodeConditions n (s.node n).state (changeNode n (fun nd =>
      { nd with state := .hunting, runLength := 0, misses := 0, recheckDue := false }) s)) :=
    (keeps_changeNode n _ s (by intro x; exact ⟨rfl, rfl⟩)).trans (keeps_clearNodeConditions _ _ _)
  unfold rehuntNode
  dsimp only
  split
  · exact m.trans (evaluated_nodeBack _ _).keeps
  · exact m

theorem keeps_tagCheckOff (n : Nat) (s : State) : Keeps s (tagCheckOff n s) := by
  unfold tagCheckOff
  split <;> first
    | exact keeps_changeNode n _ s (by intro x; exact ⟨rfl, rfl⟩)
    | exact keeps_modNode_same s n _ (by intro x; exact ⟨rfl, rfl⟩)
    | exact .refl s

theorem keeps_setRechecks (s : State) : Keeps s (setRechecks s) := by
  refine keeps_of (bounds_of rfl rfl rfl rfl rfl) (fun _ => .refl _) (fun _ => id) id fun h i => ?_
  have e : ((setRechecks s).node i).enable = (s.node i).enable ∧
      ((setRechecks s).node i).address = (s.node i).address := by
    simp only [State.node, setRechecks, Vector.getElem?_map]
    cases s.nodes[i]? with
    | none => exact ⟨rfl, rfl⟩
    | some nd => simp only [Option.map_some, Option.getD_some]; split <;> exact ⟨rfl, rfl⟩
  rw [e.1, e.2]
  exact h i

theorem keeps_becomeDisplaced (n : Nat) (f : Frame) (s : State) : Keeps s (becomeDisplaced n f s) :=
  (keeps_changeNode n _ s (by intro x; exact ⟨rfl, rfl⟩)).trans (keeps_raise _ _ _ _)

theorem keeps_noted (n : Nat) (f : Frame) (s : State) : Keeps s (s.modNode n (noted f)) :=
  keeps_modNode_same s n _ (by intro x; exact ⟨rfl, rfl⟩)

/-- R43 to R50: a taken frame changes the record of its node, the states of its points, and what a report or an
evaluation does. -/
theorem keeps_takeFrame (n : Nat) (f : Frame) (s : State) : Keeps s (takeFrame n f s) := by
  unfold takeFrame
  split
  · exact .refl s
  · exact keeps_changeNode n _ s (by intro x; exact ⟨rfl, rfl⟩)
  · unfold takeTagcheck
    split
    · split
      · exact keeps_changeNode n _ s (by intro x; exact ⟨rfl, rfl⟩)
      · exact keeps_becomeDisplaced n f s
    · exact keeps_noted n f s
  · unfold takeOnline
    dsimp only
    split
    · exact keeps_modNode_same s n _ (by intro x; exact ⟨rfl, rfl⟩)
    · split
      · unfold takeInSequence
        dsimp only
        have m : Keeps s (s.modNode n fun nd => countLost (gapOf nd f) nd) :=
          keeps_modNode_same s n _ (by intro x; exact ⟨rfl, rfl⟩)
        split
        · split
          · exact m.trans (keeps_modNode_same _ n _ (by intro x; exact ⟨rfl, rfl⟩))
          · exact m.trans (keeps_becomeDisplaced n f _)
        · exact m.trans (keeps_noted n f _)
      · exact keeps_changeNode n _ s (by intro x; exact ⟨rfl, rfl⟩)
  · exact (keeps_modNode_same s n _ (by intro x; exact ⟨rfl, rfl⟩)).trans (keeps_clear _ _ _)
  · unfold takeDisplaced
    split
    · exact ((keeps_modNode_same s n _ (by intro x; exact ⟨rfl, rfl⟩)).trans (keeps_clear _ _ _)).trans
        (evaluated_nodeBack _ _).keeps
    · exact keeps_noted n f s

theorem keeps_nodeSuccess (n : Nat) (s : State) : Keeps s (nodeSuccess n s) := by
  unfold nodeSuccess
  split
  · exact keeps_modNode_same s n _ (by intro x; exact ⟨rfl, rfl⟩)
  · exact .refl s

theorem keeps_nodeMiss (n : Nat) (s : State) : Keeps s (nodeMiss n s) := by
  unfold nodeMiss
  dsimp only
  split
  · have m : Keeps s (s.modNode n fun nd => { nd with misses := satAdd 255 nd.misses 1 }) :=
      keeps_modNode_same s n _ (by intro x; exact ⟨rfl, rfl⟩)
    split
    · exact (m.trans (keeps_changeNode n _ _ (by intro x; exact ⟨rfl, rfl⟩))).trans (keeps_raise _ _ _ _)
    · exact m
  · exact .refl s

theorem keeps_disablePoint (i : Nat) (s : State) : Keeps s (disablePoint i s) :=
  (keeps_modPoint _ _ _).trans (keeps_clearIf _ _ _ _)

/-! ### Readings -/

theorem keeps_faultReading (i : Nat) (s : State) : Keeps s (faultReading i s) := by
  unfold faultReading
  dsimp only
  have m : Keeps s (judgePoint i (s.modPoint i fun p => { p with fault := true, pending := none })) :=
    (keeps_modPoint _ _ _).trans (keeps_judgePoint _ _)
  split
  · exact m
  · exact m.trans (keeps_raise _ _ _ _)

theorem keeps_acceptValue (i : Nat) (v : Int) (s : State) : Keeps s (acceptValue i v s) := by
  unfold acceptValue
  dsimp only
  have m : Keeps s (judgePoint i (clearIf (s.point i).fault .pointFault i
      (s.modPoint i fun p => { p with value := v, age := 0, accepted := true, fault := false }))) :=
    ((keeps_modPoint _ _ _).trans (keeps_clearIf _ _ _ _)).trans (keeps_judgePoint _ _)
  split
  · exact m.trans (lit_requestEvaluation _ _).keeps
  · exact m

theorem keeps_holdValue (i : Nat) (v : Int) (s : State) : Keeps s (holdValue i v s) :=
  (keeps_modPoint _ _ _).trans (keeps_judgePoint _ _)

theorem keeps_dropPending (i : Nat) (s : State) : Keeps s (dropPending i s) := keeps_modPoint _ _ _

theorem keeps_settleReading (i : Nat) (q v : Int) (s : State) : Keeps s (settleReading i q v s) := by
  unfold settleReading
  dsimp only
  split
  · exact (keeps_dropPending _ _).trans (keeps_acceptValue _ _ _)
  · split
    · exact ((keeps_dropPending _ _).trans (keeps_acceptValue _ _ _)).trans (keeps_acceptValue _ _ _)
    · split
      · exact (keeps_dropPending _ _).trans (keeps_acceptValue _ _ _)
      · exact keeps_holdValue _ _ _

theorem keeps_freshReading (i : Nat) (v : Int) (s : State) : Keeps s (freshReading i v s) := by
  unfold freshReading
  dsimp only
  split
  · exact keeps_acceptValue _ _ _
  · split
    · exact keeps_acceptValue _ _ _
    · exact keeps_holdValue _ _ _

theorem keeps_valueReading (i : Nat) (r : Reading) (s : State) : Keeps s (valueReading i r s) := by
  unfold valueReading
  dsimp only
  have m : Keeps s (if readingValue r = sentValue r.quantity r.raw then s
      else s.modPoint i fun p => { p with clamps := satAdd top16 p.clamps 1 }) := by
    split
    · exact .refl s
    · exact keeps_modPoint _ _ _
  split
  · exact m.trans (keeps_settleReading _ _ _ _)
  · exact m.trans (keeps_freshReading _ _ _)

theorem keeps_applyReading (n : Nat) (s : State) (r : Reading) : Keeps s (applyReading n s r) := by
  unfold applyReading
  split
  · exact .refl s
  · split
    · exact keeps_modNode_same s n _ (by intro x; exact ⟨rfl, rfl⟩)
    · split
      · exact keeps_faultReading _ _
      · exact keeps_valueReading _ _ _

theorem keeps_applySample (n : Nat) (payload : List Byte) (s : State) : Keeps s (applySample n payload s) :=
  keeps_foldl _ (keeps_applyReading n) _ s

/-! ### Replies (01, 02) -/

theorem keeps_beginTurnaround (s : State) : Keeps s (beginTurnaround s) := (lit_beginTurnaround s).keeps

theorem keeps_missTransaction (t : Transaction) (s : State) : Keeps s (missTransaction t s) := by
  unfold missTransaction
  split
  · exact ((keeps_count _ s).trans (keeps_nodeMiss _ _)).trans (keeps_reschedule _ _)
  · exact ((keeps_count _ s).trans (evaluated_commandExpiry _ _).keeps).trans (keeps_nodeMiss _ _)
  · exact .refl s

theorem keeps_replyWindowExpiry (s : State) : Keeps s (replyWindowExpiry s) := by
  unfold replyWindowExpiry
  split
  · split
    · exact (keeps_beginTurnaround s).trans (keeps_missTransaction _ _)
    · exact .refl s
  · exact .refl s

theorem keeps_judgeReply (f : Frame) (s : State) : Keeps s (judgeReply f s).1 := by
  unfold judgeReply
  split
  · exact .refl s
  · exact keeps_takeFrame _ f s

theorem keeps_useSample (f : Frame) (j : Judgement) (s : State) : Keeps s (useSample f j s) := by
  unfold useSample
  split
  · split
    · exact keeps_applySample _ _ _
    · exact .refl s
  · exact .refl s

theorem keeps_useReply (t : Transaction) (f : Frame) (j : Judgement) (s : State) : Keeps s (useReply t f j s) := by
  unfold useReply
  split
  · unfold usePollReply
    split
    · split
      · split
        · exact (evaluated_pollEcho _ _ s).keeps
        · exact .refl s
      · exact .refl s
    · exact keeps_useSample f j s
  · unfold useCommandReply
    split
    · exact (evaluated_ownEcho _ _ _ s).keeps
    · exact (evaluated_commandExpiry _ s).keeps
  · unfold useForwardReply
    split
    · split
      · exact (evaluated_forwardedEcho _ _ _ s).keeps
      · exact .refl s
    · exact keeps_useSample f j s

theorem keeps_handSuccess (t : Transaction) (j : Judgement) (s : State) : Keeps s (handSuccess t j s) := by
  unfold handSuccess
  split
  · exact (keeps_nodeSuccess _ s).trans (keeps_reschedule _ _)
  · exact keeps_nodeSuccess _ s
  · split
    · exact keeps_nodeSuccess _ s
    · exact .refl s

theorem keeps_forwardReply (f : Frame) (j : Judgement) (s : State) : Keeps s (forwardReply f j s) := by
  unfold forwardReply
  repeat' split
  all_goals first | exact .refl s | exact keeps_count _ s | exact keeps_offerG2p f s

theorem keeps_takeReply (t : Transaction) (f : Frame) (s : State) : Keeps s (takeReply t f s) := by
  unfold takeReply
  exact (((keeps_beginTurnaround s).trans (keeps_judgeReply f _)).trans ((keeps_handSuccess _ _ _).trans
    (keeps_useReply _ _ _ _))).trans (keeps_forwardReply _ _ _)

/-- The note of an arrival changes the transaction record of the line, if anything. -/
theorem noteArrival_line (p : PortId) (f : Frame) (s : State) : ∃ l, noteArrival p f s = { s with line := l } := by
  unfold noteArrival noteAnswer
  repeat' split
  all_goals exact ⟨_, rfl⟩

theorem keeps_noteArrival (p : PortId) (f : Frame) (s : State) : Keeps s (noteArrival p f s) := by
  obtain ⟨l, h⟩ := noteArrival_line p f s
  rw [h]
  exact (lit_of s { s with line := l } rfl rfl rfl rfl rfl rfl).keeps

theorem keeps_frameAtDeafPort (waited : Bool) (s : State) : Keeps s (frameAtDeafPort waited s) := by
  unfold frameAtDeafPort
  split
  · exact keeps_count _ s
  · exact .refl s

theorem keeps_galleryFrame (f : Frame) (waited : Bool) (s : State) : Keeps s (galleryFrame f waited s) := by
  unfold galleryFrame
  split
  · exact keeps_frameAtDeafPort waited s
  · exact keeps_count _ s
  · exact keeps_count _ s
  · split
    · exact keeps_frameAtDeafPort waited s
    · unfold frameInWindow
      split
      · split
        · exact keeps_takeReply _ f s
        · exact (keeps_beginTurnaround s).trans (keeps_missTransaction _ _)
      · exact keeps_count _ s

/-! ### Exposure Accumulator (05) -/

/-- R88: the ceiling lies between Cfloor and Cmax. -/
theorem pacedCeiling_legal (o : Obj) (h : o.cfloor ≤ o.cmax) : ceilingLegal (pacedCeiling o) := by
  unfold pacedCeiling ceilingLegal
  split
  · exact ⟨h, fun _ => ⟨le_refl _, h⟩⟩
  · split
    · exact ⟨h, fun _ => ⟨h, le_refl _⟩⟩
    · refine ⟨h, fun _ => ?_⟩
      dsimp only
      split
      · exact ⟨h, le_refl _⟩
      · split
        · exact ⟨le_refl _, h⟩
        · constructor <;> omega

theorem keeps_computeCeiling (i : Nat) (s : State) : Keeps s (computeCeiling i s) := by
  unfold computeCeiling
  dsimp only
  exact ((keeps_modObject s i pacedCeiling fun h => pacedCeiling_legal _ h.1).trans (keeps_follow _ _ _ _ _ _)).trans
    (keeps_follow _ _ _ _ _ _)

theorem keeps_ceilingCore (i : Nat) (s : State) : Keeps s (ceilingCore i s) := by
  unfold ceilingCore
  dsimp only
  split
  · split
    · exact keeps_computeCeiling i s
    · exact (keeps_computeCeiling i s).trans (evaluated_requestCore _ _).keeps
  · exact .refl s

theorem keeps_ceilingEvent (i : Nat) (s : State) : Keeps s (ceilingEvent i s) := by
  unfold ceilingEvent
  dsimp only
  split
  · exact keeps_ceilingCore i s
  · exact (keeps_ceilingCore i s).trans (lit_grantJoined _).keeps

/-- R89: what a ceiling computation leaves of the Object Table. -/
theorem object_ceilingCore (i j : Nat) (s : State) :
    (ceilingCore i s).object j =
      if i = j ∧ (s.object i).enable = true then pacedCeiling (s.object j) else s.object j := by
  unfold ceilingCore
  dsimp only
  by_cases en : (s.object i).enable = true
  · have hi : i < 256 := by
      by_contra h
      rw [object_beyond s i (by omega)] at en
      simp [factoryObject] at en
    have c : (computeCeiling i s).object j = if i = j then pacedCeiling (s.object j) else s.object j := by
      unfold computeCeiling
      dsimp only
      simp only [object_follow, object_modObject]
      by_cases e : i = j
      · subst e; simp [hi]
      · simp [e]
    simp only [en, if_true, and_true]
    split
    · exact c
    · rw [object_requestCore]; exact c
  · simp [en]

theorem object_ceilingEvent (i j : Nat) (s : State) :
    (ceilingEvent i s).object j =
      if i = j ∧ (s.object i).enable = true then pacedCeiling (s.object j) else s.object j := by
  unfold ceilingEvent
  dsimp only
  split
  · exact object_ceilingCore i j s
  · rw [object_grantJoined]; exact object_ceilingCore i j s

/-- A change of an object followed by a ceiling computation: only Cfloor and Cmax need to stay in order. -/
theorem keeps_ceilingCore_after {s u : State} (i : Nat) (r : KeepsRest s u) (other : ∀ j, j ≠ i → u.object j = s.object j)
    (k : ceilingLegal (s.object i) → (u.object i).cfloor ≤ (u.object i).cmax) : Keeps s (ceilingCore i u) where
  toKeepsRest := r.trans (keeps_ceilingCore i u).toKeepsRest
  ceilings h j := by
    show ceilingLegal ((ceilingCore i u).object j)
    rw [object_ceilingCore]
    by_cases e : i = j
    · subst e
      split
      · exact pacedCeiling_legal _ (k (h i))
      · rename_i en
        exact ⟨k (h i), fun on => absurd ⟨rfl, on⟩ en⟩
    · rw [if_neg (by simp [e]), other j (Ne.symm e)]
      exact h j

theorem keeps_enableObject (i : Nat) (s : State) : Keeps s (enableObject i s) := by
  unfold enableObject
  dsimp only
  have same : ∀ j, (if ((s.modObject i fun o => { o with enable := true }).object i).unknown = true then
      raise .doseUnknown i ((s.modObject i fun o => { o with enable := true }).object i).zone
        (s.modObject i fun o => { o with enable := true })
      else s.modObject i fun o => { o with enable := true }).object j =
        (s.modObject i fun o => { o with enable := true }).object j := by
    intro j; split
    · exact object_raise ..
    · rfl
  refine keeps_ceilingCore_after i ?_ (fun j h => ?_) fun k => ?_
  · split
    · exact (keepsRest_modObject _ _ _).trans (keeps_raise _ _ _ _).toKeepsRest
    · exact keepsRest_modObject _ _ _
  · rw [same, object_modObject_other _ _ _ _ (Ne.symm h)]
  · rw [same, object_modObject]
    split
    · exact k.1
    · exact k.1

theorem keeps_clearObjectConditions (i : Nat) (o : Obj) (s : State) : Keeps s (clearObjectConditions i o s) :=
  ((((keeps_clearIf _ _ _ _).trans (keeps_clearIf _ _ _ _)).trans (keeps_clearIf _ _ _ _)).trans
    (keeps_clearIf _ _ _ _)).trans (keeps_clearIf _ _ _ _)

theorem keeps_disableObject (i : Nat) (s : State) : Keeps s (disableObject i s) :=
  (keeps_modObject s i _ fun k => ⟨k.1, fun e => by simp at e⟩).trans (keeps_clearObjectConditions _ _ _)

/-- A change of an object that leaves Cfloor, Cmax, the ceiling and the enable. -/
theorem keeps_modObject_same (s : State) (i : Nat) (f : Obj → Obj)
    (h : ∀ o, (f o).cfloor = o.cfloor ∧ (f o).cmax = o.cmax ∧ (f o).ceiling = o.ceiling ∧ (f o).enable = o.enable) :
    Keeps s (s.modObject i f) :=
  keeps_modObject s i f fun k => by
    obtain ⟨a, b, c, d⟩ := h (s.object i)
    unfold ceilingLegal
    rw [a, b, c, d]
    exact k

theorem keeps_judgeOver (i e : Nat) (s : State) : Keeps s (judgeOver i e s) := by
  unfold judgeOver
  split
  · exact (keeps_modObject_same s i _ (by intro o; exact ⟨rfl, rfl, rfl, rfl⟩)).trans (keeps_raise _ _ _ _)
  · exact .refl s

theorem accrued_same (b : Bool) (e w : Nat) (d : Bool) (o : Obj) :
    (accrued b e w d o).cfloor = o.cfloor ∧ (accrued b e w d o).cmax = o.cmax ∧
      (accrued b e w d o).ceiling = o.ceiling ∧ (accrued b e w d o).enable = o.enable := by
  have c : ∀ x : Obj, (countOver e x).cfloor = x.cfloor ∧ (countOver e x).cmax = x.cmax ∧
      (countOver e x).ceiling = x.ceiling ∧ (countOver e x).enable = x.enable := by
    intro x
    unfold countOver
    split <;> exact ⟨rfl, rfl, rfl, rfl⟩
  unfold accrued
  cases b <;> exact c _

theorem keeps_accrueObject (t : Tick) (i : Nat) (s : State) : Keeps s (accrueObject t i s) := by
  unfold accrueObject
  dsimp only
  split
  · exact (((keeps_modObject_same s i _ (accrued_same _ _ _ _)).trans (keeps_follow _ _ _ _ _ _)).trans
      (keeps_judgeOver _ _ _)).trans (keeps_ceilingEvent _ _)
  · exact .refl s

theorem keeps_accrue (t : Tick) (s : State) : Keeps s (accrue t s) := keeps_forEach _ _ (keeps_accrueObject t) s

theorem keeps_foldHours (s : State) : Keeps s (foldHours s) := by
  refine keeps_of (bounds_of rfl rfl rfl rfl rfl) (fun _ => .refl _) (fun i => ?_) id (ownAddressFree_congr rfl rfl)
  simp only [State.object, foldHours, Vector.getElem?_map]
  cases s.objects[i]? with
  | none => exact id
  | some o => exact id

theorem keeps_foldDayObject (i : Nat) (s : State) : Keeps s (foldDayObject i s) :=
  (keeps_modObject_same s i _ (by intro o; exact ⟨rfl, rfl, rfl, rfl⟩)).trans (keeps_clearIf _ _ _ _)

theorem keeps_testObject (d : Date) (i : Nat) (s : State) : Keeps s (testObject d i s) := by
  unfold testObject
  split
  · exact ((keeps_modObject_same s i _ (by intro o; exact ⟨rfl, rfl, rfl, rfl⟩)).trans (keeps_clearIf _ _ _ _)).trans
      (keeps_ceilingEvent _ _)
  · exact .refl s

theorem keeps_yearTests (d : Date) (s : State) : Keeps s (yearTests d s) := keeps_forEach _ _ (keeps_testObject d) s

theorem keeps_dayFoldAndTests (d : Date) (s : State) : Keeps s (dayFoldAndTests d s) :=
  (keeps_forEach _ _ keeps_foldDayObject s).trans (keeps_yearTests d _)

theorem keeps_setDose (i dose : Nat) (s : State) : Keeps s (setDose i dose s) :=
  ((keeps_modObject_same s i _ (by intro o; exact ⟨rfl, rfl, rfl, rfl⟩)).trans (keeps_clearIf _ _ _ _)).trans
    (keeps_ceilingCore _ _)

/-! ### Zone modes and groups (06) -/

theorem keeps_judgeModeCore (z : Nat) (s : State) : Keeps s (judgeModeCore z s) := by
  unfold judgeModeCore
  split
  · exact (keeps_modZone s z _ ⟨id, id, id⟩).trans (evaluated_requestCore _ _).keeps
  · exact .refl s

theorem keeps_judgeMode (z : Nat) (s : State) : Keeps s (judgeMode z s) := by
  unfold judgeMode
  split
  · exact (keeps_judgeModeCore z s).trans (lit_grantJoined _).keeps
  · exact .refl s

theorem keeps_judgeModes (s : State) : Keeps s (judgeModes s) := keeps_forEach _ _ keeps_judgeMode s

theorem keeps_enableGroup (g : Nat) (s : State) : Keeps s (enableGroup g s) :=
  (keeps_modGroup s g _ fun k => ⟨k.1, k.2.1, k.2.2.1, k.2.2.1, fun c h => by simp [restGroup] at h⟩).trans
    (evaluated_requestCore _ _).keeps

theorem keeps_clearGroupConditions (g : Nat) (gr : Group) (s : State) : Keeps s (clearGroupConditions g gr s) :=
  ((keeps_clearIf _ _ _ _).trans (keeps_clearIf _ _ _ _)).trans (keeps_clearIf _ _ _ _)

theorem keeps_disableGroup (g : Nat) (s : State) : Keeps s (disableGroup g s) := by
  unfold disableGroup
  dsimp only
  refine (Keeps.trans ?_ (keeps_modGroup _ g _ fun k =>
    ⟨k.1, k.2.1, k.2.2.1, k.2.2.2.1, fun c h => by simp [restGroup] at h⟩)).trans
    ((keeps_clearGroupConditions _ _ _).trans (evaluated_rejudgeZone _ _).keeps)
  exact keeps_plain rfl rfl rfl rfl rfl rfl rfl rfl rfl rfl

/-! ### Climate Supervisor (07) -/

theorem nLo_le_nHi (c : Climate) : nLo c ≤ nHi c := by
  unfold nLo nHi narrowEmpty
  split
  · exact le_refl _
  · rename_i h; simpa using h

/-- R127: a setpoint brought into its narrowed band lies in it. -/
theorem clampSetpoint_inBand (c : Climate) : setpointInBand (clampSetpoint c) := by
  have h := nLo_le_nHi c
  have lo : nLo (clampSetpoint c) = nLo c := rfl
  have hi : nHi (clampSetpoint c) = nHi c := rfl
  unfold setpointInBand
  rw [lo, hi]
  unfold clampSetpoint
  dsimp only
  split
  · exact ⟨le_refl _, h⟩
  · split
    · exact ⟨h, le_refl _⟩
    · constructor <;> omega

/-- A change of a quantity that leaves the band's limits and the setpoint. -/
theorem setpointInBand_congr {c c' : Climate}
    (h : c'.lo = c.lo ∧ c'.hi = c.hi ∧ c'.hysteresis = c.hysteresis ∧ c'.setpoint = c.setpoint) (k : setpointInBand c) :
    setpointInBand c' := by
  obtain ⟨a, b, d, e⟩ := h
  have n : narrowEmpty c' = narrowEmpty c := by simp only [narrowEmpty, a, b, d]
  have m : midpoint c' = midpoint c := by simp only [midpoint, a, b]
  simp only [setpointInBand, nLo, nHi, n, m, a, b, d, e] at k ⊢
  exact k

theorem reported_offerTrim (z : Nat) (s : State) : Reported s (offerTrim z s) := by
  unfold offerTrim
  split
  · exact reported_offerOrigin _ s (by simp [trimFrame])
  · exact .refl s

theorem keeps_offerTrim (z : Nat) (s : State) : Keeps s (offerTrim z s) := (reported_offerTrim z s).keeps

theorem keeps_enableZone (z : Nat) (s : State) : Keeps s (enableZone z s) :=
  ((keeps_modZone s z _ ⟨fun _ => by simp, fun _ => clampSetpoint_inBand _, fun _ => clampSetpoint_inBand _⟩).trans
    (keeps_offerTrim _ _)).trans (keeps_judgeModeCore _ _)

theorem keeps_disableZone (z : Nat) (s : State) : Keeps s (disableZone z s) :=
  ((((keeps_modZone s z _ ⟨id, setpointInBand_congr ⟨rfl, rfl, rfl, rfl⟩, setpointInBand_congr ⟨rfl, rfl, rfl, rfl⟩⟩).trans
    (keeps_clearIf _ _ _ _)).trans (keeps_clearIf _ _ _ _)).trans (keeps_clearIf _ _ _ _)).trans (keeps_clearIf _ _ _ _)

theorem keeps_formValues (z : Nat) (s : State) : Keeps s (formValues z s) :=
  keeps_modZone s z _ ⟨id, setpointInBand_congr ⟨rfl, rfl, rfl, rfl⟩, setpointInBand_congr ⟨rfl, rfl, rfl, rfl⟩⟩

theorem keeps_judgeBlind (z : Nat) (s : State) : Keeps s (judgeBlind z s) :=
  (keeps_modZone s z _ ⟨id, id, id⟩).trans (keeps_follow _ _ _ _ _ _)

theorem keeps_addToHour (z : Nat) (s : State) : Keeps s (s.modZone z addToHour) :=
  keeps_modZone s z _ (by unfold addToHour; split <;> exact ⟨id, id, id⟩)

theorem movedBand_same (p : Nat) (m : BandMove) (c : Climate) :
    (movedBand p m c).lo = c.lo ∧ (movedBand p m c).hi = c.hi ∧ (movedBand p m c).hysteresis = c.hysteresis ∧
      (movedBand p m c).setpoint = c.setpoint := by
  unfold movedBand
  split <;> exact ⟨rfl, rfl, rfl, rfl⟩

theorem keeps_bandCondition (q : ClimateQuantity) (z : Nat) (b : BandState) (s : State) :
    Keeps s (bandCondition q z b s) := by
  cases b <;> first | exact .refl s | exact keeps_raise _ _ _ _ | exact keeps_clear _ _ _

theorem keeps_stepBand (q : ClimateQuantity) (z : Nat) (s : State) : Keeps s (stepBand q z s) := by
  unfold stepBand
  dsimp only
  split
  · exact .refl s
  · rename_i v _
    have m : Keeps s (s.modZone z fun zn => withClimate q (movedBand zn.persistence
        (bandMove (climateOf q (s.zone z)) v) (climateOf q zn)) zn) := by
      refine keeps_modZone s z _ ?_
      cases q
      · exact ⟨id, setpointInBand_congr (movedBand_same _ _ _), id⟩
      · exact ⟨id, id, setpointInBand_congr (movedBand_same _ _ _)⟩
    split
    · exact (m.trans (keeps_clearIf _ _ _ _)).trans (keeps_bandCondition _ _ _ _)
    · exact m.trans (keeps_clearIf _ _ _ _)

theorem keeps_climateMinute (s : State) : Keeps s (climateMinute s) := by
  refine keeps_forEach _ _ (fun z s => ?_) s
  unfold climateMinuteZone
  split
  · exact ((((keeps_formValues z s).trans (keeps_judgeBlind z _)).trans (keeps_addToHour z _)).trans
      (keeps_stepBand _ z _)).trans (keeps_stepBand _ z _)
  · exact .refl s

theorem pushRing_length (e : Option Int) (r : List (Option Int)) (h : r.length ≤ ringCapacity) :
    (pushRing e r).length ≤ ringCapacity := by
  unfold pushRing ringCapacity at *
  split <;> simp <;> omega

theorem keeps_judgeDrift (z : Nat) (s : State) : Keeps s (judgeDrift z s) := by
  unfold judgeDrift
  dsimp only
  split
  · exact .refl s
  · exact (keeps_modZone s z _ ⟨id, id, id⟩).trans (keeps_follow _ _ _ _ _ _)

theorem keeps_climateHour (s : State) : Keeps s (climateHour s) := by
  refine keeps_forEach _ _ (fun z s => ?_) s
  unfold climateHourZone
  split
  · exact (((keeps_modZone s z closeHour ⟨pushRing_length _ _, id, id⟩).trans (keeps_judgeDrift z _)).trans
      (keeps_modZone _ z glide ⟨id, fun _ => clampSetpoint_inBand _, fun _ => clampSetpoint_inBand _⟩)).trans
      (keeps_offerTrim _ _)
  · exact .refl s

theorem modZone_modZone (s : State) (z : Nat) (f g : Zone → Zone) :
    (s.modZone z f).modZone z g = s.modZone z (g ∘ f) := by
  unfold State.modZone modifyAt
  by_cases h : z < 24 <;> simp [h]

/-- R127: a band field of a zone has been stored. -/
theorem keeps_bandStored (q : ClimateQuantity) (z : Nat) (f : Zone → Zone) (s : State)
    (r : ∀ x, (f x).ring = x.ring) (other : ∀ x, match q with
      | .rh => (f x).temp = x.temp
      | .temp => (f x).rh = x.rh) : Keeps s (bandStored q z (s.modZone z f)) := by
  have m : Keeps s ((s.modZone z f).modZone z fun zn => withClimate q (clampSetpoint (climateOf q zn)) zn) := by
    rw [modZone_modZone]
    refine keeps_modZone s z _ ?_
    cases q
    · refine ⟨?_, fun _ => clampSetpoint_inBand _, ?_⟩
      · show _ → (f (s.zone z)).ring.length ≤ _
        rw [r]; exact id
      · show _ → setpointInBand (f (s.zone z)).temp
        rw [other]; exact id
    · refine ⟨?_, ?_, fun _ => clampSetpoint_inBand _⟩
      · show _ → (f (s.zone z)).ring.length ≤ _
        rw [r]; exact id
      · show _ → setpointInBand (f (s.zone z)).rh
        rw [other]; exact id
  unfold bandStored
  dsimp only
  split
  · exact m
  · exact m.trans (keeps_offerTrim _ _)

end Sys2Proof.Machine
end

