-- ==== Sys2Proof/Laws/KeepsService.lean ====
section
/-! SUPPORT. What the writes, the requests, the rolls, the saves and the load keep. -/

namespace Sys2Proof.Machine

/-! ### Port settings (R18 to R21) -/

theorem keeps_huntQuietly (p : PortId) (s : State) : Keeps s (huntQuietly p s) := by
  cases p <;> exact keeps_plain rfl rfl rfl rfl rfl rfl rfl rfl rfl rfl

theorem keeps_line (s : State) (l : Line) : Keeps s { s with line := l } :=
  keeps_plain rfl rfl rfl rfl rfl rfl rfl rfl rfl rfl

theorem keeps_lineOff (s : State) : Keeps s (lineOff s) := by
  unfold lineOff
  split
  · refine (keeps_line s .off).trans ?_
    unfold endTransaction
    split
    · exact .refl _
    · exact (evaluated_commandCancelled _ _).keeps
    · exact keeps_count _ _
    · exact .refl _
  · exact .refl s
  · exact keeps_line s _
  · exact keeps_line s _

/-- Queues that shrink. -/
theorem keeps_shorter (s : State) (a b : List Frame) (o : List OriginFrame) (tx : Option PlantTx)
    (ha : a.length ≤ s.g2p.length) (hb : b.length ≤ s.p2g.length) (ho : o.Sublist s.plantOrigin) :
    Keeps s { s with g2p := a, p2g := b, plantOrigin := o, plantTx := tx } :=
  keeps_of ⟨fun q => ⟨ha.trans q.g2p, hb.trans q.p2g, ho.length_le.trans q.origin,
      List.Nodup.sublist (ho.filterMap _) q.trims⟩, fun q => ⟨q.length, q.keys⟩, levelsInRange_congr rfl⟩
    (fun _ => .refl _) (fun _ => id) id (ownAddressFree_congr rfl rfl)

theorem keeps_flushP2g (s : State) : Keeps s (flushP2g s) :=
  (keeps_shorter s s.g2p [] s.plantOrigin s.plantTx (le_refl _) (Nat.zero_le _) (List.Sublist.refl _)).trans
    (keeps_countMany _ _ _)

theorem keeps_galleryEnable (s : State) (b : Bool) :
    Keeps s { s with device := { s.device with galleryEnable := b } } :=
  keeps_plain rfl rfl rfl rfl rfl rfl rfl rfl rfl rfl

theorem keeps_plantEnable (s : State) (b : Bool) : Keeps s { s with device := { s.device with plantEnable := b } } :=
  keeps_plain rfl rfl rfl rfl rfl rfl rfl rfl rfl rfl

theorem keeps_disableGalleryPort (s : State) : Keeps s (disableGalleryPort s) :=
  (((keeps_galleryEnable s false).trans (keeps_huntQuietly _ _)).trans (keeps_flushP2g _)).trans (keeps_lineOff _)

theorem keeps_setAllDue (s : State) : Keeps s (setAllDue s) := keeps_pollList _ _

theorem keeps_enableGalleryPort (s : State) : Keeps s (enableGalleryPort s) := by
  have m := (keeps_galleryEnable s true).trans (keeps_huntQuietly .gallery _)
  unfold enableGalleryPort
  dsimp only
  split
  · exact m
  · exact (m.trans (keeps_line _ _)).trans (keeps_setAllDue _)

theorem keeps_cutPlantFrame (s : State) : Keeps s (cutPlantFrame s) := by
  unfold cutPlantFrame
  split
  · exact .refl s
  · refine Keeps.trans ?_ (keeps_count _ _)
    exact keeps_plain rfl rfl rfl rfl rfl rfl rfl rfl rfl rfl

theorem keeps_flushPlant (s : State) : Keeps s (flushPlant s) :=
  ((keeps_shorter s [] s.p2g [] s.plantTx (Nat.zero_le _) (le_refl _) (List.nil_sublist _)).trans
    (keeps_countMany _ _ _)).trans (keeps_countMany _ _ _)

theorem keeps_disablePlantPort (s : State) : Keeps s (disablePlantPort s) := by
  have m := (((keeps_plantEnable s false).trans (keeps_huntQuietly .plant _)).trans (keeps_cutPlantFrame _)).trans
    (keeps_flushPlant _)
  unfold disablePlantPort
  dsimp only
  split
  · exact m.trans (keeps_restartReplyGone _)
  · exact m

theorem keeps_setPortEnable (p : PortId) (b : Bool) (s : State) : Keeps s (setPortEnable p b s) := by
  cases p
  · simp only [setPortEnable]
    split
    · exact .refl s
    · split
      · exact keeps_enableGalleryPort s
      · exact keeps_disableGalleryPort s
  · simp only [setPortEnable]
    split
    · exact .refl s
    · split
      · exact (keeps_plantEnable s true).trans (keeps_huntQuietly _ _)
      · exact keeps_disablePlantPort s

/-! ### Writing one value (R161 to R163) -/

/-- R162: a write of an enable field keeps what its two effects keep where their checks pass. -/
theorem keeps_writeEnable (en : Bool) (v : Half) (a b : Bool) (f g : State → State) (s : State)
    (hf : a = true → Keeps s (f s)) (hg : Keeps s (g s)) : Keeps s (writeEnable en v a b f g s).1 := by
  unfold writeEnable
  split
  · split
    · exact .refl s
    · split
      · rename_i h; exact hf h
      · exact .refl s
  · split
    · split
      · exact hg
      · exact .refl s
    · exact .refl s

theorem keeps_maskStored (field : Nat) (v : Half) (s : State) : Keeps s (maskStored field v s) := by
  unfold maskStored
  split
  · exact keeps_plain rfl rfl rfl rfl rfl rfl rfl rfl rfl rfl
  · exact .refl s

theorem putDevice_ownAddress (field : Nat) (v : Half) (d : Device) (h : field ≠ 3) :
    (putDevice field v d).1.ownAddress = d.ownAddress := by
  unfold putDevice
  split <;> first | rfl | contradiction

theorem keeps_deviceStored (field : Nat) (v : Half) (s : State) : Keeps s (deviceStored field v s) := by
  unfold deviceStored
  split
  · exact keeps_huntQuietly _ s
  · exact keeps_huntQuietly _ s
  · exact keeps_windowStored s
  · split
    · exact keeps_maskStored _ v s
    · exact .refl s

/-- R163: an own address that an enabled node has is refused. -/
theorem keeps_writeOwnAddress (v : Half) (s : State) : Keeps s (writeOwnAddress v s).1 := by
  unfold writeOwnAddress
  dsimp only
  split
  · exact .refl s
  · rename_i h
    refine keeps_of (bounds_of rfl rfl rfl rfl rfl) (fun _ => .refl _) (fun _ => id) id fun _ i en => ?_
    show (s.node i).address ≠ _
    change (s.node i).enable = true at en
    rw [Bool.not_eq_true, Vector.any_eq_false] at h
    by_cases hi : i < 64
    · have := h i hi
      simp only [State.node, Vector.getElem?_eq_getElem hi, Option.getD_some] at en ⊢
      simpa [en] using this
    · rw [node_beyond s i (by omega)] at en
      simp [factoryNode] at en

theorem keeps_writeDevice (field : Nat) (v : Half) (s : State) : Keeps s (writeDevice field v s).1 := by
  unfold writeDevice
  split
  · exact keeps_writeOwnAddress v s
  · exact keeps_setPortEnable .gallery (v == 1) s
  · exact keeps_setPortEnable .plant (v == 1) s
  · rename_i h _ _
    refine Keeps.trans ?_ (keeps_deviceStored _ _ _)
    exact keeps_plain rfl rfl rfl rfl rfl rfl rfl rfl (putDevice_ownAddress _ _ _ h) rfl

theorem putNode_enable (field : Nat) (v : Half) (n : Node) (h : field ≠ 0) :
    (putNode field v n).1.enable = n.enable := by
  unfold putNode
  split <;> first | rfl | contradiction

theorem putNode_address (field : Nat) (v : Half) (n : Node) (h : field ≠ 1) :
    (putNode field v n).1.address = n.address := by
  unfold putNode
  split <;> first | rfl | contradiction

/-- R42: an address is written on a disabled node only (R161). -/
theorem keeps_writeNode (n field : Nat) (v : Half) (s : State) (h : field = 1 → (s.node n).enable = false) :
    Keeps s (writeNode n field v s).1 := by
  unfold writeNode
  split
  · exact keeps_writeEnable _ _ _ _ _ _ s (keeps_enableNode n s) (keeps_disableNode n s)
  · rename_i nz
    dsimp only
    have m : Keeps s (s.modNode n fun nd => (putNode field v nd).1) := by
      by_cases f1 : field = 1
      · refine keeps_modNode s n _ fun _ en => ?_
        rw [putNode_enable _ _ _ nz, h f1] at en
        simp at en
      · exact keeps_modNode_same s n _ fun x => ⟨putNode_enable _ _ _ nz, putNode_address _ _ _ f1⟩
    split
    · exact m.trans (keeps_tagCheckOff _ _)
    · exact m

theorem keeps_writePoint (i field : Nat) (v : Half) (s : State) : Keeps s (writePoint i field v s).1 := by
  unfold writePoint
  split
  · exact keeps_writeEnable _ _ _ _ _ _ s (fun _ => keeps_modPoint _ _ _) (keeps_disablePoint i s)
  · exact keeps_modPoint _ _ _

theorem clampNat_le (lo hi v : Nat) (h : lo ≤ hi) : lo ≤ clampNat lo hi v ∧ clampNat lo hi v ≤ hi := by
  unfold clampNat
  omega

/-- R78: a stored field keeps Cfloor at or below Cmax, where Cmax leaves room for the least Cmax. -/
theorem putObject_floor (field : Nat) (v : Half) (o : Obj) (h : o.cfloor ≤ o.cmax) :
    (putObject field v o).1.cfloor ≤ (putObject field v o).1.cmax := by
  unfold putObject
  split <;> first
    | exact h
    | (simp only [putNat, clampNat]; omega)

theorem putObject_same (field : Nat) (v : Half) (o : Obj) (h : field ≠ 0) (h13 : field ≠ 13) (h14 : field ≠ 14) :
    (putObject field v o).1.cfloor = o.cfloor ∧ (putObject field v o).1.cmax = o.cmax ∧
      (putObject field v o).1.ceiling = o.ceiling ∧ (putObject field v o).1.enable = o.enable := by
  unfold putObject
  split <;> first | exact ⟨rfl, rfl, rfl, rfl⟩ | contradiction

theorem keeps_writeObject (i field : Nat) (v : Half) (s : State) : Keeps s (writeObject i field v s).1 := by
  unfold writeObject
  split
  · exact keeps_writeEnable _ _ _ _ _ _ s (fun _ => keeps_enableObject i s) (keeps_disableObject i s)
  · rename_i nz
    dsimp only
    split
    · refine keeps_ceilingCore_after i (keepsRest_modObject _ _ _)
        (fun j h => object_modObject_other _ _ _ _ (Ne.symm h)) fun k => ?_
      rw [object_modObject]
      split
      · exact putObject_floor _ _ _ k.1
      · exact k.1
    · rename_i none
      have f : field ≠ 13 ∧ field ≠ 14 := by
        constructor <;> (rintro rfl; simp [ceilingFollows] at none)
      exact keeps_modObject_same s i _ fun o => putObject_same _ _ _ nz f.1 f.2

theorem putGroup_legal (field : Nat) (v : Half) (g : Group) (h : levelLegal g) :
    levelLegal (putGroup field v g).1 := by
  obtain ⟨h1, h2, h3, h4, h5⟩ := h
  unfold putGroup
  split <;> first
    | exact ⟨h1, h2, h3, h4, h5⟩
    | (simp only [putNat, levelLegal]
       refine ⟨?_, ?_, ?_, h4, h5⟩ <;> first | assumption | (simp only [clampNat]; omega))

theorem keeps_writeGroup (g field : Nat) (v : Half) (s : State) : Keeps s (writeGroup g field v s).1 := by
  unfold writeGroup
  split
  · exact keeps_writeEnable _ _ _ _ _ _ s (fun _ => keeps_enableGroup g s) (keeps_disableGroup g s)
  · dsimp only
    have m : Keeps s (s.modGroup g fun gr => (putGroup field v gr).1) := keeps_modGroup s g _ (putGroup_legal field v _)
    split
    · exact m.trans (evaluated_requestCore _ _).keeps
    · exact m

theorem putZone_ring (field : Nat) (v : Half) (z : Zone) : (putZone field v z).1.ring = z.ring := by
  unfold putZone
  split <;> rfl

theorem putZone_temp (field : Nat) (v : Half) (z : Zone) (h : 8 ≤ field ∧ field ≤ 10) :
    (putZone field v z).1.temp = z.temp := by
  unfold putZone
  split <;> first | rfl | omega

theorem putZone_rh (field : Nat) (v : Half) (z : Zone) (h : 11 ≤ field ∧ field ≤ 13) :
    (putZone field v z).1.rh = z.rh := by
  unfold putZone
  split <;> first | rfl | omega

/-- A zone field other than a band field leaves the bands and the setpoints. -/
theorem putZone_kept (field : Nat) (v : Half) (z : Zone) (h : ¬(8 ≤ field ∧ field ≤ 13)) :
    ZoneKept z (putZone field v z).1 := by
  unfold putZone
  split <;> first
    | omega
    | exact ⟨id, id, id⟩

theorem keeps_writeZone (z field : Nat) (v : Half) (s : State) : Keeps s (writeZone z field v s).1 := by
  unfold writeZone
  split
  · exact keeps_writeEnable _ _ _ _ _ _ s (fun _ => keeps_enableZone z s) (keeps_disableZone z s)
  · split
    · unfold writeShade
      dsimp only
      split
      · exact (keeps_modZone s z _ ⟨id, id, id⟩).trans (evaluated_requestCore _ _).keeps
      · exact .refl s
    · dsimp only
      have m (h : ¬(8 ≤ field ∧ field ≤ 13)) : Keeps s (s.modZone z fun zn => (putZone field v zn).1) :=
        keeps_modZone s z _ (putZone_kept field v _ h)
      unfold zoneStored
      split
      · exact (m (by omega)).trans (keeps_judgeModeCore _ _)
      · split
        · rename_i h
          exact keeps_bandStored .rh z _ s (putZone_ring field v) fun x => putZone_temp field v x h
        · split
          · rename_i h
            exact keeps_bandStored .temp z _ s (putZone_ring field v) fun x => putZone_rh field v x h
          · split
            · exact (m (by omega)).trans (keeps_offerTrim _ _)
            · exact m (by omega)

theorem keeps_writeValue (t : TableId) (p : Position) (v : Half) (s : State) : Keeps s (writeValue t p v s).1 := by
  unfold writeValue
  split
  · exact .refl s
  · split
    · exact .refl s
    · split
      · exact .refl s
      · split
        · exact .refl s
        · rename_i off
          cases t
          · exact keeps_writeDevice _ v s
          · refine keeps_writeNode _ _ v s fun f => ?_
            have a : access .node p = .binding := by simp [access, f]
            simpa [a, entryEnabled] using off
          · exact keeps_writePoint _ _ v s
          · exact keeps_writeObject _ _ v s
          · exact keeps_writeGroup _ _ v s
          · exact keeps_writeZone _ _ v s
          · exact .refl s
          · exact keeps_plain rfl rfl rfl rfl rfl rfl rfl rfl rfl rfl

/-! ### Requests (R156 to R167) -/

theorem keeps_loadCursor (t : TableId) (c : Option Cursor) (s : State) : Keeps s (loadCursor t c s) := by
  cases c
  · exact .refl s
  · exact keeps_setCursor _ _ s

theorem keeps_writeValues (t : TableId) (m : StepMode) (vs : List Half) (s : State) :
    Keeps s (writeValues t m vs s).state := by
  induction vs generalizing s with
  | nil => exact .refl s
  | cons v vs ih => exact ((keeps_writeValue _ _ _ _).trans (keeps_setCursor _ _ _)).trans (ih _)

theorem keeps_latchRead (t : TableId) (p : Position) (s : State) : Keeps s (latchRead t p s) := by
  unfold latchRead
  repeat' split
  all_goals first | exact .refl s | exact keeps_plain rfl rfl rfl rfl rfl rfl rfl rfl rfl rfl

theorem keeps_readValues (t : TableId) (m : StepMode) (n : Nat) (s : State) : Keeps s (readValues t m n s).1 := by
  induction n generalizing s with
  | zero => exact .refl s
  | succ n ih =>
      unfold readValues
      dsimp only
      refine Keeps.trans ?_ (ih _)
      refine Keeps.trans ?_ (keeps_setCursor _ _ _)
      split
      · exact keeps_latchRead _ _ s
      · exact .refl s

theorem keeps_runCall (c : Call) (s : State) : Keeps s (runCall c s) := by
  have done : ∀ u, Keeps u (procedureDone u) := fun u => keeps_plain rfl rfl rfl rfl rfl rfl rfl rfl rfl rfl
  cases c
  · exact keeps_plain rfl rfl rfl rfl rfl rfl rfl rfl rfl rfl
  · exact keeps_plain rfl rfl rfl rfl rfl rfl rfl rfl rfl rfl
  · exact (keeps_setDose _ _ s).trans (done _)
  · exact (keeps_rehuntNode _ s).trans (done _)
  · exact (evaluated_capClear _ s).keeps.trans (done _)
  · refine Keeps.trans ?_ (done _)
    refine keeps_of ⟨fun q => ⟨q.g2p, q.p2g, q.origin, q.trims⟩, fun q => ⟨?_, ?_⟩, levelsInRange_congr rfl⟩
      (fun _ => .refl _) (fun _ => id) id (ownAddressFree_congr rfl rfl)
    · exact (List.length_filter_le _ _).trans q.length
    · exact List.Nodup.sublist (List.filter_sublist.map _) q.keys

theorem keeps_takeElement (e : Option Element) (later : Nat) (w : Work) :
    Keeps w.state (takeElement e later w).state := by
  unfold takeElement
  split
  · exact keeps_count _ _
  · unfold takeRead
    dsimp only
    split
    · exact keeps_loadCursor _ _ _
    · exact (keeps_loadCursor _ _ _).trans (keeps_readValues _ _ _ _)
  · exact (keeps_loadCursor _ _ _).trans (keeps_writeValues _ _ _ _)
  · unfold takeCall
    dsimp only
    split
    · exact keeps_loadCursor _ _ _
    · exact (keeps_loadCursor _ _ _).trans (keeps_runCall _ _)

theorem keeps_takeElements (es : List (Option Element)) (w : Work) : Keeps w.state (takeElements es w).state := by
  induction es generalizing w with
  | nil => exact .refl _
  | cons e es ih => exact (keeps_takeElement e _ w).trans (ih _)

theorem keeps_startSave (k : SaveKind) (b : Bool) (s : State) : Keeps s (startSave k b s) :=
  keeps_plain rfl rfl rfl rfl rfl rfl rfl rfl rfl rfl

theorem keeps_serviceRequest (rq : Requester) (es : List (Option Element)) (s : State) :
    Keeps s (serviceRequest rq es s) := by
  have last : ∀ (b : Bool) (u : State), Keeps u (grantAfter b u) := by
    intro b u
    unfold grantAfter
    split
    · exact (lit_grant u).keeps
    · exact .refl u
  unfold serviceRequest
  dsimp only
  have m := ((keeps_supervisionRestart s).trans
    (keeps_takeElements es ⟨supervisionRestart s, [], false, false, false⟩)).trans (keeps_offerOrigin (replyFrame rq
      (takeElements es ⟨supervisionRestart s, [], false, false, false⟩)) _)
  refine Keeps.trans ?_ (last _ _)
  split
  · exact m.trans (keeps_startSave _ _ _)
  · exact m

/-! ### The Calendar (04) -/

theorem keeps_foldCounters (s : State) : Keeps s (foldCounters s) := by
  have j : ∀ p u, Keeps u (judgePort p u) := by
    intro p u
    unfold judgePort
    dsimp only
    split
    · refine Keeps.trans ?_ (keeps_raise _ _ _ _)
      exact keeps_plain rfl rfl rfl rfl rfl rfl rfl rfl rfl rfl
    · refine Keeps.trans ?_ (keeps_clearIf _ _ _ _)
      exact keeps_plain rfl rfl rfl rfl rfl rfl rfl rfl rfl rfl
  refine Keeps.trans (Keeps.trans ?_ (j _ _)) (j _ _)
  exact keeps_plain rfl rfl rfl rfl rfl rfl rfl rfl rfl rfl

theorem keeps_hourlySave (s : State) : Keeps s (hourlySave s) := by
  unfold hourlySave
  split
  · exact keeps_startSave _ _ s
  · exact .refl s

theorem keeps_hourWork (s : State) : Keeps s (hourWork s) :=
  (((keeps_foldHours s).trans (keeps_setRechecks _)).trans (keeps_climateHour _)).trans
    ((keeps_foldCounters _).trans (keeps_hourlySave _))

theorem keeps_takeRoll (s : State) (c : Instr) : Keeps s (takeRoll s c) := by
  unfold takeRoll
  split
  · exact (keeps_taken _ s).trans (keeps_hourWork _)
  · exact (keeps_taken _ s).trans (keeps_dayFoldAndTests _ _)
  · exact .refl s

theorem keeps_takeRolls (s : State) : Keeps s (takeRolls s) := keeps_foldl _ keeps_takeRoll _ s

theorem keeps_rollsBefore (c : Instr) (s : State) : Keeps s (rollsBefore c s) := keeps_foldl _ keeps_takeRoll _ s

theorem keeps_calendar (s : State) (c : Calendar) : Keeps s { s with calendar := c } :=
  keeps_plain rfl rfl rfl rfl rfl rfl rfl rfl rfl rfl

theorem keeps_advanceCalendar (s : State) : Keeps s (advanceCalendar s) := by
  have on : ∀ u : State, Keeps u (advanceSet u) := by
    intro u
    unfold advanceSet
    dsimp only
    split
    · unfold passMidnight
      dsimp only
      split
      · exact ((keeps_calendar u _).trans (keeps_handOn _ _)).trans (keeps_raise _ _ _ _)
      · exact ((keeps_calendar u _).trans (keeps_handOn _ _)).trans (keeps_handOn _ _)
    · split
      · exact (keeps_calendar u _).trans (keeps_handOn _ _)
      · exact keeps_calendar u _
  have off : ∀ u : State, Keeps u (advanceUnset u) := by
    intro u
    unfold advanceUnset
    dsimp only
    split
    · exact (keeps_calendar u _).trans (keeps_handOn _ _)
    · split
      · exact (keeps_calendar u _).trans (keeps_handOn _ _)
      · exact keeps_calendar u _
  unfold advanceCalendar
  dsimp only
  split
  · exact (keeps_calendar s _).trans (on _)
  · exact (keeps_calendar s _).trans (off _)

theorem keeps_judgePoints (s : State) : Keeps s (judgePoints s) := keeps_points _ _

theorem keeps_minuteTick (m : Bool) (s : State) : Keeps s (minuteTick m s) := by
  have r : ∀ t u, Keeps u (readersMinute t u) := fun t u =>
    ((keeps_accrue t u).trans (keeps_judgeModes _)).trans (keeps_climateMinute _)
  unfold minuteTick blocksMinute
  dsimp only
  split
  · exact (keeps_advanceCalendar s).trans ((keeps_judgePoints _).trans (r _ _))
  · exact (keeps_advanceCalendar s).trans ((r _ _).trans (keeps_judgePoints _))

theorem keeps_clockEvent (f : Frame) (s : State) : Keeps s (clockEvent f s) := by
  have m : Keeps s (takeClock f s) := by
    unfold takeClock
    split
    · exact keeps_count _ s
    · split
      · split
        · refine Keeps.trans ?_ (keeps_judgeModes _)
          exact keeps_plain rfl rfl rfl rfl rfl rfl rfl rfl rfl rfl
        · exact (((keeps_calendar s _).trans (keeps_clear _ _ _)).trans (keeps_judgeModes _)).trans (keeps_yearTests _ _)
      · exact keeps_count _ s
  unfold clockEvent
  dsimp only
  split
  · exact m.trans (keeps_offerP2g _ _)
  · exact m

theorem keeps_calendarClock (f : Frame) (s : State) : Keeps s (calendarClock f s) :=
  ((keeps_taken _ s).trans (keeps_takeRolls _)).trans (keeps_clockEvent f _)

theorem keeps_takeClocks (l : List Instr) (s : State) : Keeps s (takeClocks l s) := by
  refine keeps_foldl _ (fun u c => ?_) l s
  unfold takeWaitingClock
  split
  · exact keeps_calendarClock _ u
  · exact .refl u

end Sys2Proof.Machine
end

