-- ==== Sys2Proof/Laws/KeepsLoad.lean ====
section
/-! SUPPORT. What the load of an image keeps (R172 to R175), and that a reset leaves every invariant true; what the course
of a save keeps (R176 to R178). -/

namespace Sys2Proof.Machine

/-- R78: Cfloor never exceeds Cmax. -/
def FloorsInRange (s : State) : Prop := ∀ i, (s.object i).cfloor ≤ (s.object i).cmax

/-- What the steps of the load keep. -/
structure LoadKeeps (s t : State) : Prop extends Bounds s t where
  rings : RingsBounded s → RingsBounded t
  floors : FloorsInRange s → FloorsInRange t
  store : t.store = s.store

theorem LoadKeeps.refl (s : State) : LoadKeeps s s := ⟨.refl s, id, id, rfl⟩

theorem LoadKeeps.trans {s t u : State} (h : LoadKeeps s t) (k : LoadKeeps t u) : LoadKeeps s u :=
  ⟨h.toBounds.trans k.toBounds, k.rings ∘ h.rings, k.floors ∘ h.floors, k.store.trans h.store⟩

theorem loadKeeps_forEach (n : Nat) (f : Nat → State → State) (h : ∀ i s, LoadKeeps s (f i s)) (s : State) :
    LoadKeeps s (forEach n f s) := by
  have fold : ∀ (l : List Nat) (s : State), LoadKeeps s (l.foldl (fun s i => f i s) s) := by
    intro l
    induction l with
    | nil => exact .refl
    | cons a l ih => exact fun s => (h a s).trans (ih _)
  exact fold _ s

theorem Reported.loadKeeps {s t : State} (h : Reported s t) : LoadKeeps s t where
  toBounds := h.evaluated.toBounds
  rings r i := by rw [h.zone]; exact r i
  floors r i := by rw [h.object]; exact r i
  store := h.store

/-- A step of the load that writes none of what `LoadKeeps` speaks of. -/
theorem loadKeeps_plain {s t : State} (g : t.g2p = s.g2p) (p : t.p2g = s.p2g) (q : t.plantOrigin = s.plantOrigin)
    (c : t.conditions = s.conditions) (gr : t.groups = s.groups) (z : t.zones = s.zones) (o : t.objects = s.objects)
    (m : t.store = s.store) : LoadKeeps s t where
  toBounds := bounds_of g p q c gr
  rings r i := by rw [zone_congr z]; exact r i
  floors r i := by rw [object_congr o]; exact r i
  store := m

theorem loadKeeps_imageFault (n : Nat) (s : State) : LoadKeeps s (imageFault n s) := by
  refine LoadKeeps.trans ?_ (reported_raise _ _ _ _).loadKeeps
  exact loadKeeps_plain rfl rfl rfl rfl rfl rfl rfl rfl

theorem loadKeeps_modObject (s : State) (i : Nat) (f : Obj → Obj)
    (h : (s.object i).cfloor ≤ (s.object i).cmax → (f (s.object i)).cfloor ≤ (f (s.object i)).cmax) :
    LoadKeeps s (s.modObject i f) where
  toBounds := bounds_of rfl rfl rfl rfl rfl
  rings := id
  floors r j := by
    rw [object_modObject]
    split
    · rename_i e
      obtain ⟨rfl, _⟩ := e
      exact h (r i)
    · exact r j
  store := rfl

theorem loadKeeps_modZone (s : State) (i : Nat) (f : Zone → Zone)
    (h : (s.zone i).ring.length ≤ ringCapacity → (f (s.zone i)).ring.length ≤ ringCapacity) :
    LoadKeeps s (s.modZone i f) where
  toBounds := bounds_of rfl rfl rfl rfl rfl
  rings r j := by
    rw [zone_modZone]
    split
    · rename_i e
      obtain ⟨rfl, _⟩ := e
      exact h (r i)
    · exact r j
  floors := id
  store := rfl

theorem loadKeeps_modGroup (s : State) (i : Nat) (f : Group → Group)
    (h : levelLegal (s.group i) → levelLegal (f (s.group i))) : LoadKeeps s (s.modGroup i f) where
  toBounds := ⟨fun q => ⟨q.g2p, q.p2g, q.origin, q.trims⟩, fun q => ⟨q.length, q.keys⟩, levelsInRange_modGroup h⟩
  rings := id
  floors := id
  store := rfl

/-! ### What the records hold -/

/-- What every stored field keeps, the whole record has. -/
theorem loadFields_keeps {α : Type} (t : TableId) (put : Nat → Half → α → α × Bool) (p : α → Prop)
    (h : ∀ f v a, p a → p (put f v a).1) (fields : List Nat) (values : List Half) (base r : α) (hb : p base)
    (e : loadFields t put fields values base = some r) : p r := by
  unfold loadFields at e
  have fold : ∀ (l : List (Nat × Half)) (acc : Option α), (∀ a, acc = some a → p a) →
      l.foldl (loadField t put) acc = some r → p r := by
    intro l
    induction l with
    | nil => exact fun acc ha e => ha r e
    | cons x l ih =>
        intro acc ha e
        refine ih _ (fun a ea => ?_) e
        cases acc with
        | none => simp [loadField] at ea
        | some b =>
            simp only [loadField] at ea
            split at ea
            · cases ea
              exact h _ _ _ (ha b rfl)
            · cases ea
  exact fold _ _ (fun a ea => by cases ea; exact hb) e

theorem putGroup_cap (f : Nat) (v : Half) (g : Group) : (putGroup f v g).1.cap = g.cap := by
  unfold putGroup
  split <;> rfl

theorem parseGroup_legal (values : List Half) (g : Group) (h : parseGroup values = some g) : levelLegal g := by
  unfold parseGroup at h
  rw [Option.map_eq_some_iff] at h
  obtain ⟨a, ha, rfl⟩ := h
  have k := loadFields_keeps .group putGroup (fun g => levelLegal g ∧ g.cap = none)
    (fun f v a x => ⟨putGroup_legal f v a x.1, (putGroup_cap f v a).trans x.2⟩) _ _ _ _
    ⟨⟨by decide, by decide, by decide, by decide, fun c e => by simp [factoryGroup] at e⟩, rfl⟩ ha
  obtain ⟨⟨h1, h2, h3, _, _⟩, hc⟩ := k
  exact ⟨h1, h2, h3, h3, fun c e => by change a.cap = some c at e; simp [hc] at e⟩

theorem parseObject_floor (values : List Half) (o : Obj) (h : parseObject values = some o) : o.cfloor ≤ o.cmax := by
  unfold parseObject at h
  simp only [Option.bind_eq_bind, Option.bind_eq_some_iff] at h
  obtain ⟨a, ha, b, hb, hc⟩ := h
  have k := loadFields_keeps .object putObject (fun o => o.cfloor ≤ o.cmax) putObject_floor _ _ _ _ (by decide) ha
  unfold unchanged at hb hc
  split at hb
  · cases hb
  · cases hb
    split at hc
    · cases hc
    · cases hc
      exact k

theorem parseZone_ring (values : List Half) (z : Zone) (h : parseZone values = some z) : z.ring = [] :=
  loadFields_keeps .zone putZone (fun z => z.ring = []) (fun f v a e => (putZone_ring f v a).trans e) _ _ _ _ rfl h

/-! ### The load -/

theorem loadKeeps_loadRecord {α : Type} (r : RecordId) (parse : List Half → Option α) (place : α → State → State)
    (h : ∀ values a, parse values = some a → ∀ s, LoadKeeps s (place a s)) (s : State) :
    LoadKeeps s (loadRecord r parse place s) := by
  unfold loadRecord
  split
  · rename_i a e
    rw [Option.bind_eq_some_iff] at e
    obtain ⟨values, _, hv⟩ := e
    exact h values a hv s
  · exact loadKeeps_imageFault _ s

theorem loadKeeps_raiseClockUnset (s : State) : LoadKeeps s (raiseClockUnset s) := (reported_raise _ _ _ s).loadKeeps

theorem loadKeeps_loadSettings (s : State) : LoadKeeps s (loadSettings s) := by
  unfold loadSettings
  split
  · refine LoadKeeps.trans ?_ (loadKeeps_raiseClockUnset _)
    exact loadKeeps_plain rfl rfl rfl rfl rfl rfl rfl rfl
  · exact (loadKeeps_raiseClockUnset s).trans (loadKeeps_imageFault _ _)

theorem loadKeeps_markDoses (b : Bool) (s : State) : LoadKeeps s (markDoses b s) := by
  unfold markDoses
  split
  · exact loadKeeps_plain rfl rfl rfl rfl rfl rfl rfl rfl
  · exact .refl s

theorem loadKeeps_loadDose (stamp : Date) (i : Nat) (s : State) : LoadKeeps s (loadDose stamp i s) := by
  unfold loadDose
  split
  · exact loadKeeps_modObject s i _ id
  · dsimp only
    have m := (loadKeeps_markDoses true s).trans (loadKeeps_modObject _ i (unknownDose stamp) id)
    split
    · exact m.trans (reported_raise _ _ _ _).loadKeeps
    · exact m

theorem loadKeeps_loadSetpoints (i : Nat) (s : State) : LoadKeeps s (loadSetpoints i s) :=
  (loadKeeps_markDoses _ s).trans (loadKeeps_modZone _ i _ id)

theorem loadKeeps_loadNodes (s : State) : LoadKeeps s (loadNodes s) := by
  refine loadKeeps_forEach _ _ (fun i => loadKeeps_loadRecord _ _ _ fun _ a _ s => ?_) s
  exact loadKeeps_plain rfl rfl rfl rfl rfl rfl rfl rfl

theorem loadKeeps_loadPoints (s : State) : LoadKeeps s (loadPoints s) := by
  refine loadKeeps_forEach _ _ (fun i => loadKeeps_loadRecord _ _ _ fun _ a _ s => ?_) s
  exact loadKeeps_plain rfl rfl rfl rfl rfl rfl rfl rfl

theorem loadKeeps_loadObjects (s : State) : LoadKeeps s (loadObjects s) :=
  loadKeeps_forEach _ _ (fun i => loadKeeps_loadRecord _ _ _ fun _ _ h s =>
    loadKeeps_modObject s i _ fun _ => parseObject_floor _ _ h) s

theorem loadKeeps_loadGroups (s : State) : LoadKeeps s (loadGroups s) :=
  loadKeeps_forEach _ _ (fun i => loadKeeps_loadRecord _ _ _ fun _ _ h s =>
    loadKeeps_modGroup s i _ fun _ => parseGroup_legal _ _ h) s

theorem loadKeeps_loadZones (s : State) : LoadKeeps s (loadZones s) :=
  loadKeeps_forEach _ _ (fun i => loadKeeps_loadRecord _ _ _ fun _ _ h s =>
    loadKeeps_modZone s i _ fun _ => by rw [parseZone_ring _ _ h]; simp [ringCapacity]) s

theorem loadKeeps_loadSections (s : State) : LoadKeeps s (loadSections s) :=
  ((((((loadKeeps_loadSettings s).trans (loadKeeps_loadNodes _)).trans (loadKeeps_loadPoints _)).trans
    (loadKeeps_loadObjects _)).trans (loadKeeps_loadGroups _)).trans (loadKeeps_loadZones _)).trans
    (((loadKeeps_forEach _ _ (loadKeeps_loadDose _) _).trans (loadKeeps_forEach _ _ loadKeeps_loadSetpoints _)).trans
      (loadKeeps_markDoses _ _))

theorem loadKeeps_readImage (s : State) : LoadKeeps s (readImage s) := by
  unfold readImage
  split
  · exact loadKeeps_raiseClockUnset s
  · exact (loadKeeps_raiseClockUnset s).trans (loadKeeps_imageFault _ _)
  · exact loadKeeps_loadSections s

/-! ### The straps and the load computations -/

theorem loadKeeps_disableClash (i : Nat) (s : State) : LoadKeeps s (disableClash i s) := by
  unfold disableClash
  split
  · refine LoadKeeps.trans ?_ (loadKeeps_imageFault _ _)
    exact loadKeeps_plain rfl rfl rfl rfl rfl rfl rfl rfl
  · exact .refl s

theorem device_disableClash (i : Nat) (s : State) : (disableClash i s).device = s.device := by
  unfold disableClash imageFault
  split
  · rw [device_raise]; rfl
  · rfl

/-- R175: after its turn no enabled node has the own address; other nodes stay as they were. -/
theorem node_disableClash (i j : Nat) (s : State) :
    (disableClash i s).node j =
      if i = j ∧ (s.node i).enable = true ∧ (s.node i).address = s.device.ownAddress then
        { s.node j with enable := false, state := .absent }
      else s.node j := by
  unfold disableClash imageFault
  by_cases h : (s.node i).enable = true ∧ (s.node i).address = s.device.ownAddress
  · have hi : i < 64 := by
      by_contra b
      rw [node_beyond s i (by omega)] at h
      simp [factoryNode] at h
    simp only [h, beq_self_eq_true, Bool.and_self, if_true, and_true, node_raise]
    show ((s.modNode i _).node j) = _
    rw [node_modNode]
    by_cases e : i = j
    · subst e; simp [hi]
    · simp [e]
  · have : ((s.node i).enable && (s.node i).address == s.device.ownAddress) = false := by
      simpa using h
    simp [this, h]

/-- R175 over the whole table. -/
theorem node_disableClashes (n j : Nat) (s : State) :
    (forEach n disableClash s).device = s.device ∧
      (forEach n disableClash s).node j =
        if j < n ∧ (s.node j).enable = true ∧ (s.node j).address = s.device.ownAddress then
          { s.node j with enable := false, state := .absent }
        else s.node j := by
  induction n with
  | zero => exact ⟨rfl, by simp [forEach]⟩
  | succ n ih =>
      have step : forEach (n + 1) disableClash s = disableClash n (forEach n disableClash s) := by
        simp [forEach, List.range_succ]
      rw [step, device_disableClash, node_disableClash]
      obtain ⟨d, e⟩ := ih
      refine ⟨d, ?_⟩
      rw [d]
      by_cases h : n = j
      · subst h
        simp only [Nat.lt_irrefl, false_and, if_false] at e
        rw [e]
        simp
      · rw [if_neg (by simp [h]), e]
        have : j < n + 1 ↔ j < n := by omega
        simp only [this]

theorem ownAddressFree_settleAddresses (s : State) : OwnAddressFree (settleAddresses s) := by
  intro j en
  unfold settleAddresses at en ⊢
  dsimp only at en ⊢
  generalize hu : (if (s.pins.addrSel0 && s.pins.addrSel1) = true then
      ({ s with device := { s.device with ownAddress := 126, mgmtAddress := 0 } } : State) else s) = u at en ⊢
  obtain ⟨d, e⟩ := node_disableClashes 64 j u
  rw [d, e]
  rw [e] at en
  split
  · rename_i c
    rw [if_pos c] at en
    simp at en
  · rename_i c
    rw [if_neg c] at en
    have hj : j < 64 := by
      by_contra b
      rw [node_beyond u j (by omega)] at en
      simp [factoryNode] at en
    exact fun a => c ⟨hj, en, a⟩

theorem loadKeeps_settleAddresses (s : State) : LoadKeeps s (settleAddresses s) := by
  unfold settleAddresses
  dsimp only
  refine LoadKeeps.trans ?_ (loadKeeps_forEach _ _ loadKeeps_disableClash _)
  split
  · exact loadKeeps_plain rfl rfl rfl rfl rfl rfl rfl rfl
  · exact .refl s

theorem pacedCeiling_floor (o : Obj) :
    (pacedCeiling o).cfloor = o.cfloor ∧ (pacedCeiling o).cmax = o.cmax ∧ (pacedCeiling o).enable = o.enable := by
  unfold pacedCeiling
  repeat' split
  all_goals exact ⟨rfl, rfl, rfl⟩

theorem loadKeeps_computeCeiling (i : Nat) (s : State) : LoadKeeps s (computeCeiling i s) := by
  unfold computeCeiling
  dsimp only
  refine ((loadKeeps_modObject s i _ fun h => ?_).trans (reported_follow _ _ _ _ _ _).loadKeeps).trans
    (reported_follow _ _ _ _ _ _).loadKeeps
  rw [(pacedCeiling_floor _).1, (pacedCeiling_floor _).2.1]
  exact h

theorem loadKeeps_loadCeiling (i : Nat) (s : State) : LoadKeeps s (loadCeiling i s) := by
  unfold loadCeiling
  dsimp only
  have m : LoadKeeps s (s.modObject i fun o => { o with ceiling := o.cfloor }) := loadKeeps_modObject s i _ id
  split
  · exact m.trans (loadKeeps_computeCeiling i _)
  · exact m

/-- R77: the ceiling that the load leaves. -/
theorem object_loadCeiling (i j : Nat) (s : State) :
    (loadCeiling i s).object j =
      if i = j ∧ i < 256 then
        (if (s.object i).enable then pacedCeiling { s.object i with ceiling := (s.object i).cfloor }
        else { s.object i with ceiling := (s.object i).cfloor })
      else s.object j := by
  unfold loadCeiling
  dsimp only
  by_cases hi : i < 256
  · have self : (s.modObject i fun o => { o with ceiling := o.cfloor }).object i =
        { s.object i with ceiling := (s.object i).cfloor } := object_modObject_self _ _ _ hi
    rw [self]
    by_cases e : i = j
    · subst e
      simp only [hi, and_self, if_true]
      split
      · unfold computeCeiling
        dsimp only
        simp only [object_follow]
        rw [object_modObject_self _ _ _ hi, self]
      · exact self
    · simp only [e, false_and, if_false]
      split
      · unfold computeCeiling
        dsimp only
        simp only [object_follow]
        rw [object_modObject_other _ _ _ _ e, object_modObject_other _ _ _ _ e]
      · exact object_modObject_other _ _ _ _ e
  · have off : (s.modObject i fun o => { o with ceiling := o.cfloor }) = s := by
      unfold State.modObject modifyAt; simp [hi]
    rw [off]
    have : (s.object i).enable = false := by rw [object_beyond s i (by omega)]; rfl
    simp [this, hi]

theorem nodes_loadCeiling (i : Nat) (s : State) :
    (loadCeiling i s).nodes = s.nodes ∧ (loadCeiling i s).device = s.device := by
  unfold loadCeiling computeCeiling
  dsimp only
  split
  · simp
  · exact ⟨rfl, rfl⟩

/-- R77, R88 over the whole table. -/
theorem ceilings_loadCeilings (n : Nat) (s : State) (h : FloorsInRange s) :
    (forEach n loadCeiling s).nodes = s.nodes ∧ (forEach n loadCeiling s).device = s.device ∧
      FloorsInRange (forEach n loadCeiling s) ∧
      ∀ j < n, ceilingLegal ((forEach n loadCeiling s).object j) := by
  induction n with
  | zero => exact ⟨rfl, rfl, h, fun j hj => absurd hj (Nat.not_lt_zero j)⟩
  | succ n ih =>
      have step : forEach (n + 1) loadCeiling s = loadCeiling n (forEach n loadCeiling s) := by
        simp [forEach, List.range_succ]
      rw [step]
      obtain ⟨a, b, c, d⟩ := ih
      obtain ⟨a', b'⟩ := nodes_loadCeiling n (forEach n loadCeiling s)
      refine ⟨a'.trans a, b'.trans b, (loadKeeps_loadCeiling n _).floors c, fun j hj => ?_⟩
      rw [object_loadCeiling]
      split
      · split
        · exact pacedCeiling_legal _ (c n)
        · rename_i en
          exact ⟨c n, fun on => absurd on en⟩
      · rename_i e
        by_cases k : j < n
        · exact d j k
        · have : j = n := by omega
          subst this
          have big : ¬j < 256 := fun l => e ⟨rfl, l⟩
          rw [object_beyond _ j (by omega)]
          exact ⟨by decide, fun on => by simp [factoryObject] at on⟩

/-! ### RESET -/

theorem keeps_tearPage (s : State) : Keeps s (tearPage s) := by
  unfold tearPage
  split
  · exact .refl s
  · exact keeps_of (bounds_of rfl rfl rfl rfl rfl) (fun _ => .refl _) (fun _ => id) (storeWriteAll_wf _ _ _)
      (ownAddressFree_congr rfl rfl)

theorem blank_tables (s : State) (i : Nat)
    (z : s.zones = Vector.replicate 24 factoryZone) (o : s.objects = Vector.replicate 256 factoryObject)
    (g : s.groups = Vector.replicate 48 factoryGroup) (n : s.nodes = Vector.replicate 64 factoryNode) :
    s.zone i = factoryZone ∧ s.object i = factoryObject ∧ s.group i = factoryGroup ∧ s.node i = factoryNode := by
  refine ⟨?_, ?_, ?_, ?_⟩
  · unfold State.zone; rw [z]
    by_cases h : i < 24 <;> simp [h]
  · unfold State.object; rw [o]
    by_cases h : i < 256 <;> simp [h]
  · unfold State.group; rw [g]
    by_cases h : i < 48 <;> simp [h]
  · unfold State.node; rw [n]
    by_cases h : i < 64 <;> simp [h]

/-- R128, R139: every setpoint brought into its band. -/
theorem clampSetpoints_zones (v : State) :
    (RingsBounded v → RingsBounded (clampSetpoints v)) ∧ SetpointsInBand (clampSetpoints v) := by
  have zones (i : Nat) (h : i < 24) : (clampSetpoints v).zone i =
      { v.zone i with rh := clampSetpoint (v.zone i).rh, temp := clampSetpoint (v.zone i).temp } := by
    simp [State.zone, clampSetpoints, h]
  refine ⟨fun r i => ?_, fun i => ?_⟩
  · by_cases h : i < 24
    · rw [zones i h]; exact r i
    · rw [zone_beyond _ i (by omega)]; decide
  · by_cases h : i < 24
    · rw [zones i h]; exact ⟨clampSetpoint_inBand _, clampSetpoint_inBand _⟩
    · rw [zone_beyond _ i (by omega)]
      exact ⟨⟨by decide, by decide⟩, ⟨by decide, by decide⟩⟩

/-- R173 to R175: a reset leaves every invariant true, whatever the part was doing and whatever the store holds; the
store keeps its form. -/
theorem keeps_resetPart (pins : Pins) (s : State) : Keeps s (resetPart pins s) := by
  have m : Memory.wf s.store → Memory.wf (cleared pins (tearPage s)).store := (keeps_tearPage s).store
  have b := fun i => blank_tables (cleared pins (tearPage s)) i rfl rfl rfl rfl
  have q0 : QueuesBounded (cleared pins (tearPage s)) :=
    ⟨by simp [cleared, State.reset], by simp [cleared, State.reset], by simp [cleared, State.reset],
      by simp [cleared, State.reset]⟩
  have t0 : TableBounded (cleared pins (tearPage s)) := ⟨by simp [cleared], by simp [cleared]⟩
  unfold resetPart loadComputations
  generalize cleared pins (tearPage s) = u at m b q0 t0 ⊢
  have k := (loadKeeps_readImage u).trans (loadKeeps_settleAddresses _)
  have own := ownAddressFree_settleAddresses (readImage u)
  generalize settleAddresses (readImage u) = w at k own ⊢
  have c := ceilings_loadCeilings 256 w (k.floors fun i => by rw [(b i).2.1]; decide)
  have l := k.trans (loadKeeps_forEach 256 _ loadKeeps_loadCeiling w)
  generalize forEach 256 loadCeiling w = v at c l ⊢
  have z := clampSetpoints_zones v
  have q := l.queues q0
  have t := l.table t0
  refine ⟨⟨⟨fun _ => ⟨q.g2p, q.p2g, q.origin, q.trims⟩, fun _ => ⟨t.length, t.keys⟩, fun _ => ?_⟩,
    fun _ => z.1 (l.rings fun i => by rw [(b i).1]; decide), fun h => ?_, fun _ => z.2, fun _ => ?_⟩, fun _ i => ?_⟩
  · refine levelsInRange_congr (s := v) rfl (l.levels fun i => ?_)
    rw [(b i).2.2.1]
    exact ⟨by decide, by decide, by decide, by decide, fun c e => by simp [factoryGroup] at e⟩
  · show Memory.wf v.store
    rw [l.store]; exact m h
  · exact ownAddressFree_congr (t := clampSetpoints v) (s := w) c.1 (congrArg Device.ownAddress c.2.1) own
  · show ceilingLegal (v.object i)
    by_cases hi : i < 256
    · exact c.2.2.2 i hi
    · rw [object_beyond _ i (by omega)]
      exact ⟨by decide, fun on => by simp [factoryObject] at on⟩

/-! ### LOAD_END -/

theorem keeps_firstEvaluation (z : Nat) (s : State) : Keeps s (firstEvaluation z s) := by
  unfold firstEvaluation
  split
  · exact (keeps_modZone s z _ ⟨id, id, id⟩).trans (evaluated_requestCore _ _).keeps
  · exact .refl s

theorem keeps_enablePorts (s : State) : Keeps s (enablePorts s) := by
  unfold enablePorts
  dsimp only
  split
  · exact keeps_plain rfl rfl rfl rfl rfl rfl rfl rfl rfl rfl
  · exact keeps_plain rfl rfl rfl rfl rfl rfl rfl rfl rfl rfl

theorem keeps_finishLoad (s : State) : Keeps s (finishLoad s) := by
  have r : ∀ (u : State) (l : List Condition), Keeps u (l.foldl loadReport u) := fun u l =>
    keeps_foldl _ (fun u c => by
      unfold loadReport
      split
      · exact (reported_report _ _ u).keeps
      · exact .refl u) l u
  have w (u : State) : Keeps u (startSupervision u) := by
    unfold startSupervision
    split
    · exact .refl u
    · exact keeps_plain rfl rfl rfl rfl rfl rfl rfl rfl rfl rfl
  exact ((((((keeps_pollList s _).trans (keeps_forEach _ _ keeps_firstEvaluation _)).trans (keeps_enablePorts _)).trans
    (r _ _)).trans (keeps_forEach _ _ keeps_offerTrim _)).trans (w _)).trans (lit_grant _).keeps

/-! ### Saves (R176 to R178) -/

theorem keeps_imageFault (n : Nat) (s : State) : Keeps s (imageFault n s) := by
  refine Keeps.trans ?_ (keeps_raise _ _ _ _)
  exact keeps_plain rfl rfl rfl rfl rfl rfl rfl rfl rfl rfl

theorem keeps_clearImageFault (s : State) : Keeps s (clearImageFault s) := by
  unfold clearImageFault
  split
  · refine Keeps.trans ?_ (keeps_clear _ _ _)
    exact keeps_plain rfl rfl rfl rfl rfl rfl rfl rfl rfl rfl
  · exact .refl s

theorem keeps_handSaveEnd (k : SaveKind) (st : ProcedureState) (r : Nat) (s : State) :
    Keeps s (handSaveEnd k st r s) := by
  cases k
  · exact .refl s
  · exact keeps_plain rfl rfl rfl rfl rfl rfl rfl rfl rfl rfl

theorem keeps_afterSave (v : Save) (s : State) : Keeps s (afterSave v s) := by
  unfold afterSave
  split
  · refine Keeps.trans ?_ (keeps_resetPart _ _)
    exact keeps_plain rfl rfl rfl rfl rfl rfl rfl rfl rfl rfl
  · split
    · refine Keeps.trans ?_ (keeps_startSave _ _ _)
      exact keeps_plain rfl rfl rfl rfl rfl rfl rfl rfl rfl rfl
    · exact .refl s

theorem keeps_pageWritten (v : Save) (s : State) : Keeps s (pageWritten v s) :=
  keeps_of (bounds_of rfl rfl rfl rfl rfl) (fun _ => .refl _) (fun _ => id) (storeWriteAll_wf _ _ _)
    (ownAddressFree_congr rfl rfl)

end Sys2Proof.Machine
end

