-- ==== Sys2Proof/Laws/PerInstr.lean ====
section
/-! SUPPORT. The family `NoWord`: no word of the table spells a command, since no row gives bits; one lemma per
constructor. -/

namespace Sys2Proof.Laws.NoWord

open Sys2Proof

/-- No word, of whatever length, decodes to the command. -/
def Statement (i : Instr) : Prop := ∀ nbits w, decodeTableWord nbits w ≠ some i

theorem any (i : Instr) : Statement i := by
  intro nbits w
  simp [decodeTableWord]

theorem reset (pins : Pins) : Statement (.reset pins) := any _

theorem receiveCharacter (port : PortId) (reception : Reception) : Statement (.receiveCharacter port reception) := any _

theorem gapTimerExpiry (port : PortId) : Statement (.gapTimerExpiry port) := any _

theorem galleryFrame (frame : Frame) : Statement (.galleryFrame frame) := any _

theorem plantFrame (frame : Frame) (own : Byte) : Statement (.plantFrame frame own) := any _

theorem presence (frame : Frame) : Statement (.presence frame) := any _

theorem clock (frame : Frame) : Statement (.clock frame) := any _

theorem read (rq : Requester) (table : TableId) (cursor : Option Cursor) (mode : StepMode) (count : Nat) : Statement (.read rq table cursor mode count) := any _

theorem raisedSinceRead (rq : Requester) : Statement (.raisedSinceRead rq) := any _

theorem clearSinceRead (rq : Requester) : Statement (.clearSinceRead rq) := any _

theorem overflow (rq : Requester) : Statement (.overflow rq) := any _

theorem write (rq : Requester) (table : TableId) (cursor : Option Cursor) (mode : StepMode) (values : List Half) : Statement (.write rq table cursor mode values) := any _

theorem enableWrite (rq : Requester) (table : TableId) (entry : Half) (value : Half) : Statement (.enableWrite rq table entry value) := any _

theorem portEnableWrite (rq : Requester) (port : PortId) (value : Half) : Statement (.portEnableWrite rq port value) := any _

theorem rateWrite (rq : Requester) (port : PortId) (value : Half) : Statement (.rateWrite rq port value) := any _

theorem ownAddressWrite (rq : Requester) (value : Half) : Statement (.ownAddressWrite rq value) := any _

theorem supervisionWindowWrite (rq : Requester) (value : Half) : Statement (.supervisionWindowWrite rq value) := any _

theorem maskWrite (rq : Requester) (kind : ConditionKind) (value : Half) : Statement (.maskWrite rq kind value) := any _

theorem shadeGroupWrite (rq : Requester) (zone : Half) (value : Half) : Statement (.shadeGroupWrite rq zone value) := any _

theorem zoneModeWrite (rq : Requester) (zone : Half) (field : ZoneModeField) (value : Half) : Statement (.zoneModeWrite rq zone field value) := any _

theorem tagCheckWrite (rq : Requester) (node : Half) (value : Half) : Statement (.tagCheckWrite rq node value) := any _

theorem bandWrite (rq : Requester) (zone : Half) (field : BandField) (value : Half) : Statement (.bandWrite rq zone field value) := any _

theorem airHandlerWrite (rq : Requester) (zone : Half) (field : AirHandlerField) (value : Half) : Statement (.airHandlerWrite rq zone field value) := any _

theorem ceilingTermsWrite (rq : Requester) (object : Half) (term : CeilingTerm) : Statement (.ceilingTermsWrite rq object term) := any _

theorem openMinutesWrite (rq : Requester) (object : Half) (term : OpenMinutesTerm) : Statement (.openMinutesWrite rq object term) := any _

theorem groupLimitWrite (rq : Requester) (group : Half) (field : GroupLimitField) (value : Half) : Statement (.groupLimitWrite rq group field value) := any _

theorem save (rq : Requester) : Statement (.save rq) := any _

theorem restart (rq : Requester) : Statement (.restart rq) := any _

theorem doseSet (rq : Requester) (object : Half) (tag : CatalogueTag) (dose : BitVec 32) : Statement (.doseSet rq object tag dose) := any _

theorem rehunt (rq : Requester) (node : Half) : Statement (.rehunt rq node) := any _

theorem capClear (rq : Requester) (group : Half) : Statement (.capClear rq group) := any _

theorem clearLatched (rq : Requester) : Statement (.clearLatched rq) := any _

theorem restartSaveStart : Statement .restartSaveStart := any _

theorem plantTransmitComplete : Statement .plantTransmitComplete := any _

theorem galleryTransmitComplete : Statement .galleryTransmitComplete := any _

theorem replyWindowExpiry : Statement .replyWindowExpiry := any _

theorem turnaroundEnd : Statement .turnaroundEnd := any _

theorem pollDue : Statement .pollDue := any _

theorem settleExpiry (group : Nat) : Statement (.settleExpiry group) := any _

theorem supervisionExpiry : Statement .supervisionExpiry := any _

theorem pointAgeSecond : Statement .pointAgeSecond := any _

theorem minuteTick (monitorFirst : Bool) : Statement (.minuteTick monitorFirst) := any _

theorem hourRoll : Statement .hourRoll := any _

theorem dayRoll (date : Date) : Statement (.dayRoll date) := any _

theorem pageComplete : Statement .pageComplete := any _

theorem pageWriteTimeout : Statement .pageWriteTimeout := any _

theorem loadEnd : Statement .loadEnd := any _

end Sys2Proof.Laws.NoWord
end

