-- ==== Sys2Proof/Tests/Slice0.lean ====
section
/-! SUPPORT. Tests: what the well-formedness check refuses; worked examples of the manual, a step each; and for every
statement with hypotheses, a state and operands that meet them, at the ends of their ranges. -/

namespace Sys2Proof.Tests

set_option Elab.async false

open Sys2Proof Sys2Proof.Machine

/-- The part after its load, with nothing enabled, on a FREE line. -/
def live : State := { State.reset with loading := false, line := .free }

def rq : Requester := ⟨2, 77⟩

/-- The state a step leads to. -/
def after (r : Result) : State :=
  match r with
  | .next t => t
  | _ => State.reset

def nodeAt (address : Nat) (state : NodeState) : Node := { factoryNode with enable := true, address := address, state := state }

def withNode (n : Nat) (nd : Node) : State := live.modNode n fun _ => nd
def withPoint (i : Nat) (p : Point) : State := live.modPoint i fun _ => p
def withObject (i : Nat) (o : Obj) : State := live.modObject i fun _ => o
def withGroup (g : Nat) (gr : Group) : State := live.modGroup g fun _ => gr
def withZone (z : Nat) (zn : Zone) : State := live.modZone z fun _ => zn

/-- A SAMPLE of node address 14 with one reading. -/
def sample : Frame := buildFrame 127 14 kindSample 5 [0, 0x10, 0, 58]

def onlineNode : Node := nodeAt 14 .online

/-- A LEVEL of plant station 9 to gallery address 40. -/
def level (l : Nat) : Frame := buildFrame 40 9 kindLevel 7 (levelPayload 1 l 10)

def clockFrame (dest : Byte) (y d m : Nat) : Frame := buildFrame dest 2 kindClock 0 (octetsOfAll (([y, d, m]).map halfOfNat))

/-! ### Well-formedness: each check refuses an ill-formed term -/

theorem test_wf_requester_zero_refused : (Instr.save ⟨0, 1⟩).wf = false := by decide
theorem test_wf_requester_broadcast_refused : (Instr.rehunt ⟨127, 1⟩ 0).wf = false := by decide
theorem test_wf_requester_accepted : (Instr.save ⟨126, 1⟩).wf = true := by decide
theorem test_wf_gallery_bad_check_refused : (Instr.galleryFrame { sample with check := 0 }).wf = false := by
  decide +kernel
theorem test_wf_gallery_frame_accepted : (Instr.galleryFrame sample).wf = true := by decide +kernel
theorem test_wf_long_payload_refused :
    (Instr.plantFrame (buildFrame 1 2 kindService 0 (List.replicate 49 0)) 1).wf = false := by decide +kernel
theorem test_wf_own_address_refused : (Instr.plantFrame (buildFrame 1 2 kindService 0 []) 0).wf = false := by
  decide +kernel
theorem test_wf_presence_of_other_kind_refused : (Instr.presence sample).wf = false := by decide +kernel
theorem test_wf_clock_of_other_kind_refused : (Instr.clock sample).wf = false := by decide +kernel
theorem test_wf_read_count_refused : (Instr.read rq .node none .stay 256).wf = false := by decide
theorem test_wf_write_count_refused : (Instr.write rq .node none .stay (List.replicate 256 0)).wf = false := by
  decide +kernel
theorem test_wf_enable_of_counter_refused : (Instr.enableWrite rq .counter 0 1).wf = false := by decide
theorem test_wf_settle_of_group_48_refused : (Instr.settleExpiry 48).wf = false := by decide
theorem test_wf_day_roll_day_366_refused : (Instr.dayRoll ⟨2025, 366⟩).wf = false := by decide
theorem test_wf_day_roll_leap_accepted : (Instr.dayRoll ⟨2024, 366⟩).wf = true := by decide

/-! ### Worked examples of the manual -/

/-- The CRC of R179 over the nine digits. -/
theorem test_crc_check_value : crc16 [0x31, 0x32, 0x33, 0x34, 0x35, 0x36, 0x37, 0x38, 0x39] = 0x29B1 := by decide +kernel

/-- 11, the five-element request: its octets, and the elements that they are. -/
theorem test_five_element_request :
    elementsOf [0x68, 0x03, 0x00, 0x1F, 0x18, 0x02, 0xB0, 0x01, 0x00, 0x04, 0x03, 0x04, 0x00, 0x0A, 0x00, 0x0A, 0x02,
      0xBC, 0x00, 0x0A, 0x80, 0x01, 0x01, 0x00, 0x05, 0xC0, 0x01, 0x01, 0x04, 0x00, 0x09, 0x40, 0x07, 0x00] =
    [some (.read .object (some ⟨31, 24⟩) .field 2), some (.write .node (some ⟨4, 3⟩) .entry [10, 10, 700, 10]),
      some (.write .node none .stay [5]), some (.call .node none (.rehunt 9)), none] := by decide +kernel

/-- 05, the limits of the ceiling. -/
theorem test_ceiling_limits :
    ([(150010, 40000, 150000), (130000, 0, 150000), (149000, 10000, 150000), (62401, 105120, 150000),
      (62401, 1000, 150000), (0, 1, 4000000000)]).map (fun (d, p, b) =>
        let o := pacedCeiling { factoryObject with cfloor := 30, cmax := 80, dose := d, remaining := p, budget := b }
        (o.ceiling, o.exhausted, o.paceShort)) =
    [(30, true, false), (80, false, false), (30, false, true), (49, false, false), (80, false, false),
      (80, false, false)] := by decide

/-- 02, the late poll: a POLL 2,150 ms after its due time at a period of 2 s counts one late poll, and goes out. -/
theorem test_late_poll_counts :
    let s := { withNode 6 { nodeAt 31 .online with pollPeriod := 2 } with
      pollList := [⟨6, 10000⟩], now := 12150 * unitsPerMs }
    let t := after (exec .pollDue s)
    t.counters[5].current = 1 ∧ t.pointer = .command ∧ gdeAsserted t = true := by decide +kernel

/-- 03, continuity: SEQ 255 after 251 counts three lost replies. -/
theorem test_lost_replies :
    ((takeFrame 20 { sample with seq := 255 } (withNode 20 { onlineNode with lastSeq := 251 })).node 20).lostReplies = 3 := by
  decide +kernel

/-- 03, spike hold: 5,650 is held beside 5,010, and 5,700 then settles. -/
theorem test_spike_hold :
    let s := (withPoint 40 { factoryPoint with quantity := .rh, zone := 7, value := 5010, accepted := true, age := 0 }).modZone
      7 fun z => { z with rh := { z.rh with spike := 300 } }
    let t := valueReading 40 ⟨2, .rh, .good, 5650⟩ s
    let u := valueReading 40 ⟨2, .rh, .good, 5700⟩ t
    (t.point 40).value = 5010 ∧ (t.point 40).pending = some 5650 ∧ (u.point 40).value = 5700 ∧
      (u.point 40).pending = none := by decide +kernel

/-- 04: a CLOCK 1,979 minutes ahead issues an hour roll and a day roll. -/
theorem test_forward_clock_rolls :
    let s := { live with calendar := ⟨true, 2024, 61, 1, 0, 130, 0, 0⟩ }
    let t := after (exec (.clock (clockFrame 1 2024 62 540)) s)
    t.handed = [.hourRoll, .dayRoll ⟨2024, 62⟩] ∧ t.calendar.minute = 540 := by decide +kernel

/-- 06, evaluation 1: the ratios, and the lowered target of the shade. -/
theorem test_ratios_and_target :
    ([(49, 58), (80, 66), (120, 100)]).map (fun (c, v) => ratioOf c v) = [844, 1212, 1200] ∧
      loweredTarget { factoryGroup with level := 600, lo := 100 } 844 = 506 := by decide

/-- 07, a humid afternoon: two ticks above the band, and the third, make an excursion at persistence 3. -/
theorem test_humid_afternoon :
    let move := fun v c => movedBand 3 (bandMove c v) c
    let c := move 5590 (move 5560 (move 5540 factoryRh))
    c.band = .high ∧ c.timer = 0 ∧ (move 5380 c).band = .returningHigh ∧ (move 5450 c).band = .high := by decide

/-- 08: a raise in a full table evicts the first LATCHED entry. -/
theorem test_full_table_evicts :
    let table := ⟨.nodeSilent, 9, .latched, 0, 0, 0⟩ ::
      (List.range 63).map fun i => (⟨.pointFault, i, .active, 0, 0, 0⟩ : Condition)
    let t := raise .sourceDegraded 44 0 { live with conditions := table }
    t.conditions.length = 64 ∧ t.conditions.head?.map (·.kind) = some .pointFault ∧ t.latches.overflow = false := by
  decide +kernel

/-- R4: the gap timer has run out only past 4 character times after the last character, and not within a character. -/
theorem test_gap_timer :
    ([some 1000, none]).map (fun gap => ([1220, 1221]).map fun now =>
      gapDue { live with plantAsm := .collect [1] gap, now := now } .plant) = [[false, true], [false, false]] := by
  decide +kernel

/-- R35: a frame that completes on a FREE line is a stray, also where a grant and its window come before GALLERY_FRAME; one
that completes in its window answers it. -/
theorem test_frame_judged_as_it_completed :
    let window := fun answers => Line.busy ⟨.poll 63, sample, some 14, some kindSample, .window 5, answers⟩
    let strays := fun line => (after (exec (.galleryFrame sample)
      { live with line := line, handed := [.galleryFrame sample] })).counters[3].current
    noteArrival .gallery sample live = live ∧
      (noteArrival .gallery sample { live with line := window [] }).line = window [sample] ∧
      strays (window []) = 1 ∧ strays (window [sample]) = 0 ∧ strays .off = 1 := by decide +kernel

/-- R68: a DAY_ROLL takes the hour roll that was issued before it first, and leaves what came after it. -/
theorem test_day_roll_after_hour_roll :
    handedBefore (.dayRoll ⟨2024, 62⟩) { live with handed := [.hourRoll, .dayRoll ⟨2024, 62⟩, .pollDue] } =
      [.hourRoll] := by decide +kernel

/-- 09: a CALL REHUNT of a disabled node is answered REF_ERROR. -/
theorem test_rehunt_disabled_node :
    (after (exec (.rehunt rq 9) live)).plantTx.map (·.frame.payload) = some [77, 4] := by decide +kernel

theorem test_page_reaches_the_store :
    let s := after (exec (.save rq) live)
    storeRead (after (exec .pageComplete s)).store 19 = 0 ∧ storeRead (after (exec .pageComplete s)).store 20 = 1 := by
  decide +kernel

/-! ### Hypotheses of the statements are met: steps, reset and load -/

theorem test_witness_StepRunsFrontCommand :
    ({ live with pending := [.pollDue, .loadEnd] }).pending = .pollDue :: [.loadEnd] := rfl

/-- An event that is still due, one that was put off, and none; a load in its last time unit. -/
theorem test_witness_IdleStepTakesEventsThenTime :
    live.pending = [] ∧ live.handed = [] ∧ State.reset.pending = [] ∧ State.reset.handed = [] ∧
      ({ State.reset with now := 575999 }).loading = true ∧ unitsPerSecond ≤ 575999 + 1 ∧
      ({ live with handed := [.hourRoll, .pollDue] }).handed = .hourRoll :: [.pollDue] ∧
      stillDue live .hourRoll = true ∧ stillDue live (.settleExpiry 47) = false := by decide +kernel

/-- A store that holds the marker and nothing more. -/
def markedStore : List Host.Cell := storeWriteAll [] 0 (octetsOf 0x4E4C)

/-- A store with a good header, one good point record and one good dose record. -/
def smallImage : List Host.Cell :=
  ([RecordId.header, .point 191, .dose 255]).foldl
    (fun m r => storeWriteAll m (recordAddress r) (recordOctets live none r)) []

/-- No answer, no marker, and a marker whose header fails. -/
theorem test_witness_ResetWithoutImage :
    (tearPage live).store = [] ∧ judgeHeader false [] ≠ .passed ∧
      judgeHeader true [] ≠ .passed ∧ storeReadAll [] 0 2 ≠ octetsOf 0x4E4C ∧
      judgeHeader true markedStore ≠ .passed ∧ storeReadAll markedStore 0 2 = octetsOf 0x4E4C := by decide +kernel

/-- A store with a good header, an enabled node at the own address, and an enabled object with no dose record. -/
def clashImage : List Host.Cell :=
  let s := (withNode 63 (nodeAt 1 .hunting)).modObject 255 fun o => { o with enable := true }
  ([RecordId.header, .node 63, .object 255]).foldl
    (fun m r => storeWriteAll m (recordAddress r) (recordOctets s none r)) []

/-- A record that passes, one that fails, and a dose record; a clash of addresses, and a dose that is missing. -/
theorem test_witness_ResetLoadsRecords :
    judgeHeader true smallImage = .passed ∧ (checkedValues smallImage (.point 191)).isSome = true ∧
      checkedValues smallImage (.point 0) = none ∧
      (checkedValues smallImage (.dose 255)).bind parseDose = some ⟨0, 0, 0, 0, 0⟩ ∧
      judgeHeader true clashImage = .passed ∧
      ((checkedValues clashImage (.node 63)).bind parseNode).map (fun n => (n.enable, n.address)) = some (true, 1) ∧
      factoryDevice.ownAddress = 1 ∧ (checkedValues clashImage (.dose 255)).bind parseDose = none ∧
      ((checkedValues clashImage (.object 255)).bind parseObject).map Obj.enable = some true := by decide +kernel

/-- Dose records with which a load finds the budget spent, and too little of it left for the minutes that remain. -/
theorem test_witness_ResetLoadsRecords_ceilings :
    let dosed := fun (d r : Nat) => { factoryObject with enable := true, cfloor := 30, cmax := 80, dose := d, remaining := r }
    let s := (withObject 255 (dosed 50000 0)).modObject 254 fun _ => dosed 49000 10000
    let image := ([RecordId.object 254, .object 255, .dose 254, .dose 255]).foldl
      (fun m r => storeWriteAll m (recordAddress r) (recordOctets s none r)) []
    ([254, 255]).map (fun i => ((checkedValues image (.object i)).bind parseObject).map Obj.enable) =
        [some true, some true] ∧
      ([254, 255]).map (fun i => ((checkedValues image (.dose i)).bind parseDose).map (·.dose)) =
        [some 49000, some 50000] ∧
      (pacedCeiling (dosed 50000 0)).exhausted = true ∧ (pacedCeiling (dosed 49000 10000)).paceShort = true := by
  decide +kernel

/-- Both settings of the gallery port, an enabled zone, and a load that is over. -/
theorem test_witness_LoadEndStartsThePart :
    State.reset.loading = true ∧ State.reset.device.galleryEnable = true ∧ State.reset.line = .off ∧
      ((State.reset.modZone 23 fun z => { z with enable := true }).zone 23).enable = true ∧
      ({ State.reset.device with galleryEnable := false }).galleryEnable = false ∧ live.loading = false := by
  decide +kernel

/-! ### The ports -/

/-- A port that is off; HUNT; COLLECT with a gap timer that runs and one that does not, with the length octets 48 and 49,
with a frame unfinished, and with one finished. -/
theorem test_witness_AssemblerTakesCharacters :
    receiving State.reset .plant = false ∧ receiving live .plant = true ∧ assemblerOf live .plant = .hunt ∧
      assemblerOf { live with plantAsm := .collect [1, 2, 3, 4] (some 9) } .plant = .collect [1, 2, 3, 4] (some 9) ∧
      assemblerOf { live with plantAsm := .collect [1, 2, 3, 4] none } .plant = .collect [1, 2, 3, 4] none ∧
      ¬(48 < (48 : Byte).toNat) ∧ 48 < (49 : Byte).toNat ∧ frameOfOctets [1, 2, 3, 4, 48] = none ∧
      frameOfOctets ([1, 2, 3, 4, 0, 5] ++ [6]) = some ⟨1, 2, 3, 4, [], 0x0506⟩ := by decide +kernel

/-- Payloads at the ends of what each kind may carry, and one past them; frames for the part, for broadcast and for others. -/
theorem test_witness_AssemblerTakesCharacters_frames :
    let g := fun kind payload => frameGood .gallery 1 (buildFrame 127 126 kind 0 payload)
    let p := fun dest kind payload => frameGood .plant 1 (buildFrame dest 126 kind 0 payload)
    ([[7, 0x43, 0, 0], [8, 0x43, 0, 0], [7, 0x53, 0, 0], [7, 0x03, 0, 0], [7, 0x44, 0, 0], [7, 0x43, 0], []]).map (g 0x21) =
        [true, false, false, false, false, false, false] ∧
      ([16, 15]).map (fun n => g 0x22 (List.replicate n 0)) = [true, false] ∧
      ([[3, 3, 232], [3, 3, 233], [4, 3, 232], [3, 3], []]).map (g 0x23) = [true, false, false, false, false] ∧
      ([6, 5]).map (fun n => p 1 0x40 (List.replicate n 0)) = [true, false] ∧
      ([0, 1]).map (fun n => p 1 0x41 (List.replicate n 0)) = [true, false] ∧
      ([[3, 0, 0, 60], [3, 0, 0, 61], [4, 0, 0, 60], [3, 0, 0]]).map (p 2 0x30) = [true, false, false, false] ∧
      p 1 0x30 [4] = true ∧ p 0 0x66 [] = false ∧ p 128 0x66 [] = false ∧ p 127 0x66 [] = true ∧
      (frameEvent .plant 1 (buildFrame 1 2 0x41 0 []) = .presence (buildFrame 1 2 0x41 0 [])) ∧
      (frameEvent .plant 1 (clockFrame 127 2024 1 0) = .clock (clockFrame 127 2024 1 0)) ∧
      (frameEvent .plant 1 (buildFrame 5 2 0x41 0 []) = .plantFrame (buildFrame 5 2 0x41 0 []) 1) ∧
      (frameEvent .plant 1 (buildFrame 1 2 0x50 0 []) = .plantFrame (buildFrame 1 2 0x50 0 []) 1) := by decide +kernel

theorem test_witness_MarkerRestartsFrame :
    receiving { live with galleryAsm := .collect [127, 14] (some 3) } .gallery = true ∧
      assemblerOf { live with galleryAsm := .collect [127, 14] (some 3) } .gallery = .collect [127, 14] (some 3) ∧
      (⟨127, true, true⟩ : Character).marker = true := by decide +kernel

def originFrame : OriginFrame := ⟨52, kindTrim, [1], .trim 23⟩

def sending (s : State) : State := { s with plantTx := some ⟨sample, .g2p, false, 0⟩ }

def transaction (kind : TransactionKind) (awaited accepts : Option Byte) (phase : TransactionPhase) : Transaction :=
  ⟨kind, sample, awaited, accepts, phase, []⟩

def onLine (t : Transaction) (s : State) : State := { s with line := .busy t }

/-- The longest payload; the first and the last character of a frame; each port sending a frame. -/
theorem test_witness_FrameCompletesAtItsCheck :
    let cs := charactersOf (frameOctets sample)
    let tr := transaction .forward none none (.sending 5)
    (buildFrame 1 2 kindService 0 (List.replicate 48 0)).payload.length ≤ 48 ∧
      cs[0]? = some ⟨127, true, true⟩ ∧ (cs[10]?).map Character.marker = some false ∧ cs[11]? = none ∧
      (onLine tr live).line = .busy tr ∧ tr.phase = .sending 5 ∧
      (sending live).plantTx = some ⟨sample, .g2p, false, 0⟩ := by decide +kernel

/-- Readings and entries at the ends of their fields, and payloads of each length that a kind may ask for. -/
theorem test_witness_FrameCompletesAtItsCheck_payloads :
    (7 : Byte).toNat ≤ 7 ∧ (3 : Byte).toNat ≤ 3 ∧
      ([0x10, 0x43, 0x00, 0x50]).map (fun c : Byte =>
        [none, some Quantity.illum, some .uvr, some .temp, some .rh][c.toNat / 16]?) =
        [some (some .illum), some (some .rh), some none, none] ∧
      ([0x10, 0x43]).map (fun c : Byte => [Quality.good, .over, .under, .fault][c.toNat % 16]?) =
        [some .good, some .fault] ∧
      ((0x03 : Byte) ++ (0xE8 : Byte) : Half).toNat ≤ 1000 ∧
      readingsOf [7, 0x43, 0x12, 0x34, 0, 0x10, 0, 1] = some [⟨7, .rh, .fault, 0x1234⟩, ⟨0, .illum, .good, 1⟩] ∧
      echoEntriesOf [3, 3, 232, 0, 0, 0] = some [⟨3, 1000⟩, ⟨0, 0⟩] ∧
      levelOf [1, 3, 232, 60] = some ⟨1, 1000, 60⟩ ∧ levelOf [1, 3, 232] = none ∧ clockOf [7, 232, 0, 1, 0] = none ∧
      (List.replicate 16 (0 : Byte)).length = 16 := by decide +kernel

/-- Empty queues; G2P alone and by its turn; plant origin alone and by its turn. -/
theorem test_witness_ArbiterTakesByTurn :
    (sending live).plantTx = some ⟨sample, .g2p, false, 0⟩ ∧ (sending live).g2p = [] ∧
      (sending live).plantOrigin = [] ∧ (sending live).turn = .origin ∧
      ({ sending live with g2p := [sample] }).g2p = sample :: [] ∧
      ({ sending live with plantOrigin := [originFrame], turn := .g2p }).plantOrigin = originFrame :: [] := by
  decide +kernel

/-- A SERVICE, another kind and a PRESENCE for the own address, a PRESENCE for broadcast, and frames for others. -/
theorem test_witness_PlantFrameIsDispatched :
    frameGood .plant 1 (buildFrame 1 2 kindService 0 []) = true ∧ frameGood .plant 1 (buildFrame 1 2 0x66 0 []) = true ∧
      frameGood .plant 1 (buildFrame 1 2 kindPresence 0 []) = true ∧
      frameGood .plant 1 (buildFrame 127 2 kindPresence 0 []) = true ∧ frameGood .plant 1 (level 1000) = true ∧
      frameGood .plant 1 (clockFrame 1 2024 1 0) = true ∧ frameGood .plant 1 (clockFrame 127 2024 1 0) = true ∧
      frameGood .plant 1 (buildFrame 127 2 0x66 0 []) = true ∧ portOn State.reset .gallery = false ∧
      portOn live .gallery = true ∧ live.p2g.length < 8 ∧ live.line = .free ∧
      8 ≤ ({ live with p2g := List.replicate 8 sample }).p2g.length ∧
      ({ live with p2g := List.replicate 7 sample, line := .turnaround 3 }).line ≠ .free := by decide +kernel

/-- A READ that fills the reply and one that does not fit; a CALL refused and one accepted; a table number too high; cursor
parts whole and cut off; the counts 0, 1, 16 and 17; values, procedures and arguments that are there and that are not. -/
theorem test_witness_PlantFrameIsDispatched_request :
    (let w : Work := ⟨live, List.replicate 13 0, false, false, false⟩
     let octets := 1 + w.results.length + (1 + 2 * 16)
     ¬48 < octets + 1 ∧ 48 < octets + 2 ∧ judgeCall live (.rehunt 63) = some .refError ∧
       judgeCall live .clearLatched = none) ∧
    tableNumber .counter = (7 : Byte).toNat ∧ 8 ≤ (8 : Byte).toNat ∧ (0x60 : Byte).toNat / 32 % 2 = 1 ∧
      (0x60 : Byte).toNat / 64 = 1 ∧ (0x3F : Byte).toNat / 64 = 0 ∧ (0x80 : Byte).toNat / 64 = 2 ∧
      (0xC0 : Byte).toNat / 64 = 3 ∧
    ([0, 1, 16, 17]).map (fun n => elementsOf [0x40, 7, n]) =
      [[none], [some (.read .counter none .stay 1)], [some (.read .counter none .stay 16)], [none]] ∧
    ([[0x60, 7], [0x60, 7, 0, 0], [0x40, 8, 1], [0x80, 7, 1, 0], [0xC0, 7, 1], [0xC0, 7, 1, 7], [0xC0, 7, 1, 5, 0],
      [0xC0, 7, 1, 3, 0]]).all (fun bs => elementsOf bs == [none]) = true ∧
    elementsOf [0xC0, 7, 1, 5, 0, 9, 0xE0, 7, 1, 2, 3, 1, 6] =
      [some (.call .counter none (.capClear 9)), some (.call .counter (some ⟨0x0102, 3⟩) .clearLatched)] := by
  decide +kernel

/-- A port that is off; a TRIM that waits; 24 and 23 frames that wait; 16 and 15 in G2P, and a free transmitter. -/
theorem test_witness_OfferToPlantOrigin :
    (∃ w ∈ ({ sending live with plantOrigin := [originFrame] }).plantOrigin, ∃ z,
        originFrame.tag = .trim z ∧ w.tag = .trim z) ∧
      (sending live).plantTx ≠ none ∧ originFrame.tag ≠ .reply true ∧ portOn (sending State.reset) .plant = false ∧
      portOn (sending live) .plant = true ∧
      (∀ w ∈ List.replicate 24 { originFrame with tag := OriginTag.condition }, w.tag ≠ .trim 23) ∧
      24 ≤ (List.replicate 24 originFrame).length ∧ (List.replicate 23 originFrame).length < 24 ∧
      16 ≤ ({ sending live with g2p := List.replicate 16 sample }).g2p.length ∧
      ({ sending live with g2p := List.replicate 15 sample }).g2p.length < 16 ∧
      portOn live .plant = true ∧ live.g2p = [] ∧ live.plantOrigin = [] ∧ live.plantTx = none :=
  ⟨⟨originFrame, List.mem_singleton.2 rfl, 23, rfl, rfl⟩, by decide +kernel⟩

/-- The reply of a RESTART that the port discards, where it is waited for and where it is not; and a frame that a free
transmitter takes at once. -/
theorem test_witness_OfferToPlantOrigin_restart :
    let reply : OriginFrame := ⟨2, kindServiceReply, [0, 10], .reply true⟩
    let waits := { live with procedure := { live.procedure with restart := .awaitingReply } }
    reply.tag = .reply true ∧ waits.procedure.restart = .awaitingReply ∧ live.procedure.restart ≠ .awaitingReply ∧
      portOn State.reset .plant = false ∧ (∀ z, reply.tag ≠ .trim z) ∧
      portOn live .plant = true ∧ live.plantOrigin = [] ∧ live.g2p = [] ∧ live.plantTx = none ∧
      (offerOrigin originFrame live).plantTx.map (·.frame) = some (buildFrame 52 1 kindTrim 0 [1]) :=
  ⟨rfl, rfl, by decide, by decide +kernel, fun z => by simp, by decide +kernel, rfl, rfl, rfl, by decide +kernel⟩

/-! ### The gallery line -/

theorem test_witness_TransmissionOpensWindow :
    let a := transaction .forward none none (.sending 5)
    let b := transaction .forward (some 14) none (.sending 5)
    (onLine a live).line = .busy a ∧ a.phase = .sending 5 ∧ a.awaited = none ∧ b.awaited ≠ none := by decide +kernel

/-- POLL_DUE on the FREE line, and TURNAROUND_END, with every class empty. -/
theorem test_witness_GrantFollowsTheCycle :
    makesGrant .pollDue live (taken .pollDue live) ∧ chosenClass (taken .pollDue live) = none ∧
      makesGrant .turnaroundEnd { live with line := .turnaround 7 }
        { taken .turnaroundEnd { live with line := .turnaround 7 } with line := .free } :=
  ⟨.inl ⟨rfl, rfl, rfl⟩, by decide +kernel, .inr ⟨rfl, ⟨7, rfl⟩, rfl⟩⟩

theorem test_witness_PollGrantSendsPoll :
    let s := { withNode 63 onlineNode with pollList := [⟨63, 0⟩] }
    makesGrant .pollDue s (taken .pollDue s) ∧ chosenClass (taken .pollDue s) = some .poll ∧
      s.pollList = ⟨63, 0⟩ :: [] :=
  ⟨.inl ⟨rfl, rfl, rfl⟩, by decide +kernel, rfl⟩

/-- A node that can be reached, and one that cannot. -/
theorem test_witness_CommandGrantSendsOrIsVoid :
    let s := { withNode 0 { onlineNode with role := .actuator } with galleryOrigin := [47] }
    let v := { live with galleryOrigin := [47] }
    makesGrant .pollDue s (taken .pollDue s) ∧ makesGrant .pollDue v (taken .pollDue v) ∧
      chosenClass (taken .pollDue s) = some .command ∧ s.galleryOrigin = 47 :: [] ∧
      nodeReachable s (s.group 47).node = true ∧ v.pointer = .command ∧ v.galleryOrigin = [47] ∧ v.p2g = [] ∧
      pollHeadDue v = false ∧ nodeReachable v (v.group 47).node = false ∧
      (v.zone (v.group 47).zone).evalPending = false :=
  ⟨.inl ⟨rfl, rfl, rfl⟩, .inl ⟨rfl, rfl, rfl⟩, by decide +kernel⟩

/-- A group whose node cannot be reached at the head of the queue: not yet silent, and silent already; an evaluation pending
in its zone at rest and not. -/
theorem test_witness_CommandGrantSendsOrIsVoid_declined :
    let s := { withGroup 47 { factoryGroup with enable := true, zone := 23, misses := 2 } with galleryOrigin := [47, 46] }
    let waits := s.modZone 23 fun z => { z with evalPending := true }
    let busy := waits.modGroup 46 fun g => { g with enable := true, zone := 23, phase := .queued }
    chosenClass (taken .pollDue s) = some .command ∧ s.galleryOrigin = 47 :: [46] ∧
      nodeReachable s (s.group 47).node = false ∧ (s.group 47).unavailable = false ∧ (s.group 47).misses < 3 ∧
      ¬(({ s.group 47 with misses := 3 }).misses < 3) ∧ (s.zone 23).evalPending = false ∧
      (waits.zone 23).evalPending = true ∧ chosenClass (taken .pollDue busy) = some .command ∧
      (busy.group 46).enable = true ∧ (busy.group 46).zone = 23 ∧ (busy.group 46).phase ≠ .idle ∧
      nodeReachable (withNode 0 (nodeAt 14 .displaced)) 0 = false := by decide +kernel

/-- A live part with group 47 enabled on channel 1 of the actuator at address 40. -/
def reachedState : State :=
  (withNode 63 { onlineNode with address := 40, role := .actuator }).modGroup 47 fun g =>
    { g with enable := true, node := 63, channel := 1 }

/-- A LEVEL that reaches no group, and a frame that is no LEVEL; a LEVEL that is presented, and one that is declined. -/
theorem test_witness_ForwardGrantSendsFrame :
    let s := { live with p2g := [level 1000], pointer := .forward }
    let r := { reachedState with p2g := [level 1000], pointer := .forward }
    let v := { taken .pollDue r with pointer := .poll, p2g := [] }
    makesGrant .pollDue s (taken .pollDue s) ∧ (level 1000).kind = kindLevel ∧ r.p2g = level 1000 :: [] ∧
      chosenClass (taken .pollDue r) = some .forward ∧ (presentLevel (level 1000) v).2.isSome = true ∧
      (presentLevel { level 1000 with dest := broadcast } v).2 = none ∧ chosenClass (taken .pollDue s) = some .forward ∧
      levelOf (level 1000).payload = some ⟨1, 1000, 10⟩ ∧ groupsReached s (level 1000).dest 1 = [] ∧
      channelBound s 1 = false ∧ sample.kind ≠ kindLevel :=
  ⟨.inl ⟨rfl, rfl, rfl⟩, by decide +kernel⟩

theorem test_witness_WindowExpiryIsAMiss :
    let t := fun k => transaction k (some 14) none (.window 5)
    let s := (withNode 63 onlineNode).modGroup 47 fun g => { g with enable := true, node := 63, phase := .sent }
    (onLine (t (.command 47 63)) s).line = .busy (t (.command 47 63)) ∧ (t .forward).kind = .forward ∧
      (t (.poll 63)).kind = .poll 63 ∧ (s.node 63).enable = true ∧ (s.group 47).enable = true ∧
      (s.group 47).phase = .sent ∧ (s.zone (s.group 47).zone).evalPending = false ∧
      (∀ x ∈ live.pollList, x.node ≠ 63) ∧
      ([⟨0, 3⟩, ⟨63, 4⟩] : List PollEntry).find? (fun x => x.node == 63) = some ⟨63, 4⟩ := by decide +kernel

/-- A miss below the silence threshold and one that reaches it, of an ONLINE node and of another, and of a disabled one; a
group at its second and at its third miss, and one that was not SENT; a pending evaluation of a zone at rest and not. -/
theorem test_witness_WindowExpiryIsAMiss_silent :
    let nd := fun k => min 255 (({ onlineNode with misses := k }).misses + 1)
    let s := withGroup 47 { factoryGroup with enable := true, zone := 23, phase := .sent, misses := 2 }
    let waits := s.modZone 23 fun z => { z with evalPending := true }
    let busy := waits.modGroup 46 fun g => { g with enable := true, zone := 23, phase := .queued }
    live.device.silenceThreshold ≤ nd (live.device.silenceThreshold - 1) ∧
      ¬live.device.silenceThreshold ≤ nd (live.device.silenceThreshold - 2) ∧ nd 255 = 255 ∧
      onlineNode.state = .online ∧ (nodeAt 14 .silent).state ≠ .online ∧ (live.node 63).enable = false ∧
      (s.group 47).enable = true ∧ (s.group 47).phase = .sent ∧ (s.group 47).unavailable = false ∧
      (s.group 47).misses = 2 ∧ ({ s.group 47 with misses := 1 }).misses ≠ 2 ∧ (live.group 47).enable = false ∧
      ({ s.group 47 with phase := .idle }).phase ≠ .sent ∧ (s.zone 23).evalPending = false ∧
      (waits.zone 23).evalPending = true ∧
      (∀ h < 48, h ≠ 47 → (waits.group h).enable = true → (waits.group h).zone = 23 → (waits.group h).phase = .idle) ∧
      (busy.group 46).enable = true ∧ (busy.group 46).zone = 23 ∧ (busy.group 46).phase ≠ .idle := by decide +kernel

/-- FREE, TURNAROUND, a window for another address, and SENDING. -/
theorem test_witness_StrayIsCountedAndDiscarded :
    frameGood .gallery (ownOctet live) sample = true ∧ live.line = .free ∧
      ({ live with line := .turnaround 4 }).line = .turnaround 4 ∧
      (transaction .forward (some 15) none (.window 5)).awaited ≠ some sample.src ∧
      (transaction .forward none none (.sending 5)).phase = .sending 5 ∧ .galleryFrame sample ∉ live.handed := by
  decide +kernel

/-- An ECHO of the actuator at address 40 that says `l` for channel `ch`. -/
def echo (ch : Byte) (l : Nat) : Frame := buildFrame 127 40 kindEcho 9 (ch :: octetsOf (halfOfNat l))

/-- Replies of each kind of transaction, from a node that is known or not; a SAMPLE that is consumed and one that is
not. -/
theorem test_witness_RepliesReachNodeOrPlant :
    let s := withNode 63 onlineNode
    let quiet := s.modPoint 191 fun p => { p with enable := true, node := 63, forward := false }
    frameGood .gallery (ownOctet s) sample = true ∧
      (transaction (.poll 63) (some 14) (some kindSample) (.window 5)).accepts = some sample.kind ∧
      nodeOfSrc s sample.src = some 63 ∧ (s.node 63).state ≠ .absent ∧
      (transaction .forward (some 14) none (.window 5)).awaited = some sample.src ∧ nodeOfSrc live sample.src = none ∧
      sample.kind ≠ kindEcho ∧ sample.dest = broadcast ∧ forwardOff quiet 63 = true ∧ forwardOff s 63 = false := by
  decide +kernel

/-- A window for the frame, one for another and none; a frame that waits and was noted, one that was not, and one that does
not wait; SENDING and OFF. -/
theorem test_witness_RepliesReachNodeOrPlant_arrival :
    let t := transaction (.poll 63) (some 14) (some kindSample) (.window 5)
    let waits := { live with handed := [.galleryFrame sample] }
    (onLine t live).line = .busy t ∧ t.awaited = some sample.src ∧ (onLine { t with awaited := some 15 } live).line ≠ .free ∧
      live.line = .free ∧ .galleryFrame sample ∈ waits.handed ∧ .galleryFrame sample ∉ live.handed ∧
      sample ∈ ({ t with answers := [sample] }).answers ∧ sample ∉ t.answers ∧
      (transaction .forward none none (.sending 5)).phase = .sending 5 ∧ State.reset.line = .off ∧
      frameGood .gallery (ownOctet live) sample = true := by decide +kernel

/-- An ECHO for the group and one for another channel, one that may not be used, and levels 20 and 21 apart. -/
theorem test_witness_RepliesReachNodeOrPlant_echo :
    let r := reachedState.modGroup 47 fun g => { g with phase := .sent, level := 300 }
    frameGood .gallery (ownOctet r) (echo 1 321) = true ∧ (echo 1 321).kind = kindEcho ∧
      echoEntries (echo 1 321) = [] ++ ⟨1, 321⟩ :: [] ∧ (r.group 47).channel = 1 ∧ (r.group 47).phase = .sent ∧
      nodeOfSrc r (echo 1 321).src = some 63 ∧ (r.node 63).state ≠ .displaced ∧
      (echo 1 321).seq ≠ (r.node 63).lastSeq ∧ 20 < 321 - (r.group 47).level ∧ ¬20 < 320 - (r.group 47).level ∧
      (∀ x ∈ echoEntries (echo 2 300), x.channel ≠ (r.group 47).channel) ∧
      (∀ h < 48, (r.group h).enable = true → (r.group h).node = 63 → (r.group h).channel ≠ 2) ∧
      (r.zone (r.group 47).zone).evalPending = false ∧
      ((r.modNode 63 fun n => { n with state := .displaced }).node 63).state = .displaced ∧
      echoGroups r (some 63) 40 1 = [47] ∧
      echoGroups (r.modNode 63 fun n => { n with enable := false }) none 40 1 = [47] := by
  decide +kernel

/-- An entry on a bound channel and on another, in each phase that is tested or not, 20 and 21 off, with MISMATCH set and
clear, and misses of 2 and 3; a reply that may be used, one of a DISPLACED node and a duplicate; ECHOs of two entries. -/
theorem test_witness_RepliesReachNodeOrPlant_entries :
    let r := reachedState.modGroup 47 fun g => { g with phase := .idle, level := 300, misses := 3 }
    let t := transaction (.poll 63) (some 40) (some kindEcho) (.window 5)
    let two := buildFrame 127 40 kindEcho 6 ((echo 1 321).payload ++ (echo 2 0).payload ++ (echo 1 320).payload)
    t.kind = .poll 63 ∧ t.accepts = some kindEcho ∧ t.awaited = some two.src ∧ nodeOfSrc r two.src = some 63 ∧
      frameGood .gallery (ownOctet r) two = true ∧
      groupOnChannel r 63 1 = some 47 ∧ groupOnChannel r 63 2 = none ∧ (r.group 47).phase = .idle ∧
      (r.group 47).mismatch = false ∧ (r.group 47).unavailable = false ∧ 3 ≤ (r.group 47).misses ∧
      ([CommandPhase.queued, .settling 0]).map (fun p => ((r.modGroup 47 fun g => { g with phase := p }).group 47).phase) =
        [.queued, .settling 0] ∧
      ((r.modGroup 47 fun g => { g with mismatch := true }).group 47).mismatch = true ∧
      20 < 321 - (r.group 47).level ∧ ¬20 < 320 - (r.group 47).level ∧
      (echoEntries two).filter (fun x => groupOnChannel r 63 x.channel = some 47) = [⟨1, 321⟩, ⟨1, 320⟩] ∧
      (echoEntries two).filter (fun x => groupOnChannel r 63 x.channel = some 46) = [] ∧
      (echoEntries two).filter (fun x => 47 ∈ echoGroups r (some 63) 40 x.channel) = [⟨1, 321⟩, ⟨1, 320⟩] ∧
      (r.node 63).state ≠ .displaced ∧ two.seq ≠ (r.node 63).lastSeq ∧
      ((r.modNode 63 fun n => { n with lastSeq := 6, state := .online }).node 63).lastSeq = two.seq := by decide +kernel

/-- Entries for the own channel, twice, once and never; a group that is not SENT; a SAMPLE whose readings are used; replies
that answer no COMMAND, of a sender with a node entry and of one with none. -/
theorem test_witness_RepliesReachNodeOrPlant_own :
    let r := reachedState.modGroup 47 fun g => { g with phase := .sent, level := 300, misses := 3 }
    let s := withNode 63 onlineNode
    let twice : List EchoEntry := [⟨1, 0⟩, ⟨2, 5⟩, ⟨1, 321⟩, ⟨0, 5⟩]
    (r.group 47).enable = true ∧ (r.group 47).phase = .sent ∧ (r.group 47).channel = 1 ∧ (r.group 47).misses = 3 ∧
      (r.group 47).unavailable = false ∧ (r.group 47).mismatch = false ∧
      twice = [⟨1, 0⟩, ⟨2, 5⟩] ++ ⟨1, 321⟩ :: [⟨0, 5⟩] ∧ (∀ y ∈ [(⟨0, 5⟩ : EchoEntry)], y.channel ≠ (r.group 47).channel) ∧
      (∀ x ∈ [(⟨0, 5⟩ : EchoEntry), ⟨2, 5⟩], x.channel ≠ (r.group 47).channel) ∧
      20 < 321 - (r.group 47).level ∧ 20 < (r.group 47).level - 279 ∧ ¬20 < 320 - (r.group 47).level ∧
      (reachedState.group 47).phase ≠ .sent ∧ (live.group 47).enable = false ∧
      groupOnChannel r 63 1 = some 47 ∧ groupOnChannel r 63 2 ≠ some 47 ∧
      nodeOfSrc s sample.src = some 63 ∧ (judgeReply sample s).2.readingsUsed = true ∧
      nodeOfSrc live sample.src = none ∧ (judgeReply sample live).2.node = none ∧
      TransactionKind.poll 63 ≠ .forward ∧ (level 1000).kind = kindLevel ∧ sample.kind ≠ kindLevel := by
  decide +kernel

/-- A bound broadcast, and a group reached while UNATTENDED with REVERT, and while ATTENDED; caps removed and raised. -/
theorem test_witness_ForwardedLevelIsLimited :
    let s := reachedState
    let capped := s.modGroup 47 fun g => { g with cap := some 999 }
    groupsReached capped (level 1000).dest 1 = [47] ∧ (capped.group 47).cap = some 999 ∧
      levelOf (level 1000).payload = some ⟨1, 1000, 10⟩ ∧ (capped.group 47).zone < 24 ∧ 998 < (999 : Nat) ∧
    levelOf (level 65535).payload = some ⟨1, 65535, 10⟩ ∧ groupsReached s (level 65535).dest 1 = [47] ∧
      channelBound s 1 = true ∧ s.supervision.attended = true ∧ s.device.supervisionAction = .hold ∧
      ({ s.supervision with attended := false }).attended = false ∧
      ({ s.device with supervisionAction := .revert }).supervisionAction = .revert := by decide +kernel

/-! ### Nodes and points -/

/-- The gaps 0, 1, 16 and 17 in ONLINE; and a node in each state that a taken frame leads from. -/
theorem test_witness_FramesJudgeContinuityAndState :
    ([5, 4, 245, 244] : List Byte).map (fun last => (sample.seq - last).toNat) = [0, 1, 16, 17] ∧
      ([.online, .hunting, .tagcheck, .silent, .displaced]).map
        (fun st => ((withNode 63 (nodeAt 14 st)).node 63).state) = [.online, .hunting, .tagcheck, .silent, .displaced] ∧
      sample.kind ≠ kindTag ∧ ({ onlineNode with tagCheck := true }).tagCheck = true ∧
      (buildFrame 127 14 kindTag 6 (List.replicate 16 0)).kind = kindTag := by decide +kernel

/-- Runs of two and three frames; tag check on and off; a TAG that agrees and one that does not; and a node back from
DISPLACED whose groups had misses of 2 and 3. -/
theorem test_witness_FramesJudgeContinuityAndState_runs :
    let hunting := fun last run tags => { nodeAt 14 .hunting with lastSeq := last, runLength := run, tagCheck := tags }
    let tag := buildFrame 127 14 kindTag 5 (List.replicate 16 0)
    let state := fun nd f => ((takeFrame 63 f (withNode 63 nd)).node 63).state
    ([hunting 4 1 false, hunting 4 2 false, hunting 4 2 true, hunting 3 2 false]).map (fun nd => state nd sample) =
        [.hunting, .online, .tagcheck, .hunting] ∧
      tagOf tag.payload = onlineNode.expectedTag ∧ tag.kind = kindTag ∧
      tagOf tag.payload ≠ onlineNode.expectedTag.set 7 1 ∧
      ([onlineNode.expectedTag, onlineNode.expectedTag.set 7 1]).map (fun x =>
        state { nodeAt 14 .tagcheck with tagCheck := true, expectedTag := x } tag) = [.online, .displaced] ∧
      (nodeAt 14 .absent).state = .absent ∧
      (let s := fun k => withGroup 47 { factoryGroup with enable := true, node := 63, unavailable := true, misses := k }
       (((s 2).group 47).misses < 3 ∧ ¬((s 3).group 47).misses < 3 ∧ ((s 2).group 47).unavailable = true)) := by
  decide +kernel

def spikePoint : Point := { factoryPoint with quantity := .rh, zone := 23, value := 5000, accepted := true, age := 30 }

def spikeState (pending : Option Int) : State :=
  (withPoint 191 { spikePoint with pending := pending }).modZone 23 fun z => { z with rh := { z.rh with spike := 1 } }

/-- None pending and a reading at the limit and past it; one pending and readings near it, near the value, near
neither. -/
theorem test_witness_ReadingsReachTheirPoint :
    let near := fun a b : Int => decide (a - b ≤ 1 ∧ b - a ≤ 1)
    ((spikeState none).point 191).pending = none ∧ ((spikeState none).point 191).accepted = true ∧
      ((spikeState none).point 191).quantity = .rh ∧
      spikeLimit (spikeState none) ((spikeState none).point 191) = 1 ∧
      near (readingValue ⟨0, .rh, .good, 5001⟩) 5000 = true ∧ near (readingValue ⟨0, .rh, .good, 5002⟩) 5000 = false ∧
      ((spikeState (some 6000)).point 191).pending = some 6000 ∧
      near (readingValue ⟨0, .rh, .good, 5999⟩) 6000 = true ∧ near (readingValue ⟨0, .rh, .good, 4999⟩) 5000 = true ∧
      near (readingValue ⟨0, .rh, .good, 5998⟩) 6000 = false := by decide +kernel

/-- A channel that is bound and one that is not, a reading of another quantity, a FAULT; every quality; no spike limit, and
nothing accepted yet. -/
theorem test_witness_ReadingsReachTheirPoint_taken :
    let s := (spikeState none).modPoint 191 fun p => { p with enable := true, node := 63, channel := 7 }
    let bound := fun (ch i : Nat) => (s.point i).enable && (s.point i).node == 63 && (s.point i).channel == ch
    (List.range 192).filter (bound 7) = [191] ∧ (List.range 192).filter (bound 6) = [] ∧
      Quantity.temp ≠ (s.point 191).quantity ∧ Quantity.rh = (s.point 191).quantity ∧
      [Quality.good, .over, .under].map (fun q => readingValue ⟨7, .rh, q, 10001⟩) = [10000, 10000, 0] ∧
      sentValue .rh 10001 = 10001 ∧ readingValue ⟨7, .temp, .good, 0x8000⟩ = -4000 ∧
      spikeLimit s { s.point 191 with quantity := .illum } = 0 ∧
      ({ s.point 191 with accepted := false }).accepted = false ∧ (s.point 191).pending = none := by decide +kernel

/-! ### Calendar and minute tick -/

/-- Before and at midnight, at a year's end, at the end of 2199, and the same while UNSET. -/
theorem test_witness_TickAdvancesTheCalendar :
    noRollsHanded live ∧
      (let c : Calendar := ⟨true, 2025, 364, 1438, 0, 0, 59, 9⟩;
        c.isSet = true ∧ c.minute + 1 < 1440 ∧ ¬(c.minute + 1 + 1 < 1440) ∧ c.day + 1 ≤ yearLength c.year) ∧
      (let c : Calendar := ⟨true, 2025, 365, 1439, 0, 0, 59, 9⟩;
        1440 ≤ c.minute + 1 ∧ yearLength c.year < c.day + 1 ∧ c.year < 2199) ∧
      (let c : Calendar := ⟨true, 2199, 365, 1439, 0, 0, 59, 9⟩;
        yearLength c.year < c.day + 1 ∧ c.year = 2199 ∧ 364 + 1 ≤ yearLength c.year) ∧
      live.calendar.isSet = false ∧ live.calendar.localMinute + 1 < 1440 ∧
      1440 ≤ ({ live.calendar with localMinute := 1439 }).localMinute + 1 :=
  ⟨fun c hc => by simp [live, State.reset] at hc, by decide +kernel⟩

/-- An enabled object with no roll outstanding; the first and the last open minute, the minutes beside them, and hours
past midnight. -/
theorem test_witness_TickAccruesTheMinute :
    let within := fun (z : Zone) (m : Nat) => decide (z.openFrom < z.openTo ∧ z.openFrom ≤ m ∧ m < z.openTo ∨
      z.openTo < z.openFrom ∧ (z.openFrom ≤ m ∨ m < z.openTo))
    ((withObject 255 { factoryObject with enable := true }).object 255).enable = true ∧
      (withObject 255 { factoryObject with enable := true }).handed = [] ∧
      ([599, 600, 1079, 1080]).map (within factoryZone) = [false, true, true, false] ∧
      within { factoryZone with openFrom := 1200 } 1079 = true ∧
      within { factoryZone with openFrom := 1080 } 1080 = false := by decide +kernel

/-- An object that is disabled; the over-ceiling threshold reached, by its marker; a ceiling that stays and one that
changes. -/
theorem test_witness_TickAccruesTheMinute_ceiling :
    let o : Obj := { factoryObject with
      enable := true, ceiling := 50, overThreshold := 2, overMinutes := 1, remaining := 120000, lightPoint := 191 }
    let s := (withObject 255 o).modPoint 191 fun p => { p with value := 51, state := .fresh }
    (s.object 255).enable = true ∧ (live.object 255).enable = false ∧ o.ceiling < (s.point 191).value.toNat ∧
      o.overThreshold ≤ min 65535 (o.overMinutes + 1) ∧ o.overMarker = false ∧
      (({ o with overMinutes := 0 }).overMinutes + 1 < o.overThreshold) ∧
      (pacedCeiling { o with remaining := 0 }).ceiling = o.ceiling ∧ (pacedCeiling o).ceiling ≠ o.ceiling := by
  decide +kernel

/-- Payloads that are bad by length, year, day and minute; the good ones at the ends; and the differences 2 and 3. -/
theorem test_witness_ClockIsCheckedAndAdopted :
    ({ live with handed := [.clock sample] }).handed = [.clock sample] ∧ isRoll (.clock sample) = false ∧
      live.calendar.isSet = false ∧
      ((withObject 255 { factoryObject with enable := true, startDay := 1, lastRoll := 2198 }).object 255).lastRoll + 1 =
        2199 ∧
    clockOf [7, 208, 0, 1, 0] = none ∧ clockOf (clockFrame 1 1999 1 0).payload = some ⟨1999, 1, 0⟩ ∧
      clockOf (clockFrame 1 2025 366 0).payload = some ⟨2025, 366, 0⟩ ∧ yearLength 2025 = 365 ∧
      clockOf (clockFrame 1 2000 1 1440).payload = some ⟨2000, 1, 1440⟩ ∧
      clockOf (clockFrame 127 2199 365 1439).payload = some ⟨2199, 365, 1439⟩ ∧
      (let c : Calendar := ⟨true, 2024, 61, 57, 0, 0, 0, 0⟩;
        clockDifference c ⟨2024, 61, 59⟩ = 2 ∧ clockDifference c ⟨2024, 61, 60⟩ = 3 ∧ c.minute / 60 ≠ 60 / 60 ∧
          clockDifference { c with minute := 56 } ⟨2024, 61, 59⟩ = 3 ∧
          clockDifference { c with minute := 1437 } ⟨2024, 62, 0⟩ = 3) := by decide +kernel

/-- A zone whose mode the judgement changes, one that it leaves, and a disabled one; P2G with room for one
frame, and full; the gallery port off. -/
theorem test_witness_ClockIsCheckedAndAdopted_modes :
    let s := withZone 23 { factoryZone with enable := true, mode := .opened }
    (s.zone 23).enable = true ∧ (s.zone 23).mode ≠ judgedMode s.calendar (s.zone 23) ∧
      ({ s.zone 23 with mode := .closed }).mode = judgedMode s.calendar (s.zone 23) ∧ (live.zone 23).enable = false ∧
      portOn live .gallery = true ∧ portOn State.reset .gallery = false ∧
      ({ live with p2g := List.replicate 7 sample }).p2g.length < 8 ∧
      8 ≤ ({ live with p2g := List.replicate 8 sample }).p2g.length ∧ (clockFrame 127 2024 1 0).dest = broadcast ∧
      (clockFrame 1 2024 1 0).dest ≠ broadcast := by decide +kernel

/-- Zones enabled and not; five and six hour means; drift that comes and that stays; an air handler and none. -/
theorem test_witness_HourRollFolds :
    let ring := fun n => List.replicate n (some (1000 : Int)) ++ [none, some 2100]
    ((ring 4).filterMap id).length < 6 ∧ 6 ≤ ((ring 5).filterMap id).length ∧ factoryZone.drift = false ∧
      ({ factoryZone with drift := true }).drift = true ∧ factoryZone.driftLimit < 2100 - 1000 ∧
      factoryZone.airAddress = 0 ∧ ({ factoryZone with airAddress := 126 }).airAddress ≠ 0 ∧
      (∀ c ∈ handedBefore .hourRoll { live with handed := [.pollDue, .hourRoll] }, isRoll c = false) ∧
    ((withZone 23 { factoryZone with enable := true, hourSum := 5, hourCount := 2 }).zone 23).enable = true ∧
      (live.zone 23).enable = false ∧ live.save = none ∧ live.procedure.restart = .notRunning ∧
      ({ live.procedure with restart := .saveAsked }).restart ≠ .notRunning := by decide +kernel

/-- Six means present, with the highest and the lowest of them; five; and events that are rolls and that are not. -/
theorem test_witness_HourRollFolds_drift :
    let ring : List (Option Int) := [some 1000, none, some 2100, some 1500, some 1500, some 1500, some 1500]
    let present := ring.filterMap id
    6 ≤ present.length ∧ ((ring.drop 1).filterMap id).length < 6 ∧ 2100 ∈ present ∧ (1000 : Int) ∈ present ∧
      (∀ x ∈ present, 1000 ≤ x ∧ x ≤ 2100) ∧ isRoll .pollDue = false ∧ isRoll .hourRoll = true := by decide +kernel

/-- Gallery counters 0 and 7 and plant counters 8 and 16 at their thresholds, and none; both flags. -/
theorem test_witness_HourRollFolds_ports :
    let full := fun (c : Counter) => { c with threshold := 5, last := 5 }
    let at' := fun i => { live with counters := modifyAt (modifyAt live.counters i full) 16 full }
    portReached (at' 0) .gallery = some 0 ∧ portReached (at' 7) .gallery = some 7 ∧ portReached (at' 8) .gallery = none ∧
      portReached (at' 8) .plant = some 8 ∧ portReached (at' 7) .plant = some 16 ∧ portReached live .plant = none ∧
      live.degraded.gallery = false ∧ ({ live.degraded with plant := true }).plant = true := by decide +kernel

/-- An object that is due by its start day and by a year passed, and one that is not. -/
theorem test_witness_DayRollFoldsAndRolls :
    (∀ c ∈ handedBefore (.dayRoll ⟨2025, 91⟩) { live with handed := [.dayRoll ⟨2025, 91⟩] }, isRoll c = false) ∧
    let o : Obj := { factoryObject with enable := true, startDay := 91, lastRoll := 2024 }
    ((withObject 255 o).object 255).enable = true ∧ (o.lastRoll + 1 = 2025 ∧ o.startDay ≤ 91) ∧ o.lastRoll + 1 < 2026 ∧
      ¬(o.lastRoll + 1 < 2025 ∨ o.lastRoll + 1 = 2025 ∧ o.startDay ≤ 90) := by decide +kernel

/-- An object with its over-ceiling marker set, and a due one whose dose is unknown. -/
theorem test_witness_DayRollFoldsAndRolls_flags :
    let s := withObject 255 { factoryObject with
      enable := true, startDay := 91, lastRoll := 2024, overMarker := true, unknown := true }
    (s.object 255).overMarker = true ∧ (live.object 255).overMarker = false ∧ (s.object 255).unknown = true ∧
      (live.object 255).unknown = false ∧ (s.object 255).enable = true ∧ (s.object 255).lastRoll + 1 = 2025 ∧
      (s.object 255).startDay ≤ 91 := by decide +kernel

theorem test_witness_CeilingIsFirstCase :
    let left := fun o : Obj => if o.dose < o.budget then o.budget - o.dose else 0
    left { factoryObject with budget := 5, dose := 5 } = 0 ∧ left { factoryObject with budget := 5, dose := 4 } ≠ 0 ∧
      factoryObject.remaining = 0 ∧ ({ factoryObject with remaining := 1 }).remaining ≠ 0 ∧
      factoryObject.cfloor ≤ factoryObject.cmax := by decide

/-! ### Light control and climate -/

theorem test_witness_SettleExpiryEndsSettling :
    let s := (withGroup 47 { factoryGroup with enable := true, zone := 23, phase := .settling 9 }).modZone 23 fun z =>
      { z with evalPending := true }
    let busy := s.modGroup 46 fun g => { g with enable := true, zone := 23, phase := .sent }
    (s.group 47).phase = .settling 9 ∧ (s.zone 23).evalPending = true ∧
      (∀ h < 48, h ≠ 47 → (s.group h).enable = true → (s.group h).zone = 23 → (s.group h).phase = .idle) ∧
      ((busy.group 46).enable = true ∧ (busy.group 46).zone = 23 ∧ (busy.group 46).phase ≠ .idle) ∧
      (live.zone 23).evalPending = false ∧ (live.group 47).phase = .idle := by decide +kernel

/-- A live part with object 255 in zone 23, its light point at 50, and group 47 a LAMP of the zone or its shade. -/
def litZone (ceiling : Nat) (mode : Mode) (kind : GroupKind) : State :=
  ((((withNode 63 { onlineNode with role := .actuator }).modZone 23 fun z =>
    { z with enable := true, mode := mode, shade := if kind = .shade then some 47 else none }).modPoint 191 fun p =>
      { p with enable := true, zone := 23, value := 50, accepted := true, state := .fresh }).modObject 255 fun o =>
        { o with enable := true, zone := 23, lightPoint := 191, ceiling := ceiling }).modGroup 47 fun g =>
          { g with enable := true, kind := kind, zone := 23, node := 63, level := 500, hold := 100 }

/-- A zone at rest and one that is not; what an evaluation commands, and a node that cannot be reached. -/
theorem test_witness_EvaluationCommandsTheGroups :
    let s := litZone 49 .opened .lamp
    let busy := s.modGroup 47 fun g => { g with phase := .queued }
    (∀ h < 48, (s.group h).enable = true → (s.group h).zone = 23 → (s.group h).phase = .idle) ∧
      ((busy.group 47).enable = true ∧ (busy.group 47).zone = 23 ∧ (busy.group 47).phase ≠ .idle) ∧
      (evaluate 23 s).galleryOrigin = [47] ∧
      ((evaluate 23 (s.modNode 63 fun n => { n with state := .displaced })).group 47).unavailable = true := by
  decide +kernel

/-- Lamps: ratios below 1000, below the hold limit and at it; with members and none. -/
theorem test_witness_EvaluationCommandsTheGroups_lamps :
    let lamp := fun c => litZone c .opened .lamp
    let member := (lamp 49).modObject 255 fun o => { o with lampGroup := some 47 }
    ([49, 54, 55]).map (fun c => (zoneRatio (lamp c) 23, target (lamp c) 23 47)) =
        [(some 980, 490), (some 1080, 500), (some 1100, 520)] ∧
      lampRatio member 23 47 = some 980 ∧ lampRatio member 23 46 = some 980 ∧ lampBlind member 23 47 = false ∧
      target (live.modZone 23 fun z => { z with mode := .opened }) 23 47 = 300 ∧
      target (litZone 49 .closed .lamp) 23 47 = 300 := by decide +kernel

/-- Shades: one that moves down, one that cannot, one that moves up, and one that the zone does not name; a lamp held while
its shade moves. -/
theorem test_witness_EvaluationCommandsTheGroups_shades :
    let shade := fun c => litZone c .opened .shade
    let both := (shade 49).modGroup 46 fun g => { g with enable := true, zone := 23, node := 63, level := 500 }
    ([49, 55]).map (fun c => (namedShade (shade c) 23, target (shade c) 23 47)) =
        [(some 47, 490), (some 47, 520)] ∧
      target ((shade 49).modGroup 47 fun g => { g with misses := 3 }) 23 47 = 500 ∧ target both 23 46 = 500 ∧
      lampsAtTop (shade 55) 23 = true ∧ target (litZone 49 .dark .shade) 23 47 = 0 ∧
      target ((litZone 49 .dark .shade).modZone 23 fun z => { z with shade := none }) 23 47 = 500 := by decide +kernel

/-- A lamp and a shade; a level that is asked for, one that stands, and one to be sent again; a node that can be reached and
one that cannot; a group that is not silent yet, and one that is. -/
theorem test_witness_EvaluationCommandsTheGroups_commanded :
    let s := litZone 49 .opened .lamp
    (s.group 47).kind = .lamp ∧ ((litZone 49 .opened .shade).group 47).kind = .shade ∧ 490 ≠ (s.group 47).level ∧
      (s.group 47).level = 500 ∧ (s.group 47).resend = true ∧ ({ s.group 47 with resend := false }).resend ≠ true ∧
      nodeReachable s (s.group 47).node = true ∧
      nodeReachable (s.modNode 63 fun n => { n with state := .displaced }) (s.group 47).node = false ∧
      (s.group 47).unavailable = false ∧ (s.group 47).misses < 3 ∧ ¬(({ s.group 47 with misses := 3 }).misses < 3) := by
  decide +kernel

/-- An enabled zone at a tick; a move that completes and one that does not. In each of the seven states, the values at
both limits of the band and of the narrowed band. -/
theorem test_witness_BandMachineSteps :
    noRollsHanded (withZone 23 { factoryZone with enable := true }) ∧
    ((withZone 23 { factoryZone with enable := true }).zone 23).enable = true ∧
    (let s := fun band (v : Int) timer => withZone 23 { factoryZone with
        enable := true, rh := { factoryRh with value := some v, band := band, timer := timer } }
     let move := fun s => bandMove (climateOf .rh (State.zone s 23)) (((climateOf .rh (State.zone s 23)).value).getD 0)
     let last := fun s => ((move s).band, (move s).tested, decide ((State.zone s 23).persistence ≤ (move s).timer))
     last (s .pendingHigh 5501 14) = (.pendingHigh, true, true) ∧ last (s .pendingHigh 5501 13) = (.pendingHigh, true, false) ∧
       last (s .pendingLow 4499 14) = (.pendingLow, true, true) ∧
       last (s .returningHigh 5400 14) = (.returningHigh, true, true) ∧ (move (s .high 4499 0)).cleared = true) ∧
    ([BandState.inBand, .pendingHigh, .pendingLow, .high, .low, .returningHigh, .returningLow]).all (fun b =>
      let c := { factoryRh with band := b }
      decide (c.band = b ∧ c.lo ≤ c.hi ∧ c.hi < 5501 ∧ ¬c.hi < 5500 ∧ 4499 < c.lo ∧ ¬(4500 : Int) < c.lo ∧
        nHi c < 5401 ∧ (5400 : Int) ≤ nHi c ∧ 4599 < nLo c ∧ nLo c ≤ 4600)) = true :=
  ⟨fun c hc => by simp [withZone, live, State.reset, State.modZone] at hc, by decide +kernel, by decide +kernel, by decide⟩

/-- An enabled zone and a disabled one; a zone value and none. -/
theorem test_witness_BandMachineSteps_zone :
    let s := (withZone 23 { factoryZone with enable := true, rh := { factoryRh with value := some 5000 } })
    (s.zone 23).enable = true ∧ (live.zone 23).enable = false ∧ (climateOf .rh (s.zone 23)).value = some 5000 ∧
      (climateOf .rh (live.zone 23)).value = none := by decide +kernel

/-! ### Conditions and supervision -/

/-- An entry present; 63 entries; 64 with a LATCHED one after an ACTIVE one; 64 ACTIVE; masked and not. -/
theorem test_witness_RaiseAndClearRecord :
    let entry := fun (i : Nat) (st : ConditionState) => (⟨.pointFault, i, st, 0, 0, 0⟩ : Condition)
    let active := (List.range 63).map fun i => entry i .active
    (∃ e ∈ live.conditions, e.kind = .clockUnset ∧ e.subject = 0) ∧ active.length < 64 ∧
      (∀ e ∈ active, ¬(e.kind = .nodeSilent ∧ e.subject = 9)) ∧
      64 ≤ (entry 99 .active :: entry 98 .latched :: active).length ∧
      entry 99 .active :: entry 98 .latched :: active = [entry 99 .active] ++ entry 98 .latched :: active ∧
      (entry 98 .latched).state = .latched ∧ (∀ x ∈ [entry 99 .active], x.state = .active) ∧
      (∀ e ∈ entry 99 .active :: active, e.state = .active) ∧ masked live .imageFault = false ∧ live.loading = false ∧
      State.reset.loading = true ∧ live.conditions = [] ++ ⟨.clockUnset, 0, .active, 0, 0, 0⟩ :: [] ∧
      masked { live with device := { live.device with masks := live.device.masks.set 18 true } } .imageFault = true := by
  decide +kernel

theorem test_witness_SupervisionWindow :
    live.device.supervisionWindow ≠ 0 ∧ ({ live.device with supervisionWindow := 0 }).supervisionWindow = 0 ∧
      live.supervision.attended = true ∧ ({ live.supervision with attended := false }).attended = false ∧
      ({ live with supervision := ⟨true, some 4⟩ }).supervision.timer = some 4 ∧
      live.device.supervisionAction = .hold ∧
      ({ live.device with supervisionAction := .revert }).supervisionAction = .revert := by decide +kernel

/-! ### Service requests -/

theorem test_witness_ReadAnswersItsValues :
    (1 ≤ 1 ∧ 1 ≤ 16) ∧ (1 ≤ 16 ∧ 16 ≤ 16) ∧ ¬(1 ≤ 0 ∧ 0 ≤ 16) ∧ ¬(1 ≤ 17 ∧ 17 ≤ 16) := by decide

/-- The last entry of each table, what a blank zone reads for its unknown values, and a position beyond the table. -/
theorem test_witness_ReadAnswersItsValues_fields :
    let v := fun t e f => readField live t ⟨e, f⟩
    v .node 63 3 = 10 ∧ v .point 191 8 = 65535 ∧ v .object 255 12 = 50000 ∧ v .group 47 12 = 0xFFFF ∧
      [24, 25, 35, 58].map (v .zone 23) = [0xFFFF, 0x8000, 0xFFFF, 0xFFFF] ∧ v .condition 63 0 = 0 ∧
      v .condition 0 0 = 18 ∧ v .counter 16 4 = 0 ∧ v .device 5 2 = 63 := by decide +kernel

/-- ALERT asserted, and not for a masked kind; the mask of the last kind. -/
theorem test_witness_LatchReadsChangeTheLatch :
    (18 : Fin 19).val + 1 = conditionCode .imageFault ∧ alertAsserted live = true ∧
      alertAsserted { live with device := { live.device with masks := live.device.masks.set 17 true } } = false := by
  decide +kernel

theorem test_witness_WriteAnswersItsStatus :
    let n := fun k => (List.replicate k (7 : Half)).length
    (1 ≤ n 1 ∧ n 1 ≤ 16) ∧ (1 ≤ n 16 ∧ n 16 ≤ 16) ∧ ¬(1 ≤ n 0 ∧ n 0 ≤ 16) ∧ ¬(1 ≤ n 17 ∧ n 17 ≤ 16) ∧
      List.replicate 1 (7 : Half) = [7] := by decide

/-- Beyond the table by entry; read-only; a code above 1; a binding field of an enabled entry. -/
theorem test_witness_WriteIsJudgedInOrder :
    inTable .node ⟨64, 0⟩ = false ∧ inTable .node ⟨63, 0⟩ = true ∧ access .device ⟨0, 20⟩ = .readOnly ∧
      inTable .device ⟨0, 20⟩ = true ∧ access .node ⟨63, 0⟩ ≠ .readOnly ∧ codeAccepted .node ⟨63, 0⟩ 2 = false ∧
      inTable .node ⟨63, 1⟩ = true ∧ access .node ⟨63, 1⟩ = .binding ∧ codeAccepted .node ⟨63, 1⟩ 9 = true ∧
      entryEnabled (withNode 63 onlineNode) .node 63 = true ∧
      (writeValue .node ⟨64, 0⟩ 1 live).2 = .range := by decide +kernel

/-- A position of the table in each kind of field: configuration, binding, an on or off code, a code with a highest value,
and none of these; codes at and past their ends. -/
theorem test_witness_WriteIsJudgedInOrder_fields :
    ([(TableId.device, 41), (.node, 12), (.point, 5), (.object, 23), (.group, 10), (.zone, 23)]).all (fun (t, f) =>
      inTable t ⟨0, f⟩ && access t ⟨0, f⟩ == .config) = true ∧
    access .counter ⟨16, 4⟩ = .config ∧ inTable .counter ⟨16, 4⟩ = true ∧
    ([(TableId.node, 2), (.point, 4), (.object, 10), (.group, 4)]).all (fun (t, f) =>
      inTable t ⟨0, f⟩ && access t ⟨0, f⟩ == .binding) = true ∧
    ([(TableId.device, 42), (.node, 28), (.zone, 63)]).all (fun (t, f) => !inTable t ⟨0, f⟩) = true ∧
    ([0, 1, 2] : List Half).map (codeAccepted .device ⟨0, 41⟩) = [true, true, false] ∧
    ([0, 1, 2, 3] : List Half).map (codeAccepted .node ⟨63, 2⟩) = [false, true, true, false] ∧
    ([0, 3, 4] : List Half).map (codeAccepted .zone ⟨23, 5⟩) = [false, true, false] ∧
    ([0, 4, 5] : List Half).map (codeAccepted .point ⟨191, 3⟩) = [false, true, false] ∧
    codeAccepted .node ⟨63, 3⟩ 0xFFFF = true := by decide +kernel

/-- Values below, at and above the ends of a field's range, none, and codes; entries that are disabled. -/
theorem test_witness_WriteIsJudgedInOrder_stored :
    (live.node 63).enable = false ∧ (live.point 191).enable = false ∧ (live.object 255).enable = false ∧
      (live.group 47).enable = false ∧ (live.zone 23).enable = false ∧
      (([1, 2, 600, 601] : List Half).map fun v =>
        let r := writeValue .node ⟨63, 3⟩ v live
        ((r.1.node 63).pollPeriod, r.2)) = [(2, .clamped), (2, .ok), (600, .ok), (600, .clamped)] ∧
      (([191, 192, 0xFFFF] : List Half).map fun v =>
        let r := writeValue .object ⟨255, 9⟩ v live
        ((r.1.object 255).uvPoint, r.2)) = [(some 191, .ok), (some 191, .clamped), (none, .ok)] ∧
      (([0xF05F, 0xF060, 8501] : List Half).map fun v =>
        let r := writeValue .zone ⟨23, 20⟩ v live
        ((r.1.zone 23).temp.target, r.2)) = [(-4000, .clamped), (-4000, .ok), (8500, .clamped)] ∧
      (1 : Half).toNat ≤ 1 ∧ (1 ≤ (2 : Half).toNat ∧ (2 : Half).toNat ≤ 2) ∧
      (1 ≤ (4 : Half).toNat ∧ (4 : Half).toNat ≤ 4) := by decide +kernel

/-- The last entry and the one beyond; both present values; a refused enable and disable; allowed ones; and the checks of
every table met. -/
theorem test_witness_EnableWrite :
    let on := withNode 63 onlineNode
    let bound := on.modPoint 191 fun p => { p with enable := true, node := 63 }
    hasEnable .node = true ∧ entryCount .node = 64 ∧ 1 < (2 : Half).toNat ∧ entryEnabled on .node 63 = true ∧
      entryEnabled live .node 63 = false ∧ enableAllowed live .node 63 = false ∧
      disableAllowed bound .node 63 = false ∧ entryEnabled bound .node 63 = true ∧
      enableAllowed (live.modNode 63 fun n => { n with address := 126 }) .node 63 = true ∧
      disableAllowed on .node 63 = true ∧
      (let s := litZone 49 .opened .lamp
       let full := s.modNode 62 fun n => { n with enable := true, address := 14 }
       enableAllowed (full.modPoint 190 fun p => { p with node := 62, zone := 23, channel := 7 }) .point 190 = true ∧
       enableAllowed (s.modObject 254 fun o => { o with zone := 23, lightPoint := 191, lampGroup := some 47 }) .object 254 =
         true ∧
       enableAllowed (s.modGroup 46 fun g => { g with zone := 23, node := 63, channel := 3 }) .group 46 = true ∧
       disableAllowed s .point 191 = false ∧ disableAllowed s .point 190 = true ∧ disableAllowed s .group 47 = true ∧
       disableAllowed (litZone 49 .opened .shade) .group 47 = false ∧ disableAllowed s .zone 23 = false ∧
       disableAllowed s .zone 22 = true) ∧
      enableAllowed live .zone 23 = true ∧ hasEnable .zone = true := by decide +kernel

/-- A node that is SILENT, DISPLACED or neither; a point with its fault marker; an object with each flag set, and one with
none; a zone with its excursions, drift and blindness, and with an air handler or none. -/
theorem test_witness_EnableWrite_entries :
    let node := fun st => (withNode 63 (nodeAt 14 st))
    let s := litZone 49 .opened .lamp
    let point := s.modPoint 190 fun p => { p with enable := true, fault := true, node := 63, zone := 23 }
    let flags : Obj := { factoryObject with
      enable := true, exhausted := true, paceShort := true, degraded := true, overMarker := true, unknown := true }
    let zone := withZone 23 { factoryZone with
      enable := true, airAddress := 9, blind := true, drift := true, rh := { factoryRh with band := .returningHigh }
      temp := { factoryTemp with band := .low } }
    ([NodeState.silent, .displaced, .online]).all (fun st =>
      ((node st).node 63).enable && disableAllowed (node st) .node 63 && ((node st).node 63).state == st) = true ∧
    enableAllowed (live.modNode 63 fun n => { n with address := 126 }) .node 63 = true ∧ (live.node 63).enable = false ∧
    disableAllowed point .point 190 = true ∧ (point.point 190).enable = true ∧ (point.point 190).fault = true ∧
    ((withObject 255 flags).object 255).enable = true ∧ (live.object 255).exhausted = false ∧
    (s.object 254).enable = false ∧
    enableAllowed (s.modObject 254 fun o => { o with zone := 23, lightPoint := 191, unknown := true }) .object 254 = true ∧
    disableAllowed zone .zone 23 = true ∧ (zone.zone 23).enable = true ∧ (zone.zone 23).rh.band = .returningHigh ∧
    (zone.zone 23).temp.band = .low ∧ (zone.zone 23).airAddress ≠ 0 ∧ (live.zone 23).airAddress = 0 ∧
    (live.zone 23).enable = false ∧ enableAllowed live .zone 23 = true := by decide +kernel

/-- R31: a place in the middle of the poll due list, by due time and then by node. -/
theorem test_witness_EnableWrite_placed :
    placedInPollList 7 10 [⟨3, 10⟩, ⟨9, 10⟩, ⟨7, 2⟩] [⟨3, 10⟩, ⟨7, 10⟩, ⟨9, 10⟩] :=
  ⟨[⟨3, 10⟩], [⟨9, 10⟩], rfl, rfl, by decide, by decide⟩

/-- A group that may be enabled, and one that may be disabled, with an evaluation pending in a zone at rest and not. -/
theorem test_witness_EnableWrite_group :
    let s := litZone 49 .opened .lamp
    let free := s.modGroup 47 fun g => { g with enable := false }
    let waits := s.modZone 23 fun z => { z with evalPending := true }
    let busy := waits.modGroup 46 fun g => { g with enable := true, zone := 23, phase := .sent }
    (47 : Half).toNat < 48 ∧ (free.group 47).enable = false ∧ enableAllowed free .group 47 = true ∧
      (s.group 47).enable = true ∧ disableAllowed s .group 47 = true ∧ (s.zone 23).evalPending = false ∧
      disableAllowed waits .group 47 = true ∧ (waits.zone 23).evalPending = true ∧
      (∀ h < 48, h ≠ 47 → (waits.group h).enable = true → (waits.group h).zone = 23 → (waits.group h).phase = .idle) ∧
      ((busy.group 46).enable = true ∧ (busy.group 46).zone = 23 ∧ (busy.group 46).phase ≠ .idle) := by decide +kernel

theorem test_witness_PortEnableWrite :
    1 < (2 : Half).toNat ∧ (1 : Half) = (if live.device.galleryEnable then 1 else 0) ∧
      (1 : Half) = (if live.device.plantEnable then 1 else 0) ∧ live.device.galleryEnable = true ∧
      ({ live.device with galleryEnable := false }).galleryEnable = false ∧
      ({ live.device with plantEnable := false }).plantEnable = false ∧ live.loading = false ∧
      State.reset.loading = true := by decide +kernel

/-- Ports on and off; each transaction in flight at a disable; a group that is SENT, in a zone at rest with an evaluation
pending; the RESTART's reply waiting and in flight. -/
theorem test_witness_PortEnableWrite_flights :
    let busy := fun k p => onLine (transaction k none none p) live
    let s := (withGroup 47 { factoryGroup with enable := true, zone := 23, phase := .sent }).modZone 23 fun z =>
      { z with evalPending := true }
    let other := s.modGroup 46 fun g => { g with enable := true, zone := 23, phase := .queued }
    let reply : OriginFrame := ⟨2, kindServiceReply, [0, 10], .reply true⟩
    live.device.galleryEnable = true ∧ live.device.plantEnable = true ∧
      ({ live.device with galleryEnable := false }).galleryEnable = false ∧
      (busy (.command 47 63) (.window 5)).line = .busy ⟨.command 47 63, sample, none, none, .window 5, []⟩ ∧
      (busy .forward (.sending 5)).line = .busy ⟨.forward, sample, none, none, .sending 5, []⟩ ∧
      (s.group 47).enable = true ∧ (s.group 47).phase = .sent ∧ (s.zone 23).evalPending = true ∧
      (∀ h < 48, h ≠ 47 → (s.group h).enable = true → (s.group h).zone = 23 → (s.group h).phase = .idle) ∧
      (other.group 46).enable = true ∧ (other.group 46).zone = 23 ∧ (other.group 46).phase ≠ .idle ∧
      (live.zone 23).evalPending = false ∧ (live.group 47).enable = false ∧
      ([reply]).any (fun o => o.tag == .reply true) = true ∧ (live.plantOrigin.any fun o => o.tag == .reply true) = false ∧
      (⟨sample, .origin, true, 9⟩ : PlantTx).ofRestart = true ∧
      ({ live.procedure with restart := .awaitingReply }).restart = .awaitingReply ∧
      live.procedure.restart ≠ .awaitingReply := by decide +kernel

/-- An own address that is taken, after the clamp, and one that is free; mask values at and past 1. -/
theorem test_witness_DeviceSettingWrites :
    let s := withNode 63 (nodeAt 126 .online)
    (∃ n < 64, (s.node n).enable = true ∧ (s.node n).address = max 1 (min 126 (200 : Half).toNat)) ∧
      (∀ n < 64, (s.node n).enable = true → (s.node n).address ≠ max 1 (min 126 (0 : Half).toNat)) ∧
      1 < (2 : Half).toNat ∧ (1 : Half).toNat ≤ 1 :=
  ⟨⟨63, by decide +kernel⟩, by decide +kernel, by decide, by decide⟩

/-- An index past the table; none; a group that does not serve; one that does; mode codes at their ends. -/
theorem test_witness_ZoneLightWrites :
    let s := (withGroup 47 { factoryGroup with enable := true, kind := .shade, zone := 23 })
    24 ≤ (24 : Half).toNat ∧ (23 : Half).toNat < 24 ∧ (0x30 : Half) ≠ 0xFFFF ∧
      ((s.group 47).enable = true ∧ (s.group 47).kind = .shade ∧ (s.group 47).zone = 23) ∧
      ¬((s.group 46).enable = true) ∧ min 47 (0x30 : Half).toNat = 47 ∧
      ¬((4 : Half).toNat ≤ 3) ∧ ¬(1 ≤ (0 : Half).toNat) ∧ (1 ≤ (3 : Half).toNat ∧ (3 : Half).toNat ≤ 3) := by
  decide +kernel

theorem test_witness_TagCheckWrite :
    let s := withNode 63 { nodeAt 14 .tagcheck with tagCheck := true }
    let t := withNode 63 { onlineNode with tagCheck := true }
    64 ≤ (64 : Half).toNat ∧ 1 < (2 : Half).toNat ∧ (63 : Half).toNat < 64 ∧ (live.node 63).tagCheck = false ∧
      (s.node 63).tagCheck = true ∧ (s.node 63).state = .tagcheck ∧ (t.node 63).tagCheck = true ∧
      (t.node 63).state = .online ∧ (nodeAt 14 .silent).state ≠ .tagcheck := by decide +kernel

theorem test_witness_ZoneClimateWrites :
    let s := withZone 23 { factoryZone with enable := true }
    (23 : Half).toNat < 24 ∧ 24 ≤ (24 : Half).toNat ∧
      ((s.modZone 23 fun z => { z with airAddress := min 126 (200 : Half).toNat }).zone 23).airAddress ≠ 0 ∧
      (s.zone 23).enable = true ∧ (s.zone 23).airAddress = 0 ∧ (live.zone 23).enable = false := by decide +kernel

/-- A band write that moves the setpoint of a zone with an air handler, one that moves it without, and one that leaves it. -/
theorem test_witness_ZoneClimateWrites_trim :
    let s := withZone 23 { factoryZone with enable := true, airAddress := 9 }
    let sent := fun s v => ((after (exec (.bandWrite rq 23 .rhLo v) s)).plantTx.map fun t => t.frame.kind)
    sent s 5300 = some kindTrim ∧ sent s 4500 = some kindServiceReply ∧
      sent (s.modZone 23 fun z => { z with enable := false }) 5300 = some kindServiceReply := by decide +kernel

theorem test_witness_CeilingTermWrites :
    (255 : Half).toNat < 256 ∧ ((withObject 255 { factoryObject with enable := true }).object 255).enable = true ∧
      (live.object 255).enable = false := by decide +kernel

/-- Planned minutes below what remains, and at it. -/
theorem test_witness_CeilingTermWrites_planned :
    let s := withObject 255 { factoryObject with planned := 70000, remaining := 65539 }
    let planned := fun v => min 527040 ((s.object 255).planned / 65536 * 65536 + v)
    planned 2 < (s.object 255).remaining ∧ (s.object 255).remaining ≤ planned 3 ∧ 255 < 256 := by decide +kernel

theorem test_witness_GroupLimitWrite :
    48 ≤ (48 : Half).toNat ∧ (47 : Half).toNat < 48 ∧ (live.group 47).enable = false ∧
      ((withGroup 47 { factoryGroup with enable := true }).group 47).enable = true := by decide +kernel

/-! ### Procedures -/

theorem test_witness_ProcedureCalls :
    ({ live.procedure with state := .running }).state = .running ∧ live.procedure.state ≠ .running ∧
      255 < (256 : Half).toNat ∧ (255 : Half).toNat ≤ 255 ∧ Vector.replicate 6 (1 : Half) ≠ (live.object 255).tag ∧
      63 < (64 : Half).toNat ∧ (63 : Half).toNat ≤ 63 ∧ (live.node 63).enable = false ∧
      ((withNode 63 onlineNode).node 63).enable = true ∧ ((withNode 63 onlineNode).node 63).state = .online ∧
      47 < (48 : Half).toNat ∧ (47 : Half).toNat ≤ 47 ∧ (live.group 47).enable = false ∧
      ((withGroup 47 { factoryGroup with enable := true, cap := some 300 }).group 47).cap ≠ none ∧
      ((withGroup 47 { factoryGroup with enable := true }).group 47).cap = none := by decide +kernel

/-- Objects at both ends of the index; an enabled node in each state that a REHUNT leads from. -/
theorem test_witness_ProcedureCalls_completed :
    live.procedure.state ≠ .running ∧ (255 : Half).toNat ≤ 255 ∧ (63 : Half).toNat ≤ 63 ∧
      ([NodeState.online, .silent, .displaced, .hunting]).map (fun st =>
        let nd := (withNode 63 (nodeAt 14 st)).node 63
        (nd.enable, nd.state)) = [(true, .online), (true, .silent), (true, .displaced), (true, .hunting)] := by
  decide +kernel

def pageOf (kind : SaveKind) (position : RecordId) (written : Nat) (ofRestart : Bool) : Save :=
  ⟨kind, position, List.replicate (recordLength position) 0, written, none, ofRestart, 5⟩

def saving (v : Save) : State := { live with save := some v }

theorem test_witness_SaveAndRestartStart :
    live.procedure.state ≠ .running ∧ live.save = none ∧ (saving (pageOf .full .settings 0 false)).save ≠ none ∧
      ([RestartPhase.awaitingReply, .replyGone, .saveAsked]).map
        (fun r => ({ live.procedure with restart := r }).restart) = [.awaitingReply, .replyGone, .saveAsked] ∧
      live.procedure.restart = .notRunning := by decide +kernel

/-! ### The image store -/

/-- A record with more pages to come, and a last page with a record to come. -/
theorem test_witness_PageCompleteWritesThePage :
    let v := pageOf .full .settings 0 false
    let w := pageOf .hourly (.dose 254) 0 false
    (saving v).save = some v ∧ Memory.wf live.store ∧
      v.written + ((v.octets.drop v.written).take (64 - (recordAddress v.position + v.written) % 64)).length <
        v.octets.length ∧
      w.octets.length ≤
        w.written + ((w.octets.drop w.written).take (64 - (recordAddress w.position + w.written) % 64)).length ∧
      nextRecord w.kind w.date.isSome w.position ≠ none := by decide +kernel

/-- The last pages of an hourly save without a date and of a full save, of a RESTART or not, with one waiting or not. -/
theorem test_witness_SavesEnd :
    let last := fun v : Save => decide (v.octets.length ≤
      v.written + ((v.octets.drop v.written).take (64 - (recordAddress v.position + v.written) % 64)).length ∧
      nextRecord v.kind v.date.isSome v.position = none)
    last (pageOf .hourly (.setpoint 23) 0 true) = true ∧ last (pageOf .full .header 0 false) = true ∧
      (saving (pageOf .full .header 0 false)).save = some (pageOf .full .header 0 false) ∧
      live.restartWaiting = false ∧ ({ live with restartWaiting := true }).restartWaiting = true ∧
      live.faulty = [] ∧ ({ live with imageFaultRaised := true }).imageFaultRaised = true ∧
      Memory.wf live.store := by decide +kernel

/-- Entries at the ends of their ranges. -/
theorem test_witness_SavedEntriesLoadBack :
    Memory.wf [] ∧ nodeLegal { factoryNode with address := 126, pollPeriod := 600 } ∧
      nodeLegal { factoryNode with pollPeriod := 2 } ∧ pointLegal { factoryPoint with node := 63, channel := 7, zone := 23 } ∧
      groupLegal { factoryGroup with zone := 23, node := 63, channel := 3, lo := 1000, step := 200, settle := 255 } ∧
      groupLegal { factoryGroup with hi := 0, step := 1, settle := 1, cleaning := 1000, hold := 200 } ∧
      objectLegal { factoryObject with
        zone := 23, lightPoint := 191, uvPoint := some 191, lampGroup := some 47, budget := 4000000000, cmax := 1000,
        cfloor := 1000, assumed := 1000, uvLimit := 5000, uvSlope := 20, startDay := 365, planned := 527040,
        overThreshold := 1440 } ∧
      objectLegal { factoryObject with budget := 1, cmax := 10 } ∧
      zoneLegal { factoryZone with
        shade := some 47, openFrom := 1439, openTo := 0, persistence := 120, driftLimit := 3000, airAddress := 126,
        airChannel := 255
        rh := { factoryRh with lo := 0, hi := 0, hysteresis := 1000, spike := 10000, target := 10000, glide := 500 }
        temp := { factoryTemp with lo := -4000, hi := 8500, spike := 12500, target := -4000, glide := 0 } } ∧
      zoneLegal { factoryZone with persistence := 1, driftLimit := 100 } := by
  refine ⟨by decide, ?_, ?_, ?_, ?_, ?_, ?_, ?_, ?_, ?_⟩ <;>
    simp [nodeLegal, pointLegal, groupLegal, objectLegal, zoneLegal, climateLegal, factoryNode, factoryGroup,
      factoryObject, factoryZone, factoryRh, factoryTemp]

theorem test_witness_SavedDosesLoadBack :
    let s := (withObject 255 { factoryObject with
      dose := 4294967295, fraction := 59, remaining := 527040, previousYear := 4294967295, lastRoll := 2199 }).modZone 23
        fun z => { z with rh := { z.rh with setpoint := 10000 }, temp := { z.temp with setpoint := -4000 } }
    Memory.wf [] ∧ (s.object 255).dose ≤ 4294967295 ∧ (s.object 255).fraction ≤ 59 ∧
      (s.object 255).remaining ≤ 527040 ∧ (s.object 255).previousYear ≤ 4294967295 ∧
      (1999 ≤ (s.object 255).lastRoll ∧ (s.object 255).lastRoll ≤ 2199) ∧ (s.object 0).lastRoll = 0 ∧
      (s.zone 23).rh.setpoint = 10000 ∧ -4000 ≤ (s.zone 23).temp.setpoint ∧ (s.zone 23).temp.setpoint ≤ 8500 ∧
      (⟨2024, 366⟩ : Date).wf = true := by decide +kernel

/-! ### What every step keeps -/

theorem live_zone (i : Nat) : live.zone i = factoryZone := by
  simp only [State.zone, live, State.reset]
  by_cases h : i < 24
  · simp [h]
  · simp [Vector.getElem?_eq_none (Nat.le_of_not_lt h)]

theorem live_node (i : Nat) : live.node i = factoryNode := by
  simp only [State.node, live, State.reset]
  by_cases h : i < 64
  · simp [h]
  · simp [Vector.getElem?_eq_none (Nat.le_of_not_lt h)]

theorem live_object (i : Nat) : live.object i = factoryObject := by
  simp only [State.object, live, State.reset]
  by_cases h : i < 256
  · simp [h]
  · simp [Vector.getElem?_eq_none (Nat.le_of_not_lt h)]

theorem live_group (i : Nat) : live.group i = factoryGroup := by
  simp only [State.group, live, State.reset]
  by_cases h : i < 48
  · simp [h]
  · simp [Vector.getElem?_eq_none (Nat.le_of_not_lt h)]

theorem live_steps : step live = .next (passTime live) := rfl

theorem test_witness_EveryStepKeepsTheBounds : Bounded live ∧ step live = .next (passTime live) :=
  ⟨⟨⟨by decide, by decide, by decide, by decide⟩, ⟨by decide, by decide⟩,
    fun i => by rw [live_zone i]; decide, by decide⟩, live_steps⟩

theorem test_witness_EveryStepKeepsCeilingsInRange : CeilingsInRange live ∧ step live = .next (passTime live) :=
  ⟨fun i => by rw [live_object i]; exact ⟨by decide, fun on => by simp [factoryObject] at on⟩, live_steps⟩

theorem test_witness_EveryStepKeepsSetpointsInBand : SetpointsInBand live ∧ step live = .next (passTime live) :=
  ⟨fun i => by rw [live_zone i]; exact ⟨⟨by decide, by decide⟩, ⟨by decide, by decide⟩⟩, live_steps⟩

theorem test_witness_EveryStepKeepsOwnAddressFree : OwnAddressFree live ∧ step live = .next (passTime live) :=
  ⟨fun i on => by rw [live_node i] at on; simp [factoryNode] at on, live_steps⟩

theorem test_witness_EveryStepKeepsLevelsInRange : LevelsInRange live ∧ step live = .next (passTime live) :=
  ⟨fun i => by
    rw [live_group i]
    exact ⟨by decide, by decide, by decide, by decide, fun c e => by simp [factoryGroup] at e⟩, live_steps⟩

theorem test_witness_AgeRisesEachSecond : (191 : Nat) < 192 ∧ (live.point 191).age = 65535 := by decide +kernel

end Sys2Proof.Tests
end

section
/-! PROOF. Every command, and so every step, keeps the invariants of `Keeps` (O55). -/

namespace Sys2Proof.Machine

/-! ### What every command and every step keeps -/

theorem keeps_clockArrives (f : Frame) (s : State) : Keeps s (clockArrives f s) :=
  (keeps_takeClocks _ s).trans (keeps_calendarClock f _)

theorem keeps_plantFrame (f : Frame) (own : Byte) (s : State) : Keeps s (plantFrame f own s) := by
  unfold plantFrame
  split
  · unfold ownFrame
    split
    · exact keeps_serviceRequest _ _ s
    · split
      · exact keeps_supervisionRestart s
      · split
        · exact keeps_clockArrives f s
        · exact keeps_count _ s
  · split
    · unfold broadcastFrame
      split
      · exact keeps_supervisionRestart s
      · split
        · exact keeps_clockArrives f s
        · exact keeps_offerP2g f s
    · exact keeps_offerP2g f s

theorem keeps_setAssembler (p : PortId) (a : Assembler) (s : State) : Keeps s (setAssembler p a s) := by
  cases p <;> exact keeps_plain rfl rfl rfl rfl rfl rfl rfl rfl rfl rfl

theorem keeps_abandonFrame (p : PortId) (s : State) : Keeps s (abandonFrame p s) :=
  (keeps_setAssembler p _ s).trans (keeps_count _ _)

theorem keeps_judgeFrame (p : PortId) (f : Frame) (s : State) : Keeps s (judgeFrame p f s) := by
  unfold judgeFrame
  dsimp only
  split
  · exact ((keeps_noteArrival p f s).trans (keeps_count _ _)).trans (keeps_handOn _ _)
  · exact keeps_count _ s

theorem keeps_collectOctet (p : PortId) (octets : List Byte) (octet : Byte) (s : State) :
    Keeps s (collectOctet p octets octet s) := by
  unfold collectOctet
  split
  · exact keeps_abandonFrame p s
  · split
    · exact (keeps_setAssembler p _ s).trans (keeps_judgeFrame p _ _)
    · exact keeps_setAssembler p _ s

theorem keeps_endCharacter (p : PortId) (c : Character) (s : State) : Keeps s (endCharacter p c s) := by
  unfold endCharacter
  split
  · unfold huntChar
    split
    · exact keeps_setAssembler p _ s
    · exact .refl s
  · unfold collectChar
    split
    · exact keeps_abandonFrame p s
    · split
      · exact (keeps_abandonFrame p s).trans (keeps_setAssembler p _ _)
      · exact keeps_collectOctet p _ _ s

theorem keeps_receiveCharacter (p : PortId) (r : Reception) (s : State) : Keeps s (receiveCharacter p r s) := by
  unfold receiveCharacter
  split
  · split
    · unfold startCharacter
      split
      · exact .refl s
      · exact keeps_setAssembler p _ s
    · exact keeps_endCharacter p _ s
  · exact .refl s

theorem keeps_gapTimerExpiry (p : PortId) (s : State) : Keeps s (gapTimerExpiry p s) := by
  unfold gapTimerExpiry
  split
  · exact .refl s
  · exact .refl s
  · exact keeps_abandonFrame p s

theorem keeps_plantTransmitComplete (s : State) : Keeps s (plantTransmitComplete s) := by
  have free : Keeps s { s with plantTx := none } := keeps_plain rfl rfl rfl rfl rfl rfl rfl rfl rfl rfl
  unfold plantTransmitComplete
  split
  · exact .refl s
  · refine Keeps.trans ?_ (reported_plantTake _).keeps
    split
    · exact free.trans (keeps_restartReplyGone _)
    · exact free

theorem keeps_supervisionExpiry (s : State) : Keeps s (supervisionExpiry s) := by
  have stopped : Keeps s { s with supervision := ⟨false, none⟩ } := keeps_plain rfl rfl rfl rfl rfl rfl rfl rfl rfl rfl
  unfold supervisionExpiry
  split
  · exact .refl s
  · have raised := stopped.trans (keeps_raise .mgmtLost 0 0 _)
    dsimp only
    split
    · exact raised
    · refine raised.trans (keeps_forEach _ _ (fun z s => ?_) _)
      unfold revertZone
      split
      · exact (keeps_modZone s z _ ⟨id, id, id⟩).trans (keeps_judgeMode z _)
      · exact .refl s

theorem keeps_reachRecord (v : Save) (r : RecordId) (s : State) : Keeps s (reachRecord v r s) :=
  keeps_plain rfl rfl rfl rfl rfl rfl rfl rfl rfl rfl

theorem keeps_saveSucceeded (v : Save) (s : State) : Keeps s (saveSucceeded v s) := by
  have ended : Keeps s { s with save := none, faulty := faultyAfter v.kind s.faulty } :=
    keeps_plain rfl rfl rfl rfl rfl rfl rfl rfl rfl rfl
  exact ((ended.trans (keeps_clearImageFault _)).trans (keeps_handSaveEnd _ _ _ _)).trans (keeps_afterSave v _)

theorem keeps_saveFailed (v : Save) (s : State) : Keeps s (saveFailed v s) := by
  have torn : Keeps s { tearPage s with save := none } :=
    (keeps_tearPage s).trans (keeps_plain rfl rfl rfl rfl rfl rfl rfl rfl rfl rfl)
  exact ((torn.trans (keeps_imageFault _ _)).trans (keeps_handSaveEnd _ _ _ _)).trans (keeps_afterSave v _)

theorem keeps_pageComplete (s : State) : Keeps s (pageComplete s) := by
  unfold pageComplete
  split
  · exact .refl s
  · rename_i v _
    refine (keeps_pageWritten v s).trans ?_
    unfold continueSave
    split
    · exact keeps_plain rfl rfl rfl rfl rfl rfl rfl rfl rfl rfl
    · split
      · exact keeps_reachRecord _ _ _
      · exact keeps_saveSucceeded _ _

theorem keeps_pageWriteTimeout (s : State) : Keeps s (pageWriteTimeout s) := by
  unfold pageWriteTimeout
  split
  · exact .refl s
  · exact keeps_saveFailed _ s

theorem keeps_restartSaveStart (s : State) : Keeps s (restartSaveStart s) := by
  have ask : Keeps s (askRestartSave s) := by
    have asked : Keeps s { s with procedure := { s.procedure with restart := .saveAsked } } :=
      keeps_plain rfl rfl rfl rfl rfl rfl rfl rfl rfl rfl
    unfold askRestartSave
    dsimp only
    split
    · exact asked.trans (keeps_startSave _ _ _)
    · exact keeps_plain rfl rfl rfl rfl rfl rfl rfl rfl rfl rfl
  unfold restartSaveStart
  split
  · exact .refl s
  · exact ask
  · exact ask
  · exact .refl s

/-- An outcome that is a next state keeps what that state keeps. -/
theorem Keeps.of_next {s t u : State} (k : Keeps s u) (h : (.next u : Result) = .next t) : Keeps s t := by
  injection h with e
  exact e ▸ k

theorem keeps_execGalleryFrame (f : Frame) (s t : State) (h : execGalleryFrame f s = .next t) : Keeps s t := by
  refine Keeps.of_next ((keeps_taken (.galleryFrame f) s).trans ?_) h
  split
  · exact keeps_galleryFrame f _ _
  · exact .refl _

theorem keeps_execPlantFrame (f : Frame) (own : Byte) (s t : State) (h : execPlantFrame f own s = .next t) :
    Keeps s t := by
  refine Keeps.of_next ((keeps_taken (.plantFrame f own) s).trans ?_) h
  split
  · exact keeps_plantFrame f own _
  · exact .refl _

theorem keeps_execLoadEnd (s t : State) (h : execLoadEnd s = .next t) : Keeps s t := by
  refine Keeps.of_next ((keeps_taken .loadEnd s).trans ?_) h
  split
  · exact keeps_finishLoad _
  · exact .refl _

theorem keeps_request {rq : Requester} {e : Option Element} {s t : State} (h : request rq e s = .next t) : Keeps s t :=
  (keeps_serviceRequest rq [e] s).of_next h

/-- Every command keeps the invariants; a row that is a service request does so as the request does. -/
theorem keeps_exec (c : Instr) (s t : State) (h : exec c s = .next t) : Keeps s t := by
  cases c
  case reset pins => exact (keeps_resetPart pins s).of_next h
  case receiveCharacter p r => exact (keeps_receiveCharacter p r s).of_next h
  case gapTimerExpiry p => exact ((keeps_taken _ s).trans (keeps_gapTimerExpiry p _)).of_next h
  case galleryFrame f => exact keeps_execGalleryFrame f s t h
  case plantFrame f own => exact keeps_execPlantFrame f own s t h
  case presence f => exact ((keeps_taken _ s).trans (keeps_supervisionRestart _)).of_next h
  case clock f => exact ((keeps_takeClocks _ s).trans (keeps_calendarClock f _)).of_next h
  case restartSaveStart => exact ((keeps_taken _ s).trans (keeps_restartSaveStart _)).of_next h
  case plantTransmitComplete => exact ((keeps_taken _ s).trans (keeps_plantTransmitComplete _)).of_next h
  case galleryTransmitComplete => exact ((keeps_taken _ s).trans (lit_galleryTransmitComplete _).keeps).of_next h
  case replyWindowExpiry => exact ((keeps_taken _ s).trans (keeps_replyWindowExpiry _)).of_next h
  case turnaroundEnd => exact ((keeps_taken _ s).trans (lit_turnaroundEnd _).keeps).of_next h
  case pollDue => exact ((keeps_taken _ s).trans (lit_grant _).keeps).of_next h
  case settleExpiry g => exact ((keeps_taken _ s).trans (lit_settleExpiry g _).keeps).of_next h
  case supervisionExpiry => exact ((keeps_taken _ s).trans (keeps_supervisionExpiry _)).of_next h
  case pointAgeSecond => exact ((keeps_taken _ s).trans (keeps_points _ _)).of_next h
  case minuteTick m => exact (((keeps_taken _ s).trans (keeps_takeRolls _)).trans (keeps_minuteTick m _)).of_next h
  case hourRoll => exact (((keeps_rollsBefore _ s).trans (keeps_taken _ _)).trans (keeps_hourWork _)).of_next h
  case dayRoll d =>
    exact (((keeps_rollsBefore _ s).trans (keeps_taken _ _)).trans (keeps_dayFoldAndTests d _)).of_next h
  case pageComplete => exact ((keeps_taken _ s).trans (keeps_pageComplete _)).of_next h
  case pageWriteTimeout => exact ((keeps_taken _ s).trans (keeps_pageWriteTimeout _)).of_next h
  case loadEnd => exact keeps_execLoadEnd s t h
  all_goals exact keeps_request h

theorem keeps_pending (s : State) (l : List Instr) : Keeps s { s with pending := l } :=
  keeps_plain rfl rfl rfl rfl rfl rfl rfl rfl rfl rfl

theorem keeps_passTime (s : State) : Keeps s (passTime s) :=
  keeps_plain rfl rfl rfl rfl rfl rfl rfl rfl rfl rfl

theorem keeps_takeHanded (c : Instr) (s t : State) (h : takeHanded c s = .next t) : Keeps s t := by
  unfold takeHanded at h
  split at h
  · exact keeps_exec c s t h
  · exact (keeps_taken c s).of_next h

/-- Every step keeps the invariants: a command, an event handed on, or one unit of time. -/
theorem keeps_step (s t : State) (h : step s = .next t) : Keeps s t := by
  unfold step at h
  split at h
  · exact (keeps_pending s _).trans (keeps_exec _ _ t h)
  · split at h
    · exact keeps_takeHanded _ s t h
    · exact (keeps_passTime s).of_next h

theorem Keeps.bounded {s t : State} (h : Keeps s t) (b : Bounded s) : Bounded t :=
  ⟨h.queues b.queues, h.table b.table, h.rings b.rings, h.store b.store⟩

/-- Settles O55: every command, and the passing of time, keeps the invariants that `Keeps` collects. -/
theorem everyStepKeepsTheBounds : Obligations.EveryStepKeepsTheBounds := by
  unfold Obligations.EveryStepKeepsTheBounds
  exact fun s t b h => (keeps_step s t h).bounded b

end Sys2Proof.Machine
end

section
/-! PROOF. The frame assemblers (O7, O8): which complete frames are good, when a port takes characters, what counting
does, and what a start bit, a character and the gap timer do. -/

namespace Sys2Proof.Machine

/-! ### Payloads that are rows of octets (R7) -/

/-- A property of every `k`-th index, taken off the front. -/
theorem forall_stride (k n : Nat) (hk : 0 < k) (P : Nat → Prop) :
    (∀ i < n + k, i % k = 0 → P i) ↔ P 0 ∧ ∀ i < n, i % k = 0 → P (i + k) := by
  constructor
  · exact fun h => ⟨h 0 (by omega) (Nat.zero_mod k), fun i hi hm => h (i + k) (by omega) (by simp [hm])⟩
  · rintro ⟨h0, h⟩ i hi hm
    rcases Nat.lt_or_ge i k with lt | ge
    · rw [Nat.mod_eq_of_lt lt] at hm
      exact hm ▸ h0
    · have hs := h (i - k) (by omega) (by rw [← Nat.mod_eq_sub_mod ge]; exact hm)
      rwa [Nat.sub_add_cancel ge] at hs

theorem quantityOfCode_isSome (c : Nat) : (quantityOfCode c).isSome = true ↔ 1 ≤ c ∧ c ≤ 4 := by
  rcases c with _ | _ | _ | _ | _ | c <;> simp [quantityOfCode]

theorem qualityOfCode_isSome (c : Nat) : (qualityOfCode c).isSome = true ↔ c ≤ 3 := by
  rcases c with _ | _ | _ | _ | c <;> simp [qualityOfCode]

/-- R7: what the first two octets of a reading must be. -/
def readingOctetsGood (channel codes : Byte) : Prop :=
  channel.toNat ≤ 7 ∧ 1 ≤ codes.toNat / 16 ∧ codes.toNat / 16 ≤ 4 ∧ codes.toNat % 16 ≤ 3

/-- R7: what the three octets of an ECHO entry must be. -/
def echoOctetsGood (channel hi lo : Byte) : Prop := channel.toNat ≤ 3 ∧ hi.toNat * 256 + lo.toNat ≤ 1000

theorem toNat_halfOf (hi lo : Byte) : (halfOf hi lo).toNat = hi.toNat * 256 + lo.toNat := by
  have := lo.isLt
  unfold halfOf
  rw [BitVec.toNat_append, Nat.shiftLeft_eq, ← Nat.shiftLeft_eq, ← Nat.shiftLeft_add_eq_or_of_lt (by omega),
    Nat.shiftLeft_eq]

theorem readingsOf_cons_isSome (ch codes hi lo : Byte) (rest : List Byte) :
    (readingsOf (ch :: codes :: hi :: lo :: rest)).isSome = true ↔
      readingOctetsGood ch codes ∧ (readingsOf rest).isSome = true := by
  have hq := quantityOfCode_isSome (codes.toNat / 16)
  have hg := qualityOfCode_isSome (codes.toNat % 16)
  rw [readingsOf, readingOctetsGood, ← and_assoc (a := 1 ≤ codes.toNat / 16), ← hq, ← hg]
  cases quantityOfCode (codes.toNat / 16) <;> cases qualityOfCode (codes.toNat % 16) <;> cases readingsOf rest <;> simp

theorem echoEntriesOf_cons_isSome (ch hi lo : Byte) (rest : List Byte) :
    (echoEntriesOf (ch :: hi :: lo :: rest)).isSome = true ↔
      echoOctetsGood ch hi lo ∧ (echoEntriesOf rest).isSome = true := by
  rw [echoEntriesOf, echoOctetsGood, ← toNat_halfOf]
  cases echoEntriesOf rest <;> simp

/-- R7: a SAMPLE payload, four octets to a reading. -/
theorem readingsOf_isSome (l : List Byte) : (readingsOf l).isSome = true ↔
    l.length % 4 = 0 ∧ ∀ i < l.length, i % 4 = 0 → readingOctetsGood (l.getD i 0) (l.getD (i + 1) 0) := by
  induction l using readingsOf.induct with
  | case1 => simp [readingsOf]
  | case2 ch codes hi lo rest ih =>
    rw [readingsOf_cons_isSome, ih]
    have len : (rest.length + 4) % 4 = rest.length % 4 := Nat.add_mod_right _ _
    simp only [List.length_cons, Nat.add_assoc, Nat.reduceAdd, forall_stride 4 rest.length (by omega), len]
    simp
    tauto
  | case3 l h1 h2 =>
    have short : l.length % 4 ≠ 0 := by
      match l, h1, h2 with
      | [], h1, _ => exact absurd rfl h1
      | [_], _, _ => simp
      | [_, _], _, _ => simp
      | [_, _, _], _, _ => simp
      | _ :: _ :: _ :: _ :: _, _, h2 => exact absurd rfl (h2 _ _ _ _ _)
    rw [readingsOf]
    · simp [short]
    · exact h1
    · exact h2

/-- R7: an ECHO payload, three octets to an entry. -/
theorem echoEntriesOf_isSome (l : List Byte) : (echoEntriesOf l).isSome = true ↔
    l.length % 3 = 0 ∧ ∀ i < l.length, i % 3 = 0 →
      echoOctetsGood (l.getD i 0) (l.getD (i + 1) 0) (l.getD (i + 2) 0) := by
  induction l using echoEntriesOf.induct with
  | case1 => simp [echoEntriesOf]
  | case2 ch hi lo rest ih =>
    rw [echoEntriesOf_cons_isSome, ih]
    have len : (rest.length + 3) % 3 = rest.length % 3 := Nat.add_mod_right _ _
    simp only [List.length_cons, Nat.add_assoc, Nat.reduceAdd, forall_stride 3 rest.length (by omega), len]
    simp
    tauto
  | case3 l h1 h2 =>
    have short : l.length % 3 ≠ 0 := by
      match l, h1, h2 with
      | [], h1, _ => exact absurd rfl h1
      | [_], _, _ => simp
      | [_, _], _, _ => simp
      | _ :: _ :: _ :: _, _, h2 => exact absurd rfl (h2 _ _ _ _)
    rw [echoEntriesOf]
    · simp [short]
    · exact h1
    · exact h2

/-- R7: a LEVEL payload of four octets, with its channel and its fade. -/
theorem levelOf_good (l : List Byte) : (∃ p, levelOf l = some p ∧ p.channel ≤ 3 ∧ p.fade.toNat ≤ 60) ↔
    l.length = 4 ∧ (l.getD 0 0).toNat ≤ 3 ∧ (l.getD 3 0).toNat ≤ 60 := by
  unfold levelOf
  split
  · simp
  · rename_i n
    simp only [reduceCtorEq, false_and, exists_false, false_iff, not_and]
    intro four
    match l, four with
    | [a, b, c, d], _ => exact absurd rfl (n a b c d)

/-- R7 on the gallery port. -/
theorem galleryPayloadGood_iff (f : Frame) : galleryPayloadGood f = true ↔
    (f.kind = kindSample →
      f.payload.length ≠ 0 ∧ f.payload.length ≤ 32 ∧ (readingsOf f.payload).isSome = true) ∧
      (f.kind = kindTag → f.payload.length = 16) ∧
      (f.kind = kindEcho →
        f.payload.length ≠ 0 ∧ f.payload.length ≤ 12 ∧ (echoEntriesOf f.payload).isSome = true) := by
  unfold galleryPayloadGood
  have st : kindSample ≠ kindTag := by decide
  have se : kindSample ≠ kindEcho := by decide
  have te : kindTag ≠ kindEcho := by decide
  by_cases s : f.kind = kindSample
  · simp [s, st, se, and_assoc]
  · by_cases t : f.kind = kindTag
    · simp [t, st.symm, te]
    · by_cases e : f.kind = kindEcho
      · simp [e, se.symm, te.symm, and_assoc]
      · simp [s, t, e]

/-- R7 on the plant port. -/
theorem plantPayloadGood_iff (own : Byte) (f : Frame) : plantPayloadGood own f = true ↔
    (f.kind = kindClock → f.payload.length = 6) ∧ (f.kind = kindPresence → f.payload.length = 0) ∧
      (f.kind = kindLevel → f.dest ≠ own →
        f.payload.length = 4 ∧ (f.payload.getD 0 0).toNat ≤ 3 ∧ (f.payload.getD 3 0).toNat ≤ 60) := by
  rw [← levelOf_good]
  unfold plantPayloadGood
  have cp : kindClock ≠ kindPresence := by decide
  have cl : kindClock ≠ kindLevel := by decide
  have pl : kindPresence ≠ kindLevel := by decide
  by_cases c : f.kind = kindClock
  · simp [c, cp, cl]
  · by_cases p : f.kind = kindPresence
    · simp [p, cp.symm, pl]
    · by_cases l : f.kind = kindLevel
      · by_cases d : f.dest = own
        · simp [l, d, cl.symm, pl.symm]
        · cases levelOf f.payload <;> simp [l, d, cl.symm, pl.symm]
      · simp [c, p, l]

/-- R6: the three tests of a completed frame. -/
theorem frameGood_iff (p : PortId) (own : Byte) (f : Frame) : frameGood p own f = true ↔
    f.check = crc16 (f.dest :: f.src :: f.kind :: f.seq :: BitVec.ofNat 8 f.payload.length :: f.payload) ∧
      1 ≤ f.dest.toNat ∧ f.dest.toNat ≤ 127 ∧ 1 ≤ f.src.toNat ∧ f.src.toNat ≤ 126 ∧ payloadGood p own f = true := by
  simp only [frameGood, checkMatches, headerValid, coveredOctets, byteOfNat, Bool.and_eq_true, beq_iff_eq,
    decide_eq_true_eq, and_assoc]

/-! ### When a port takes characters (R8, R18) -/

theorem gdeAsserted_iff (s : State) :
    gdeAsserted s = false ↔ ∀ tr e, s.line = .busy tr → tr.phase ≠ .sending e := by
  unfold gdeAsserted
  cases s.line with
  | busy t =>
    obtain ⟨_, _, _, _, phase, _⟩ := t
    cases phase with
    | sending e => simp
    | window e =>
      simp only [true_iff]
      rintro tr e' ⟨⟩
      simp
  | _ => simp

theorem portOn_iff (s : State) (p : PortId) : portOn s p = true ↔ s.loading = false ∧ match p with
    | .gallery => s.device.galleryEnable = true
    | .plant => s.device.plantEnable = true := by
  cases p <;> simp [portOn]

theorem receiving_plant_iff (s : State) :
    receiving s .plant = true ↔ s.loading = false ∧ s.device.plantEnable = true := by
  simp [receiving, portOn]

theorem receiving_gallery_iff (s : State) : receiving s .gallery = true ↔
    s.loading = false ∧ s.device.galleryEnable = true ∧ ∀ tr e, s.line = .busy tr → tr.phase ≠ .sending e := by
  simp [receiving, portOn, ← gdeAsserted_iff, and_assoc]

/-! ### Counting (R154) -/

theorem counter_modifyAt (v : Vector Counter 17) (k : Nat) (f : Counter → Counter) (i : Nat) (h : i < 17) :
    (modifyAt v k f)[i] = if i = k then f v[i] else v[i] := by
  have e := getElem?_modifyAt v k i f
  rw [Vector.getElem?_eq_getElem h, Vector.getElem?_eq_getElem h] at e
  by_cases c : k = i
  · simp [c] at e; simp [c, e]
  · simp [c] at e; simp [Ne.symm c, e]

/-- What counting leaves in each counter. -/
theorem getElem_counters_countMany (c : CounterId) (n : Nat) (s : State) (i : Nat) (h : i < 17) :
    (countMany c n s).counters[i] = if i = counterIndex c then bumpCounter n s.counters[i] else s.counters[i] :=
  counter_modifyAt _ _ _ i h

/-! ### The events of an assembler (R3 to R5) -/

theorem exec_receiveCharacter (p : PortId) (r : Reception) (s : State) :
    exec (.receiveCharacter p r) s = .next (receiveCharacter p r s) := rfl

theorem receiveCharacter_deaf (p : PortId) (r : Reception) (s : State) (h : receiving s p = false) :
    receiveCharacter p r s = s := by simp [receiveCharacter, h]

theorem receiveCharacter_startBit (p : PortId) (s : State) (h : receiving s p = true) :
    receiveCharacter p .startBit s = startCharacter p s := by simp [receiveCharacter, h]

theorem receiveCharacter_ended (p : PortId) (c : Character) (s : State) (h : receiving s p = true) :
    receiveCharacter p (.ended c) s = endCharacter p c s := by simp [receiveCharacter, h]

/-- R3: a character in HUNT. -/
theorem endCharacter_hunt (p : PortId) (c : Character) (s : State) (h : assemblerOf s p = .hunt) :
    endCharacter p c s =
      if c.stopGood && c.marker then setAssembler p (.collect [c.octet] (some s.now)) s else s := by
  simp [endCharacter, h, huntChar, startFrame]

theorem endCharacter_collect (p : PortId) (c : Character) (s : State) (octets : List Byte) (gap : Option Nat)
    (h : assemblerOf s p = .collect octets gap) : endCharacter p c s = collectChar p octets c s := by
  simp [endCharacter, h]

theorem collectChar_badStop (p : PortId) (octets : List Byte) (c : Character) (s : State) (h : c.stopGood = false) :
    collectChar p octets c s = count (charErrorCounter p) (setAssembler p .hunt s) := by
  simp [collectChar, h, abandonFrame]

/-- R5: a marker character starts a frame anew. -/
theorem collectChar_marker (p : PortId) (octets : List Byte) (c : Character) (s : State) (h : c.stopGood = true)
    (m : c.marker = true) :
    collectChar p octets c s = count (charErrorCounter p) (setAssembler p (.collect [c.octet] (some s.now)) s) := by
  simp only [collectChar, h, m, Bool.not_true, Bool.false_eq_true, if_false, if_true]
  cases p <;> rfl

theorem collectChar_octet (p : PortId) (octets : List Byte) (c : Character) (s : State) (h : c.stopGood = true)
    (m : c.marker = false) : collectChar p octets c s = collectOctet p octets c.octet s := by
  simp [collectChar, h, m]

theorem collectOctet_oversize (p : PortId) (octets : List Byte) (b : Byte) (s : State) (h : octets.length = 4)
    (l : 48 < b.toNat) : collectOctet p octets b s = count (charErrorCounter p) (setAssembler p .hunt s) := by
  simp [collectOctet, oversize, h, l, abandonFrame]

theorem collectOctet_partial (p : PortId) (octets : List Byte) (b : Byte) (s : State)
    (h : ¬(octets.length = 4 ∧ 48 < b.toNat)) (n : frameOfOctets (octets ++ [b]) = none) :
    collectOctet p octets b s = setAssembler p (.collect (octets ++ [b]) (some s.now)) s := by
  simp only [collectOctet, oversize, h, decide_false, Bool.false_eq_true, if_false, n]

theorem ownOctet_setAssembler (p : PortId) (a : Assembler) (s : State) :
    ownOctet (setAssembler p a s) = ownOctet s := by
  cases p <;> rfl

theorem collectOctet_complete (p : PortId) (octets : List Byte) (b : Byte) (s : State) (f : Frame)
    (h : ¬(octets.length = 4 ∧ 48 < b.toNat)) (n : frameOfOctets (octets ++ [b]) = some f) :
    collectOctet p octets b s =
      if frameGood p (ownOctet s) f then
        handOn (frameEvent p (ownOctet s) f) (count (goodCounter p) (noteArrival p f (setAssembler p .hunt s)))
      else count (checkErrorCounter p) (setAssembler p .hunt s) := by
  simp only [collectOctet, oversize, h, decide_false, Bool.false_eq_true, if_false, n, judgeFrame,
    ownOctet_setAssembler]

theorem assemblerOf_taken (c : Instr) (s : State) (p : PortId) : assemblerOf (taken c s) p = assemblerOf s p := by
  cases p <;> rfl

/-- Settles O8: a marker in a frame counts an error and starts the next frame (`collectChar_marker`). -/
theorem markerRestartsFrame : Obligations.MarkerRestartsFrame := by
  unfold Obligations.MarkerRestartsFrame
  intro p c s octets gap hr ha hm hs
  rw [exec_receiveCharacter, receiveCharacter_ended p c s hr, endCharacter_collect p c s octets gap ha,
    collectChar_marker p octets c s hs hm]

/-- Which event a good frame is handed on as. -/
theorem frameEvent_plant (own : Byte) (f : Frame) :
    let toPart := f.dest = own ∨ f.dest = 127
    (toPart → f.kind = 0x41 → frameEvent .plant own f = .presence f) ∧
      (toPart → f.kind = 0x40 → frameEvent .plant own f = .clock f) ∧
      (¬toPart ∨ f.kind ≠ 0x41 ∧ f.kind ≠ 0x40 → frameEvent .plant own f = .plantFrame f own) := by
  have e : frameEvent .plant own f =
      if (f.dest = own ∨ f.dest = 127) ∧ f.kind = 0x41 then .presence f
      else if (f.dest = own ∨ f.dest = 127) ∧ f.kind = 0x40 then .clock f else .plantFrame f own := rfl
  refine ⟨fun d k => ?_, fun d k => ?_, fun h => ?_⟩
  · rw [e, if_pos ⟨d, k⟩]
  · rw [e, if_neg (fun h => absurd (k.symm.trans h.2) (by decide)), if_pos ⟨d, k⟩]
  · rw [e, if_neg (fun k => h.elim (· k.1) (·.1 k.2)), if_neg (fun k => h.elim (· k.1) (·.2 k.2))]

/-- Settles O7: which frames are good (`frameGood_iff`), and each case of the assembler by its equation. -/
theorem assemblerTakesCharacters : Obligations.AssemblerTakesCharacters := by
  unfold Obligations.AssemblerTakesCharacters
  refine ⟨fun p own f => ⟨?_, rfl, frameEvent_plant own f⟩, fun s => ⟨receiving_plant_iff s, receiving_gallery_iff s⟩,
    fun c n s => ⟨fun i => getElem_counters_countMany c n s i i.isLt, rfl, rfl, fun _ => rfl⟩, by decide,
    fun p r s h => by rw [exec_receiveCharacter, receiveCharacter_deaf p r s h], fun p s h => ⟨fun ha => ?_, ?_⟩,
    fun p c s h => ⟨fun ha => ?_, fun octets gap ha => ⟨fun stop => ?_, fun stop m l b => ?_, fun stop m nl =>
      ⟨fun n => ?_, fun f n => ?_⟩⟩⟩, fun p s => ⟨fun ha => ?_, fun octets e ha => ?_⟩⟩
  · rw [frameGood_iff]
    cases p
    · rw [payloadGood, galleryPayloadGood_iff, readingsOf_isSome, echoEntriesOf_isSome]
      exact Iff.rfl
    · rw [payloadGood, plantPayloadGood_iff]
      exact Iff.rfl
  · simp [exec_receiveCharacter, receiveCharacter_startBit p s h, startCharacter, ha]
  · intro octets gap ha
    simp [exec_receiveCharacter, receiveCharacter_startBit p s h, startCharacter, ha]
  · rw [exec_receiveCharacter, receiveCharacter_ended p c s h, endCharacter_hunt p c s ha]
  · rw [exec_receiveCharacter, receiveCharacter_ended p c s h, endCharacter_collect p c s _ _ ha,
      collectChar_badStop p _ c s stop]
  · rw [exec_receiveCharacter, receiveCharacter_ended p c s h, endCharacter_collect p c s _ _ ha,
      collectChar_octet p _ c s stop m, collectOctet_oversize p _ _ s l b]
  · rw [exec_receiveCharacter, receiveCharacter_ended p c s h, endCharacter_collect p c s _ _ ha,
      collectChar_octet p _ c s stop m, collectOctet_partial p _ _ s nl n]
  · rw [exec_receiveCharacter, receiveCharacter_ended p c s h, endCharacter_collect p c s _ _ ha,
      collectChar_octet p _ c s stop m, collectOctet_complete p _ _ s f nl n]
  · show Host.Outcome.next (gapTimerExpiry p (taken (.gapTimerExpiry p) s)) = _
    rcases ha with ha | ⟨octets, ha⟩ <;> simp [gapTimerExpiry, assemblerOf_taken, ha]
  · show Host.Outcome.next (gapTimerExpiry p (taken (.gapTimerExpiry p) s)) = _
    simp [gapTimerExpiry, assemblerOf_taken, ha, abandonFrame]

end Sys2Proof.Machine
end

section
/-! PROOF. The octets and characters of frames (O9): the CHECK octet by octet, the payload layouts, the completion of a
frame at its second CHECK octet, and the characters that the ports send. -/

namespace Sys2Proof.Machine

/-! ### The CHECK (R179) -/

theorem crcShift_eq (r : Half) : crcShift r = if r.getLsbD 15 then (r <<< 1) ^^^ 0x1021 else r <<< 1 := by
  rw [crcShift, BitVec.msb_eq_getLsbD_last]
  rfl

/-- A fold that does not look at the elements is an iteration. -/
theorem foldl_const_eq_iterate {α β : Type} (f : β → β) (l : List α) (b : β) :
    l.foldl (fun x _ => f x) b = f^[l.length] b := by
  induction l generalizing b with
  | nil => rfl
  | cons a l ih => rw [List.foldl_cons, ih, List.length_cons, Function.iterate_succ_apply]

theorem crc16_append (octets : List Byte) (b : Byte) :
    crc16 (octets ++ [b]) = crcShift^[8] (crc16 octets ^^^ (b ++ (0 : Byte))) := by
  rw [crc16, List.foldl_append, List.foldl_cons, List.foldl_nil, crcOctet, foldl_const_eq_iterate, List.length_range]
  rfl

/-! ### Payloads -/

/-- R60: one reading in front of a SAMPLE payload. -/
theorem readingsOf_cons (ch codes hi lo : Byte) (rest : List Byte) (q : Quantity) (g : Quality) (h : ch.toNat ≤ 7)
    (hq : quantityOfCode (codes.toNat / 16) = some q) (hg : qualityOfCode (codes.toNat % 16) = some g) :
    readingsOf (ch :: codes :: hi :: lo :: rest) = (readingsOf rest).map fun rs =>
      ⟨ch.toNat, q, g, hi ++ lo⟩ :: rs := by
  rw [readingsOf, hq, hg]
  cases readingsOf rest with
  | none => rfl
  | some rs => simp [h, halfOf]

theorem quantityOfCode_of_listed (c : Nat) (q : Quantity)
    (h : [none, some Quantity.illum, some .uvr, some .temp, some .rh][c]? = some (some q)) :
    quantityOfCode c = some q := by
  rcases c with _ | _ | _ | _ | _ | c <;> simp_all [quantityOfCode]

theorem qualityOfCode_of_listed (c : Nat) (g : Quality)
    (h : [Quality.good, .over, .under, .fault][c]? = some g) : qualityOfCode c = some g := by
  rcases c with _ | _ | _ | _ | c <;> simp_all [qualityOfCode]

theorem echoEntriesOf_cons (ch hi lo : Byte) (rest : List Byte) (h : ch.toNat ≤ 3)
    (l : (hi ++ lo : Half).toNat ≤ 1000) :
    echoEntriesOf (ch :: hi :: lo :: rest) =
      (echoEntriesOf rest).map fun es => ⟨ch.toNat, (hi ++ lo : Half).toNat⟩ :: es := by
  rw [echoEntriesOf]
  have l' : (halfOf hi lo).toNat ≤ 1000 := l
  cases echoEntriesOf rest with
  | none => rfl
  | some es =>
    simp only [Option.bind_eq_bind, Option.bind_some, h, l', and_self, if_true, Option.map_some]
    rfl

theorem levelOf_of_length (l : List Byte) (h : l.length ≠ 4) : levelOf l = none := by
  unfold levelOf
  split
  · exact absurd rfl h
  · rfl

theorem clockOf_of_length (l : List Byte) (h : l.length ≠ 6) : clockOf l = none := by
  unfold clockOf
  split
  · exact absurd rfl h
  · rfl

/-- The 16-bit values of an even run of octets, one by one. -/
theorem getD_halvesOf (l : List Byte) (i : Nat) (h : 2 * i + 1 < l.length) :
    (halvesOf l).getD i 0 = (l.getD (2 * i) 0 ++ l.getD (2 * i + 1) 0 : Half) := by
  induction l using halvesOf.induct generalizing i with
  | case1 hi lo rest ih =>
    rw [halvesOf]
    cases i with
    | zero => rfl
    | succ i =>
      have r := ih i (by simp only [List.length_cons] at h; omega)
      simpa [Nat.mul_add] using r
  | case2 l n =>
    match l, n with
    | [], _ => simp at h
    | [_], _ => simp at h
    | a :: b :: rest, n => exact absurd rfl (n a b rest)

theorem getElem_tagOf (l : List Byte) (h : l.length = 16) (i : Fin 8) :
    (tagOf l)[i] = (l.getD (2 * i.val) 0 ++ l.getD (2 * i.val + 1) 0 : Half) := by
  have := i.isLt
  rw [tagOf]
  simp only [Fin.getElem_fin, Vector.getElem_ofFn]
  exact getD_halvesOf l i (by omega)

/-! ### A frame completes at its second CHECK octet (R3) -/

theorem length_frameOctets (f : Frame) : (frameOctets f).length = 7 + f.payload.length := by
  simp [frameOctets, coveredOctets, octetsOf]
  omega

theorem halfOf_octets (h : Half) : halfOf (h.extractLsb' 8 8) (h.extractLsb' 0 8) = h := by
  unfold halfOf
  ext i hi
  rw [BitVec.getElem_append]
  split
  · simp only [BitVec.getElem_extractLsb', Nat.zero_add]
    exact BitVec.getLsbD_eq_getElem hi
  · simp only [BitVec.getElem_extractLsb', show 8 + (i - 8) = i by omega]
    exact BitVec.getLsbD_eq_getElem hi

/-- The octets that a row of octets must hold for a frame of the given length: those that `frameOfOctets` asks for. -/
theorem frameOfOctets_of_length (d s k q len : Byte) (rest : List Byte) (h : rest.length ≠ len.toNat + 2) :
    frameOfOctets (d :: s :: k :: q :: len :: rest) = none := by
  simp [frameOfOctets, h]

theorem toNat_lengthOctet (f : Frame) (h : f.payload.length ≤ 48) :
    (byteOfNat f.payload.length).toNat = f.payload.length :=
  toNat_byteOfNat _ (by omega)

theorem frameOfOctets_frameOctets (f : Frame) (h : f.payload.length ≤ 48) : frameOfOctets (frameOctets f) = some f := by
  have len := toNat_lengthOctet f h
  simp only [frameOctets, coveredOctets, List.cons_append, frameOfOctets, len, octetsOf, List.length_append,
    List.length_cons, List.length_nil, if_true, List.take_left']
  simp [halfOf_octets]

theorem frameOfOctets_short (l : List Byte) (h : l.length < 5) : frameOfOctets l = none := by
  match l, h with
  | [], _ => rfl
  | [_], _ => rfl
  | [_, _], _ => rfl
  | [_, _, _], _ => rfl
  | [_, _, _, _], _ => rfl
  | _ :: _ :: _ :: _ :: _ :: _, h => simp only [List.length_cons] at h; omega

/-- No proper initial part of a frame's octets is complete. -/
theorem frameOfOctets_take (f : Frame) (h : f.payload.length ≤ 48) (k : Nat) (hk : k < (frameOctets f).length) :
    frameOfOctets ((frameOctets f).take k) = none := by
  have len := toNat_lengthOctet f h
  rw [length_frameOctets] at hk
  rcases Nat.lt_or_ge k 5 with short | long
  · exact frameOfOctets_short _ (by simp; omega)
  · obtain ⟨m, rfl⟩ : ∃ m, k = m + 5 := ⟨k - 5, by omega⟩
    simp only [frameOctets, coveredOctets, List.cons_append, List.take_succ_cons]
    refine frameOfOctets_of_length _ _ _ _ _ _ ?_
    simp only [len, List.length_take, List.length_append, octetsOf, List.length_cons, List.length_nil]
    omega

/-! ### Characters (R1) -/

theorem length_charactersOf (l : List Byte) : (charactersOf l).length = l.length := by
  cases l <;> simp [charactersOf]

theorem octets_charactersOf (l : List Byte) : (charactersOf l).map Character.octet = l := by
  cases l with
  | nil => rfl
  | cons b l => simp [charactersOf, Function.comp_def]

/-- R1: the marker is on the first character alone, and every stop bit is 1. -/
theorem charactersOf_bits (l : List Byte) (i : Nat) (c : Character) (h : (charactersOf l)[i]? = some c) :
    c.stopGood = true ∧ (c.marker = true ↔ i = 0) := by
  cases l with
  | nil => simp [charactersOf] at h
  | cons b l =>
    cases i with
    | zero => simp [charactersOf] at h; simp [← h]
    | succ i =>
      simp [charactersOf] at h
      obtain ⟨x, _, rfl⟩ := h
      simp

theorem characterBits_eq (c : Character) : characterBits c =
    [false, c.octet.getLsbD 0, c.octet.getLsbD 1, c.octet.getLsbD 2, c.octet.getLsbD 3, c.octet.getLsbD 4,
      c.octet.getLsbD 5, c.octet.getLsbD 6, c.octet.getLsbD 7, c.marker, c.stopGood] := rfl

theorem characterBits_data (c : Character) (i : Nat) (h : i < 8) :
    (characterBits c)[i + 1]? = some (c.octet.getLsbD i) := by
  rw [characterBits_eq]
  interval_cases i <;> rfl

theorem gallerySends_sending (s : State) (tr : Transaction) (e : Nat) (h : s.line = .busy tr)
    (p : tr.phase = .sending e) : gallerySends s = charactersOf (frameOctets tr.frame) := by
  simp [gallerySends, h, p]

theorem plantSends_inFlight (s : State) (tx : PlantTx) (h : s.plantTx = some tx) :
    plantSends s = charactersOf (frameOctets tx.frame) := by
  simp [plantSends, h]

/-- Settles O9: the CRC octet by octet (`crc16_append`), the payload forms, and the frame out of its own octets
(`frameOfOctets_frameOctets`). -/
theorem frameCompletesAtItsCheck : Obligations.FrameCompletesAtItsCheck := by
  unfold Obligations.FrameCompletesAtItsCheck
  refine ⟨⟨rfl, fun octets b => ?_, by decide +kernel⟩, fun f => rfl, fun _ _ _ _ _ => rfl, rfl, fun _ => rfl,
    ⟨rfl, fun ch codes hi lo rest q g h hq hg => ?_⟩, ⟨rfl, echoEntriesOf_cons⟩, fun payload => ⟨?_, ?_,
      levelOf_of_length payload, clockOf_of_length payload, getElem_tagOf payload⟩, fun _ _ _ => rfl,
    fun s p => ?_, rfl,
    fun f h => ⟨frameOfOctets_frameOctets f h, frameOfOctets_take f h⟩,
    fun f => ⟨by rw [length_charactersOf, length_frameOctets], octets_charactersOf _, charactersOf_bits _⟩,
    fun c => ⟨rfl, rfl, characterBits_data c, rfl, rfl⟩, gallerySends_sending, plantSends_inFlight⟩
  · rw [crc16_append, funext crcShift_eq]
  · exact readingsOf_cons ch codes hi lo rest q g h (quantityOfCode_of_listed _ q hq) (qualityOfCode_of_listed _ g hg)
  · rintro ch hi lo fade rfl
    rfl
  · rintro y1 y0 d1 d0 m1 m0 rfl
    rfl
  · cases p
    · cases h : s.device.galleryRate <;> simp [charUnits, h, galleryCharUnits, unitsPerSecond]
    · cases h : s.device.plantRate <;> simp [charUnits, h, plantCharUnits, unitsPerSecond]

end Sys2Proof.Machine
end

section
/-! PROOF. The plant port (O10, O12): the arbiter's take, the offers to its two queues, and the RESTART reply that is
gone. -/

namespace Sys2Proof.Machine

/-! ### The arbiter (R17) -/

theorem plantTake_busy (s : State) (h : s.plantTx ≠ none) : plantTake s = s := by
  unfold plantTake
  split
  · rfl
  · rename_i n; exact absurd n h

theorem plantTake_empty (s : State) (g : s.g2p = []) (o : s.plantOrigin = []) : plantTake s = s := by
  unfold plantTake
  split
  · rfl
  · simp [g, o]

theorem plantTake_g2p (s : State) (f : Frame) (rest : List Frame) (n : s.plantTx = none) (g : s.g2p = f :: rest)
    (o : s.plantOrigin = [] ∨ s.turn = .origin) : plantTake s = takeG2p f rest s := by
  simp only [plantTake, n, g]
  rcases o with o | o
  · simp [o]
  · cases s.plantOrigin <;> simp [o]

theorem plantTake_origin (s : State) (o : OriginFrame) (rest : List OriginFrame) (n : s.plantTx = none)
    (h : s.plantOrigin = o :: rest) (g : s.g2p = [] ∨ s.turn = .g2p) : plantTake s = takeOrigin o rest s := by
  simp only [plantTake, n, h]
  rcases g with g | g
  · simp [g]
  · cases s.g2p <;> simp [g]

/-- R167: a RESTART's reply that is gone changes the handed list and the procedure, if anything. -/
theorem restartReplyGone_frame (s : State) :
    ∃ hd pr, restartReplyGone s = { s with handed := hd, procedure := pr } := by
  unfold restartReplyGone
  split
  · exact ⟨_, _, rfl⟩
  · exact ⟨s.handed, s.procedure, rfl⟩

theorem restartReplyGone_waiting (s : State) (h : s.procedure.restart = .awaitingReply) :
    restartReplyGone s = { s with
      handed := s.handed ++ [.restartSaveStart], procedure := { s.procedure with restart := .replyGone } } := by
  simp [restartReplyGone, h, handOn]

theorem restartReplyGone_other (s : State) (h : s.procedure.restart ≠ .awaitingReply) : restartReplyGone s = s := by
  simp [restartReplyGone, h]

/-- R17: the end of a frame in flight leaves the transmitter free, and the arbiter takes. -/
theorem plantTransmitComplete_inFlight (s : State) (tx : PlantTx) (h : s.plantTx = some tx) :
    plantTransmitComplete s = plantTake (if tx.ofRestart then restartReplyGone { s with plantTx := none }
      else { s with plantTx := none }) := by
  simp [plantTransmitComplete, h]

/-- Settles O10: the end of a transmission frees the arbiter, which then takes by `plantTake_g2p` and
`plantTake_origin`. -/
theorem arbiterTakesByTurn : Obligations.ArbiterTakesByTurn := by
  unfold Obligations.ArbiterTakesByTurn
  intro s tx h u0 u
  obtain ⟨hd, pr, hu⟩ : ∃ hd pr, u = { taken .plantTransmitComplete s with
      plantTx := none, handed := hd, procedure := pr } := by
    by_cases r : tx.ofRestart = true
    · obtain ⟨hd, pr, e⟩ := restartReplyGone_frame u0
      exact ⟨hd, pr, by simp only [u, if_pos r, e, u0]⟩
    · exact ⟨_, _, by simp only [u, if_neg r]; rfl⟩
  have run : exec .plantTransmitComplete s = .next (plantTake u) :=
    congrArg Host.Outcome.next (plantTransmitComplete_inFlight (taken .plantTransmitComplete s) tx h)
  rw [run]
  clear_value u
  subst hu
  refine ⟨fun g o => ?_, fun f rest g o => ?_, fun o rest q g => ?_⟩
  · exact congrArg Host.Outcome.next (plantTake_empty _ g o)
  · exact congrArg Host.Outcome.next (plantTake_g2p _ f rest rfl g o)
  · exact congrArg Host.Outcome.next (plantTake_origin _ o rest rfl q g)

/-! ### Offers (R14, R16) -/

theorem dropOrigin_eq (o : OriginFrame) (s : State) : dropOrigin o s =
    if o.tag = .reply true ∧ s.procedure.restart = .awaitingReply then
      { count .plantOriginDrops s with
        handed := s.handed ++ [.restartSaveStart], procedure := { s.procedure with restart := .replyGone } }
    else count .plantOriginDrops s := by
  unfold dropOrigin
  by_cases r : o.tag = .reply true
  · by_cases w : s.procedure.restart = .awaitingReply
    · simp only [if_pos r, if_pos (And.intro r w)]
      exact restartReplyGone_waiting _ w
    · simp only [if_pos r, w, and_false, if_false]
      exact restartReplyGone_other _ w
  · simp [r]

theorem replacesTrim_iff (o w : OriginFrame) :
    replacesTrim o w = true ↔ ∃ z, o.tag = .trim z ∧ w.tag = .trim z := by
  unfold replacesTrim
  cases h : o.tag <;> simp

theorem offerOrigin_off (o : OriginFrame) (s : State) (h : portOn s .plant = false) :
    offerOrigin o s = dropOrigin o s := by simp [offerOrigin, h]

/-- R16: a TRIM takes the place of the one that waits for its zone. -/
theorem offerOrigin_replaces (o : OriginFrame) (s : State) (h : portOn s .plant = true)
    (w : ∃ w ∈ s.plantOrigin, ∃ z, o.tag = .trim z ∧ w.tag = .trim z) :
    offerOrigin o s = { s with plantOrigin := s.plantOrigin.map fun w => if w.tag = o.tag then o else w } := by
  obtain ⟨w, hw, z, ho, hz⟩ := w
  have some' : s.plantOrigin.any (replacesTrim o) = true :=
    List.any_eq_true.mpr ⟨w, hw, (replacesTrim_iff o w).mpr ⟨z, ho, hz⟩⟩
  have same : ∀ v : OriginFrame, replacesTrim o v = (v.tag == o.tag) := fun v => by simp [replacesTrim, ho]
  simp [offerOrigin, h, some', same]

/-- R14: an offer that finds no TRIM to replace joins the queue where there is room, and the arbiter takes. -/
theorem offerOrigin_joins (o : OriginFrame) (s : State) (h : portOn s .plant = true)
    (w : ∀ w ∈ s.plantOrigin, ¬∃ z, o.tag = .trim z ∧ w.tag = .trim z) :
    offerOrigin o s = if s.plantOrigin.length < 24 then plantTake { s with plantOrigin := s.plantOrigin ++ [o] }
      else dropOrigin o s := by
  have none' : s.plantOrigin.any (replacesTrim o) = false :=
    List.any_eq_false.mpr fun v hv => by rw [replacesTrim_iff]; exact w v hv
  rw [offerOrigin, h, none']
  rfl

theorem offerG2p_dropped (f : Frame) (s : State) (h : portOn s .plant = false ∨ 16 ≤ s.g2p.length) :
    offerG2p f s = count .g2pDrops s := by
  unfold offerG2p g2pCapacity
  rcases h with h | h
  · simp [h]
  · simp [Nat.not_lt.mpr h]

theorem offerG2p_joins (f : Frame) (s : State) (h : portOn s .plant = true) (l : s.g2p.length < 16) :
    offerG2p f s = plantTake { s with g2p := s.g2p ++ [f] } := by
  simp [offerG2p, g2pCapacity, h, l]

/-- R2, R17: an own frame offered to a free transmitter is taken at once. -/
theorem plantTake_ownFrame (o : OriginFrame) (s : State) (q : s.plantOrigin = []) (g : s.g2p = [])
    (n : s.plantTx = none) :
    plantTake { s with plantOrigin := s.plantOrigin ++ [o] } = { s with
      turn := .origin, plantSeq := s.plantSeq + 1
      plantTx := some ⟨buildFrame o.dest (ownOctet s) o.kind s.plantSeq o.payload, .origin, o.tag == .reply true,
        s.now + (7 + o.payload.length) * charUnits s .plant⟩ } := by
  rw [plantTake_origin { s with plantOrigin := s.plantOrigin ++ [o] } o [] n (by simp [q]) (.inl g), takeOrigin]
  simp only [← q]
  rfl

theorem plantTake_forwarded (f : Frame) (s : State) (g : s.g2p = []) (q : s.plantOrigin = []) (n : s.plantTx = none) :
    plantTake { s with g2p := s.g2p ++ [f] } = { s with
      turn := .g2p
      plantTx := some ⟨f, .g2p, false, s.now + (7 + f.payload.length) * charUnits s .plant⟩ } := by
  rw [plantTake_g2p { s with g2p := s.g2p ++ [f] } f [] n (by simp [g]) (.inl q), takeG2p]
  simp only [← g]
  rfl

/-- Settles O12: an offer is dropped, replaces or joins (`offerOrigin_joins`, `offerG2p_joins`), and the
arbiter takes. -/
theorem offerToPlantOrigin : Obligations.OfferToPlantOrigin := by
  unfold Obligations.OfferToPlantOrigin
  refine ⟨fun s => ⟨portOn_iff s, rfl⟩, fun o s => ⟨fun off => ?_, fun on w => ?_, fun on w => ?_⟩,
    fun f s => ⟨offerG2p_dropped f s, fun on l busy => ?_, fun on g q n => ?_⟩⟩
  · rw [offerOrigin_off o s off, dropOrigin_eq]
  · exact ⟨_, offerOrigin_replaces o s on w, List.length_map _, fun i w h => by simp [h]⟩
  · rw [offerOrigin_joins o s on w]
    refine ⟨fun full => ?_, fun room busy => ?_, fun q g n => ?_⟩
    · rw [if_neg (by omega), dropOrigin_eq]
    · rw [if_pos room]
      exact plantTake_busy _ busy
    · rw [if_pos (by simp [q]), plantTake_ownFrame o s q g n]
      rfl
  · rw [offerG2p_joins f s on l]
    exact plantTake_busy _ busy
  · rw [offerG2p_joins f s on (by simp [g]), plantTake_forwarded f s g q n]

/-! ### The line's own steps and strays (R8, R23, R33, R35) -/

theorem galleryTransmitComplete_awaited (s : State) (tr : Transaction) (e : Nat) (a : Byte) (h : s.line = .busy tr)
    (p : tr.phase = .sending e) (w : tr.awaited = some a) : galleryTransmitComplete s = openWindow tr s := by
  simp [galleryTransmitComplete, h, p, w]

theorem galleryTransmitComplete_unawaited (s : State) (tr : Transaction) (e : Nat) (h : s.line = .busy tr)
    (p : tr.phase = .sending e) (w : tr.awaited = none) : galleryTransmitComplete s = beginTurnaround s := by
  simp [galleryTransmitComplete, h, p, w]

/-- Settles O13, by whether the transaction awaits a reply. -/
theorem transmissionOpensWindow : Obligations.TransmissionOpensWindow := by
  unfold Obligations.TransmissionOpensWindow
  intro s tr e hl hp u
  have run : exec .galleryTransmitComplete s = .next (galleryTransmitComplete u) := rfl
  rw [run]
  refine ⟨fun a => ?_, fun a => ?_⟩
  · obtain ⟨x, hx⟩ := Option.ne_none_iff_exists'.mp a
    exact congrArg Host.Outcome.next (galleryTransmitComplete_awaited u tr e x hl hp hx)
  · exact congrArg Host.Outcome.next (galleryTransmitComplete_unawaited u tr e hl hp a)

/-- R35: GALLERY_FRAME of a good frame is the scheduler's `galleryFrame`. -/
theorem exec_galleryFrame (f : Frame) (s : State) (h : frameGood .gallery (ownOctet s) f = true) :
    exec (.galleryFrame f) s =
      .next (galleryFrame f (s.handed.contains (.galleryFrame f)) (taken (.galleryFrame f) s)) := by
  show execGalleryFrame f s = _
  have own : ownOctet (taken (.galleryFrame f) s) = ownOctet s := rfl
  simp [execGalleryFrame, own, h]

theorem galleryFrame_free (f : Frame) (w : Bool) (s : State) (h : s.line = .free) :
    galleryFrame f w s = count .galleryStrays s := by simp [galleryFrame, h]

theorem galleryFrame_turnaround (f : Frame) (w : Bool) (s : State) (e : Nat) (h : s.line = .turnaround e) :
    galleryFrame f w s = count .galleryStrays s := by simp [galleryFrame, h]

theorem galleryFrame_window (f : Frame) (w : Bool) (s : State) (tr : Transaction) (e : Nat) (h : s.line = .busy tr)
    (p : tr.phase = .window e) : galleryFrame f w s = frameInWindow tr f w s := by simp [galleryFrame, h, p]

theorem galleryFrame_sending (f : Frame) (w : Bool) (s : State) (tr : Transaction) (e : Nat) (h : s.line = .busy tr)
    (p : tr.phase = .sending e) : galleryFrame f w s = frameAtDeafPort w s := by simp [galleryFrame, h, p]

theorem galleryFrame_off (f : Frame) (w : Bool) (s : State) (h : s.line = .off) :
    galleryFrame f w s = frameAtDeafPort w s := by simp [galleryFrame, h]

theorem frameInWindow_stray (tr : Transaction) (f : Frame) (w : Bool) (s : State)
    (h : answersWindow tr f w = false) : frameInWindow tr f w s = count .galleryStrays s := by
  simp [frameInWindow, h]

/-- Settles O19, by the state of the line: deaf while SENDING, and elsewhere a window that the frame does not answer. -/
theorem strayIsCountedAndDiscarded : Obligations.StrayIsCountedAndDiscarded := by
  unfold Obligations.StrayIsCountedAndDiscarded
  refine ⟨fun r s tr e hl hp => ?_, fun f s good h => ?_⟩
  · have deaf : receiving s .gallery = false := by
      rw [Bool.eq_false_iff, ne_eq, receiving_gallery_iff]
      exact fun ⟨_, _, quiet⟩ => quiet tr e hl hp
    rw [exec_receiveCharacter, receiveCharacter_deaf _ r s deaf]
  · rw [exec_galleryFrame f s good]
    refine congrArg Host.Outcome.next ?_
    rcases h with free | ⟨e, turn⟩ | ⟨new, tr, e, hl, hp, other⟩
    · exact galleryFrame_free f _ _ free
    · exact galleryFrame_turnaround f _ _ e turn
    · refine (galleryFrame_window f _ (taken _ s) tr e hl hp).trans (frameInWindow_stray tr f _ _ ?_)
      simp [answersWindow, new, other]

end Sys2Proof.Machine
end

section
/-! PROOF. A step with no command waiting (O2): when an event handed on is still due, and what one unit of time hands
on. -/

namespace Sys2Proof.Machine

/-! ### When a timer has run out -/

theorem plantTxDue_iff (s : State) : plantTxDue s = true ↔ ∃ x, s.plantTx = some x ∧ x.ends ≤ s.now := by
  simp [plantTxDue, Option.any_eq_true]

theorem supervisionDue_iff (s : State) : supervisionDue s = true ↔ ∃ e, s.supervision.timer = some e ∧ e ≤ s.now := by
  simp [supervisionDue, Option.any_eq_true]

theorem pageDue_iff (s : State) : pageDue s = true ↔ ∃ v, s.save = some v ∧ v.deadline ≤ s.now := by
  simp [pageDue, Option.any_eq_true]

theorem galleryTxDue_iff (s : State) :
    galleryTxDue s = true ↔ ∃ tr e, s.line = .busy tr ∧ tr.phase = .sending e ∧ e ≤ s.now := by
  unfold galleryTxDue
  cases s.line with
  | busy t => cases h : t.phase <;> simp [h]
  | _ => simp

theorem windowDue_iff (s : State) :
    windowDue s = true ↔ ∃ tr e, s.line = .busy tr ∧ tr.phase = .window e ∧ e ≤ s.now := by
  unfold windowDue
  cases s.line with
  | busy t => cases h : t.phase <;> simp [h]
  | _ => simp

theorem turnaroundDue_iff (s : State) : turnaroundDue s = true ↔ ∃ e, s.line = .turnaround e ∧ e ≤ s.now := by
  unfold turnaroundDue
  cases s.line <;> simp

theorem gapDue_iff (s : State) (p : PortId) : gapDue s p = true ↔
    ∃ octets e, assemblerOf s p = .collect octets (some e) ∧ e + 4 * charUnits s p < s.now := by
  unfold gapDue
  cases assemblerOf s p with
  | hunt => simp
  | collect octets gap => cases gap <;> simp

theorem pollIsDue_iff (s : State) : pollIsDue s = true ↔
    s.line = .free ∧ ∃ e rest, s.pollList = e :: rest ∧ e.due ≤ s.now / unitsPerMs := by
  unfold pollIsDue
  rw [show s.now / unitsPerMs = runningMs s from rfl]
  cases s.pollList <;> simp

theorem settleDue_iff (s : State) (g : Nat) :
    settleDue s g = true ↔ ∃ e, (s.group g).phase = .settling e ∧ e ≤ s.now := by
  unfold settleDue
  cases (s.group g).phase <;> simp

theorem minuteDue_iff (s : State) :
    minuteDue s = true ↔ 59 ≤ s.calendar.seconds ∧ unitsPerSecond ≤ s.calendar.phase := by simp [minuteDue]

/-- Frames, rolls, seconds and the rows that no timer issues are never put off. -/
theorem stillDue_untimed (s : State) (c : Instr) (h : isTimed c = false) (r : c ≠ .restartSaveStart) :
    stillDue s c = true := by
  cases c <;> first | rfl | contradiction

/-! ### What one unit of time hands on -/

theorem mem_dueEvent (b : Bool) (c x : Instr) : x ∈ dueEvent b c ↔ b = true ∧ x = c := by
  cases b <;> simp [dueEvent]

/-- The events that are due at an instant, one by one. -/
theorem mem_dueEvents (s : State) (x : Instr) : x ∈ dueEvents s ↔
    loadDue s = true ∧ x = .loadEnd ∨ plantTxDue s = true ∧ x = .plantTransmitComplete ∨
    galleryTxDue s = true ∧ x = .galleryTransmitComplete ∨ windowDue s = true ∧ x = .replyWindowExpiry ∨
    turnaroundDue s = true ∧ x = .turnaroundEnd ∨ (∃ p, gapDue s p = true ∧ x = .gapTimerExpiry p) ∨
    pollIsDue s = true ∧ x = .pollDue ∨ (∃ g < 48, settleDue s g = true ∧ x = .settleExpiry g) ∨
    supervisionDue s = true ∧ x = .supervisionExpiry ∨ s.now % unitsPerSecond = 0 ∧ x = .pointAgeSecond ∨
    minuteDue s = true ∧ x = .minuteTick (Config.monitorFirst s.freeCount) ∨
      pageDue s = true ∧ x = .pageWriteTimeout := by
  have gaps : (∃ p, gapDue s p = true ∧ x = .gapTimerExpiry p) ↔
      gapDue s .gallery = true ∧ x = .gapTimerExpiry .gallery ∨ gapDue s .plant = true ∧ x = .gapTimerExpiry .plant :=
    ⟨fun ⟨p, h⟩ => by cases p <;> simp [h], by rintro (h | h) <;> exact ⟨_, h⟩⟩
  have settles : (∃ g < 48, settleDue s g = true ∧ x = .settleExpiry g) ↔
      x ∈ (indicesWhere 48 (settleDue s)).map Instr.settleExpiry := by
    simp only [indicesWhere, List.mem_map, List.mem_filter, List.mem_range, and_assoc, eq_comm]
  rw [gaps, settles]
  simp only [dueEvents, List.mem_append, mem_dueEvent, beq_iff_eq, or_assoc]

/-- The state in which one more unit of time has passed, before anything has been handed on. -/
def ticked (s : State) : State := { s with now := s.now + 1, calendar := advanceSecond s.calendar }

theorem handed_passTime (s : State) (h : s.handed = []) : (passTime s).handed = dueEvents (ticked s) := by
  show s.handed ++ dueEvents (ticked s) = _
  rw [h, List.nil_append]

/-- R64: the second that ends the minute is full after this unit. -/
theorem minuteDue_ticked (s : State) :
    minuteDue (ticked s) = true ↔ 59 ≤ s.calendar.seconds ∧ unitsPerSecond ≤ s.calendar.phase + 1 := by
  have pos : 0 < unitsPerSecond := by decide
  rw [minuteDue_iff, ticked, advanceSecond]
  split
  · exact Iff.rfl
  · split
    · simp only; omega
    · simp only; omega

/-- R173: the load ends within one second. -/
theorem loadDue_of_second (s : State) (l : s.loading = true) (h : unitsPerSecond ≤ s.now) : loadDue s = true := by
  have := Config.loadUnits.isLt
  have : unitsPerSecond = 576000 := rfl
  simp only [loadDue, l, Bool.true_and, decide_eq_true_eq]
  omega

theorem isTimed_dueEvents (s : State) (x : Instr) (h : x ∈ dueEvents s) : isTimed x = true := by
  rw [mem_dueEvents] at h
  rcases h with h | h | h | h | h | ⟨p, h⟩ | h | ⟨g, _, h⟩ | h | h | h | h <;> rw [h.2] <;> rfl

/-! ### The step -/

theorem step_takes_handed (s : State) (c : Instr) (rest : List Instr) (p : s.pending = []) (h : s.handed = c :: rest) :
    step s = if stillDue s c then exec c s else .next { s with handed := rest } := by
  have t : taken c s = { s with handed := rest } := by simp [taken, h]
  simp only [step, p, h, takeHanded, t]

theorem step_passes_time (s : State) (p : s.pending = []) (h : s.handed = []) : step s = .next (passTime s) := by
  simp only [step, p, h]

/-- What one unit of time hands on, event by event. -/
theorem passTime_hands_on (s : State) (h : s.handed = []) :
    let t := passTime s
    (.loadEnd ∈ t.handed → s.loading = true) ∧
    (s.loading = true → unitsPerSecond ≤ t.now → .loadEnd ∈ t.handed) ∧
    (.plantTransmitComplete ∈ t.handed ↔ ∃ x, s.plantTx = some x ∧ x.ends ≤ t.now) ∧
    (.galleryTransmitComplete ∈ t.handed ↔ ∃ tr e, s.line = .busy tr ∧ tr.phase = .sending e ∧ e ≤ t.now) ∧
    (.replyWindowExpiry ∈ t.handed ↔ ∃ tr e, s.line = .busy tr ∧ tr.phase = .window e ∧ e ≤ t.now) ∧
    (.turnaroundEnd ∈ t.handed ↔ ∃ e, s.line = .turnaround e ∧ e ≤ t.now) ∧
    (∀ p, .gapTimerExpiry p ∈ t.handed ↔
      ∃ octets e, assemblerOf s p = .collect octets (some e) ∧ e + 4 * charUnits s p < t.now) ∧
    (.pollDue ∈ t.handed ↔ s.line = .free ∧ ∃ e rest, s.pollList = e :: rest ∧ e.due ≤ t.now / unitsPerMs) ∧
    (∀ g, .settleExpiry g ∈ t.handed ↔ g < 48 ∧ ∃ e, (s.group g).phase = .settling e ∧ e ≤ t.now) ∧
    (.supervisionExpiry ∈ t.handed ↔ ∃ e, s.supervision.timer = some e ∧ e ≤ t.now) ∧
    (.pointAgeSecond ∈ t.handed ↔ t.now % unitsPerSecond = 0) ∧
    ((∃ m, .minuteTick m ∈ t.handed) ↔ 59 ≤ s.calendar.seconds ∧ unitsPerSecond ≤ s.calendar.phase + 1) ∧
    (.pageWriteTimeout ∈ t.handed ↔ ∃ v, s.save = some v ∧ v.deadline ≤ t.now) ∧
    ∀ c ∈ t.handed, isTimed c = true := by
  intro t
  have e : t.handed = dueEvents (ticked s) := handed_passTime s h
  rw [e]
  refine ⟨fun m => ?_, fun l n => ?_, ?_, ?_, ?_, ?_, fun p => ?_, ?_, fun g => ?_, ?_, ?_, ?_, ?_,
    isTimed_dueEvents _⟩
  · simp [mem_dueEvents, loadDue] at m
    exact m.1
  · have := loadDue_of_second (ticked s) l n
    simp [mem_dueEvents, this]
  · refine Iff.trans ?_ (plantTxDue_iff (ticked s))
    simp [mem_dueEvents]
  · refine Iff.trans ?_ (galleryTxDue_iff (ticked s))
    simp [mem_dueEvents]
  · refine Iff.trans ?_ (windowDue_iff (ticked s))
    simp [mem_dueEvents]
  · refine Iff.trans ?_ (turnaroundDue_iff (ticked s))
    simp [mem_dueEvents]
  · have g := gapDue_iff (ticked s) p
    refine Iff.trans ?_ (Iff.trans g (by cases p <;> exact Iff.rfl))
    simp [mem_dueEvents]
  · refine Iff.trans ?_ (pollIsDue_iff (ticked s))
    simp [mem_dueEvents]
  · refine Iff.trans ?_ (and_congr_right fun _ => settleDue_iff (ticked s) g)
    simp [mem_dueEvents]
  · refine Iff.trans ?_ (supervisionDue_iff (ticked s))
    simp [mem_dueEvents]
  · simp [mem_dueEvents]
    exact Iff.rfl
  · refine Iff.trans ?_ (minuteDue_ticked s)
    simp [mem_dueEvents]
  · refine Iff.trans ?_ (pageDue_iff (ticked s))
    simp [mem_dueEvents]

/-- Settles O2: each due test as an `↔`, a handed event taken first (`step_takes_handed`), else one unit of
time passed. -/
theorem idleStepTakesEventsThenTime : Obligations.IdleStepTakesEventsThenTime := by
  unfold Obligations.IdleStepTakesEventsThenTime
  refine ⟨fun s => ⟨plantTxDue_iff s, galleryTxDue_iff s, windowDue_iff s, turnaroundDue_iff s, gapDue_iff s,
    pollIsDue_iff s, settleDue_iff s, supervisionDue_iff s, fun _ => minuteDue_iff s, pageDue_iff s, Iff.rfl,
    beq_iff_eq, rfl, stillDue_untimed s⟩, fun s p => ⟨fun c rest h => step_takes_handed s c rest p h, fun h =>
    ⟨passTime s, step_passes_time s p h, rfl, ?_, rfl, passTime_hands_on s h⟩⟩⟩
  show { s with handed := [] } = s
  rw [← h]

end Sys2Proof.Machine
end

section
/-! PROOF. The grants of the gallery line to POLL and to COMMAND (O15, O16), and a LEVEL as it is presented (O21). -/

namespace Sys2Proof.Machine

/-! ### The commands that make a grant (R25) -/

theorem set_line_self (s : State) (l : Line) (h : s.line = l) : { s with line := l } = s := by rw [← h]

/-- The two commands grant a FREE line, and change the handed list and the line alone before they do. -/
theorem makesGrant_exec {c : Instr} {s u : State} (h : makesGrant c s u) :
    exec c s = .next (grant u) ∧ ∃ hd, u = { s with handed := hd, line := .free } := by
  rcases h with ⟨rfl, free, rfl⟩ | ⟨rfl, ⟨ends, turn⟩, rfl⟩
  · exact ⟨rfl, _, (set_line_self (taken .pollDue s) .free free).symm⟩
  · have t : (taken .turnaroundEnd s).line = .turnaround ends := turn
    refine ⟨?_, _, rfl⟩
    show Host.Outcome.next (turnaroundEnd (taken .turnaroundEnd s)) = _
    simp only [turnaroundEnd, t]

/-! ### Sending (R2, R8, R22) -/

/-- R8: the port begins to drive: the assembler hunts, and only the count of character errors may rise. -/
theorem abandonForDrive_frame (s : State) : ∃ cs : Vector Counter 17,
    abandonForDrive s = { s with galleryAsm := .hunt, counters := cs } ∧
      ∀ (i : Nat) (h : i < 17), i ≠ 2 → cs[i] = s.counters[i] := by
  unfold abandonForDrive
  split
  · rename_i a
    exact ⟨s.counters, by rw [← a], fun _ _ _ => rfl⟩
  · refine ⟨_, rfl, fun i h n => ?_⟩
    exact (counter_modifyAt _ _ _ i h).trans (if_neg n)

/-- R2: a frame of the part's own goes out, and the line is SENDING with its record. -/
theorem sendOwn_frame (kind : TransactionKind) (dest fk : Byte) (payload : List Byte) (accepts : Byte) (s : State) :
    ∃ cs : Vector Counter 17, sendOwn kind dest fk payload accepts s =
      { s with
        gallerySeq := s.gallerySeq + 1, galleryAsm := .hunt, counters := cs
        line := .busy ⟨kind, buildFrame dest (ownOctet s) fk s.gallerySeq payload, some dest, some accepts,
          .sending (s.now + (7 + payload.length) * charUnits s .gallery), []⟩ } ∧
      ∀ (i : Nat) (h : i < 17), i ≠ 2 → cs[i] = s.counters[i] := by
  obtain ⟨cs, e, same⟩ := abandonForDrive_frame { s with gallerySeq := s.gallerySeq + 1 }
  refine ⟨cs, ?_, same⟩
  simp only [sendOwn, startSending, e]
  rfl

/-- R51: what a POLL asks for. -/
theorem requestOctet_eq (n : Node) : requestOctet n =
    if n.state = .tagcheck ∨ n.state = .displaced ∨ n.state = .online ∧ n.recheckDue = true then 2 else 1 := by
  unfold requestOctet tagWanted sampleWanted
  cases n.state <;> simp

theorem pollAccepts_eq (n : Node) : pollAccepts n =
    if n.state = .tagcheck ∨ n.state = .displaced ∨ n.state = .online ∧ n.recheckDue = true then kindTag
    else if n.role = .sensor then kindSample else kindEcho := by
  have d : (1 : Byte) ≠ 2 := by decide
  unfold pollAccepts
  rw [requestOctet_eq, tagWanted]
  by_cases h : n.state = .tagcheck ∨ n.state = .displaced ∨ n.state = .online ∧ n.recheckDue = true
  · rw [if_pos h, if_pos h, if_pos rfl]
  · rw [if_neg h, if_neg h, if_neg d]
    cases n.role <;> rfl

/-- R30: a late poll is counted, and nothing else changes. -/
theorem countLate_frame (s : State) (e : PollEntry) : ∃ k : Vector Counter 17,
    (if pollLate s e then count .galleryLatePolls s else s) = { s with counters := k } ∧
      k[5] = if e.due + (s.node e.node).pollPeriod * 1000 < runningMs s then bumpCounter 1 s.counters[5]
        else s.counters[5] := by
  have late : pollLate s e = true ↔ e.due + (s.node e.node).pollPeriod * 1000 < runningMs s := by
    simp only [pollLate, decide_eq_true_eq]
  by_cases l : e.due + (s.node e.node).pollPeriod * 1000 < runningMs s
  · rw [if_pos (late.mpr l), if_pos l]
    exact ⟨_, rfl, getElem_counters_countMany .galleryLatePolls 1 s 5 (by decide)⟩
  · rw [if_neg (mt late.mp l), if_neg l]
    exact ⟨s.counters, rfl, rfl⟩

/-- R30: the grant to POLL sends to the head of the poll due list. -/
theorem grantPoll_frame (s : State) (e : PollEntry) (rest : List PollEntry) (h : s.pollList = e :: rest) :
    let n := s.node e.node
    ∃ cs : Vector Counter 17, grantPoll s =
      { s with
        gallerySeq := s.gallerySeq + 1, galleryAsm := .hunt, counters := cs
        line := .busy ⟨.poll e.node,
          buildFrame (byteOfNat n.address) (ownOctet s) kindPoll s.gallerySeq [requestOctet n],
          some (byteOfNat n.address), some (pollAccepts n), .sending (s.now + 8 * charUnits s .gallery), []⟩ } ∧
      cs[5] = if e.due + n.pollPeriod * 1000 < runningMs s then bumpCounter 1 s.counters[5] else s.counters[5] := by
  intro n
  obtain ⟨k, hk, five⟩ := countLate_frame s e
  obtain ⟨cs, sent, same⟩ := sendOwn_frame (.poll e.node) (byteOfNat n.address) kindPoll [requestOctet n]
    (pollAccepts n) { s with counters := k }
  refine ⟨cs, ?_, (same 5 (by decide) (by decide)).trans five⟩
  rw [List.length_singleton] at sent
  unfold grantPoll
  split
  · rename_i none'
    exact absurd (h.symm.trans none') (by simp)
  · rename_i e' rest' h'
    cases h.symm.trans h'
    simp only [hk]
    exact sent

/-- Settles O15: the grant stops once a POLL is sent (`grant_of_sent`), and `grantPoll_frame` says what is sent. -/
theorem pollGrantSendsPoll : Obligations.PollGrantSendsPoll := by
  unfold Obligations.PollGrantSendsPoll
  intro c s u mg chosen e rest hp n tagPoll
  obtain ⟨run, hd, rfl⟩ := makesGrant_exec mg
  obtain ⟨cs, sent, five⟩ := grantPoll_frame
    { s with handed := hd, line := .free, pointer := .command } e rest hp
  have granted := grant_of_sent { s with handed := hd, line := .free } .poll rfl chosen
    fun free => absurd ((congrArg State.line sent).symm.trans free) (by simp)
  refine ⟨_, run, ?_⟩
  have frame := (lit_grant { s with handed := hd, line := .free }).frame
  rw [show grant { s with handed := hd, line := .free } = _ from granted.trans sent] at *
  refine ⟨?_, five, rfl, rfl, rfl, rfl, rfl, rfl, rfl, rfl, frame⟩
  simp only [requestOctet_eq, pollAccepts_eq]
  rfl

end Sys2Proof.Machine
end

section
/-! PROOF. The grant to COMMAND, sent or void (O16). -/

namespace Sys2Proof.Machine

theorem nodeReachable_iff (s : State) (n : Nat) :
    nodeReachable s n = true ↔ (s.node n).enable = true ∧ (s.node n).state ≠ .displaced := by
  simp [nodeReachable]

/-- R102: a zone with no pending evaluation, or with a group at work, is left as it is. -/
theorem rejudgeZone_quiet (z : Nat) (s : State) (h : (s.zone z).evalPending = false ∨ zoneAtRest s z = false) :
    rejudgeZone z s = s := by
  rcases h with h | h <;> simp [rejudgeZone, h]

theorem rejudgeZone_runs (z : Nat) (s : State) (p : (s.zone z).evalPending = true) (r : zoneAtRest s z = true) :
    rejudgeZone z s = evaluate z (s.modZone z fun zn => { zn with evalPending := false }) := by
  simp [rejudgeZone, p, r]

/-- Every enabled group of group `g`'s zone, but for `g` itself, is IDLE. -/
def restOfZoneIdle (s : State) (g : Nat) : Prop :=
  ∀ h < 48, h ≠ g → (s.group h).enable = true → (s.group h).zone = (s.group g).zone → (s.group h).phase = .idle

/-- R102: where group `g` has become IDLE, its zone is at rest exactly if every other group is. -/
theorem zoneAtRest_of_idle (s t : State) (g : Nat) (idle : (t.group g).phase = .idle)
    (other : ∀ h, h ≠ g → t.group h = s.group h) :
    zoneAtRest t (s.group g).zone = true ↔ restOfZoneIdle s g := by
  rw [zoneAtRest_iff]
  refine ⟨fun r h l n e z => ?_, fun r h l e z => ?_⟩
  · rw [← other h n] at e z ⊢
    exact r h l e z
  · by_cases n : h = g
    · exact n ▸ idle
    · rw [other h n] at e z ⊢
      exact r h l n e z

/-- R112: the group as a declined presentation leaves it. -/
def declined (gr : Group) : Group := { gr with phase := .idle, resend := true, unavailable := true }

/-- R111, R112: what a declined presentation leaves, where no pending evaluation runs. -/
def declinedState (g : Nat) (s : State) : State :=
  let gr := s.group g
  let idle := s.modGroup g fun _ => declined gr
  if gr.unavailable = false ∧ gr.misses < 3 then raise .actuatorSilent g gr.zone idle else idle

theorem reported_declinedState (g : Nat) (s : State) :
    Reported (s.modGroup g fun _ => declined (s.group g)) (declinedState g s) := by
  unfold declinedState
  dsimp only
  split
  · exact reported_raise _ _ _ _
  · exact .refl _

theorem group_declinedState (g h : Nat) (s : State) (l : g < 48) :
    (declinedState g s).group h = if h = g then declined (s.group g) else s.group h := by
  rw [(reported_declinedState g s).group, group_modGroup]
  by_cases e : h = g
  · subst e; simp [l]
  · simp [Ne.symm e, e]

/-- R112: a declined presentation, where no evaluation that is pending can run. -/
theorem declineCommand_quiet (g : Nat) (s : State) (l : g < 48)
    (q : (s.zone (s.group g).zone).evalPending = false ∨ ¬restOfZoneIdle s g) :
    declineCommand g s = declinedState g s := by
  have changed : changeJudged g (fun gr => { gr with phase := .idle, resend := true, unavailable := true }) s =
      declinedState g s := by
    rw [changeJudged_eq g _ s l rfl, follow_eq, declinedState]
    have after : groupSilent { s.group g with phase := .idle, resend := true, unavailable := true } = true := by
      simp [groupSilent]
    simp only [after, groupSilent_false, true_and, Bool.true_eq_false, and_false, if_false]
    rfl
  rw [declineCommand, changed, rejudgeZone_quiet]
  refine q.imp (fun e => ?_) (fun n => ?_)
  · rw [(reported_declinedState g s).zone]
    exact e
  · rw [Bool.eq_false_iff, ne_eq, zoneAtRest_of_idle s _ g]
    · exact n
    · simp [group_declinedState g g s l, declined]
    · intro h ne
      simp [group_declinedState g h s l, ne]

/-- R26: after a void grant the next class is granted. -/
theorem grant_after_void (s : State) (c : GrantClass) (free : s.line = .free) (hc : chosenClass s = some c)
    (fuel : (grantOnce c s).galleryOrigin.length + (grantOnce c s).p2g.length + 1 =
      s.galleryOrigin.length + s.p2g.length) : grant s = grant (grantOnce c s) := by
  conv_lhs => rw [grant, grantLoop, if_pos ((lineFree_iff s).mpr free), hc]
  rw [grant, fuel]

theorem grantCommand_cons (s : State) (g : Nat) (rest : List Nat) (h : s.galleryOrigin = g :: rest) :
    grantCommand s = presentCommand g { s with galleryOrigin := rest } := by
  unfold grantCommand
  split
  · rename_i n
    exact absurd (h.symm.trans n) (by simp)
  · rename_i g' rest' h'
    cases h.symm.trans h'
    rfl

/-- R112, R26: the grant to a COMMAND whose node cannot be reached is void, and the next class is granted. -/
theorem grant_declined (s : State) (g : Nat) (rest : List Nat) (free : s.line = .free)
    (hc : chosenClass s = some .command) (h : s.galleryOrigin = g :: rest) (l : g < 48)
    (n : nodeReachable s (s.group g).node = false)
    (q : (s.zone (s.group g).zone).evalPending = false ∨ ¬restOfZoneIdle s g) :
    grant s = grant (declinedState g { s with pointer := .forward, galleryOrigin := rest }) := by
  let v : State := { s with pointer := .forward, galleryOrigin := rest }
  have r : nodeReachable v (v.group g).node = false := n
  have once : grantOnce .command s = declinedState g v := by
    refine (grantCommand_cons { s with pointer := .forward } g rest h).trans ?_
    show presentCommand g v = _
    rw [presentCommand, if_neg (by simp [r])]
    exact declineCommand_quiet g v l q
  change grant s = grant (declinedState g v)
  rw [← once]
  refine grant_after_void s .command free hc ?_
  have r := reported_declinedState g { s with pointer := .forward, galleryOrigin := rest }
  rw [once, r.galleryOrigin, r.p2g, h]
  show rest.length + s.p2g.length + 1 = rest.length + 1 + s.p2g.length
  omega

/-- R28: the grant to a COMMAND whose node can be reached sends the group's LEVEL. -/
theorem grantOnce_command (s : State) (g : Nat) (rest : List Nat) (h : s.galleryOrigin = g :: rest)
    (n : nodeReachable s (s.group g).node = true) :
    let dest := byteOfNat (s.node (s.group g).node).address
    ∃ cs : Vector Counter 17, grantOnce .command s =
      { s.modGroup g fun x => { x with phase := .sent } with
        pointer := .forward, galleryOrigin := rest, gallerySeq := s.gallerySeq + 1, galleryAsm := .hunt, counters := cs
        line := .busy ⟨.command g (s.group g).node,
          buildFrame dest (ownOctet s) kindLevel s.gallerySeq (levelPayload (s.group g).channel (s.group g).level 0),
          some dest, some kindEcho, .sending (s.now + 11 * charUnits s .gallery), []⟩ } := by
  intro dest
  let v : State := { s with pointer := .forward, galleryOrigin := rest }
  have r : nodeReachable v (v.group g).node = true := n
  obtain ⟨cs, sent, -⟩ := sendOwn_frame (.command g (s.group g).node) dest kindLevel
    (levelPayload (s.group g).channel (s.group g).level 0) kindEcho (v.modGroup g fun x => { x with phase := .sent })
  refine ⟨cs, (grantCommand_cons { s with pointer := .forward } g rest h).trans (Eq.trans ?_ sent)⟩
  show presentCommand g v = _
  rw [presentCommand, if_pos r]
  rfl

theorem chosenClass_command (s : State) (p : s.pointer = .command) (h : s.galleryOrigin ≠ []) :
    chosenClass s = some .command := by
  cases e : s.galleryOrigin with
  | nil => exact absurd e h
  | cons a l => simp [chosenClass, p, classReady, e]

theorem chosenClass_empty (s : State) (o : s.galleryOrigin = []) (q : s.p2g = []) (p : pollHeadDue s = false) :
    chosenClass s = none := by
  have empty : ∀ c, classReady s c = false := fun c => by cases c <;> simp [classReady, o, q, p]
  simp [chosenClass, empty]

/-- Settles O16: the grant is `grantOnce` on `command`, which sends (`grantOnce_command`) or is void
(`grant_declined`). -/
theorem commandGrantSendsOrIsVoid : Obligations.CommandGrantSendsOrIsVoid := by
  unfold Obligations.CommandGrantSendsOrIsVoid
  refine ⟨nodeReachable_iff, fun c s u mg chosen g rest hq l n => ?_, fun c s u mg chosen g rest hq l n => ?_,
    fun c s u mg hp g hq l p2g due n pending => ?_⟩
  · obtain ⟨run, hd, rfl⟩ := makesGrant_exec mg
    intro gr idle dcl atRest q
    rw [run]
    exact congrArg Host.Outcome.next
      (grant_declined { s with handed := hd, line := .free } g rest rfl chosen hq l n q)
  · obtain ⟨run, hd, rfl⟩ := makesGrant_exec mg
    intro dest
    obtain ⟨cs, sent⟩ := grantOnce_command { s with handed := hd, line := .free } g rest hq n
    have granted := grant_of_sent { s with handed := hd, line := .free } .command rfl chosen
      fun free => absurd ((congrArg State.line sent).symm.trans free) (by simp)
    refine ⟨_, run, ?_⟩
    have frame := (lit_grant { s with handed := hd, line := .free }).frame
    rw [show grant { s with handed := hd, line := .free } = _ from granted.trans sent] at *
    exact ⟨rfl, rfl, rfl, rfl, rfl, group_modGroup_self s g _ l, fun h ne => group_modGroup_other s g h _ (Ne.symm ne),
      rfl, rfl, frame⟩
  · obtain ⟨run, hd, rfl⟩ := makesGrant_exec mg
    have void := grant_declined { s with handed := hd, line := .free } g [] rfl
      (chosenClass_command _ hp (by simp [hq])) hq l n (.inl pending)
    have r := reported_declinedState g { s with handed := hd, line := .free, pointer := .forward, galleryOrigin := [] }
    have ends : chosenClass (declinedState g
        { s with handed := hd, line := .free, pointer := .forward, galleryOrigin := [] }) = none := by
      refine chosenClass_empty _ r.galleryOrigin (r.p2g.trans p2g) ?_
      rw [pollHeadDue, r.pollList, runningMs, r.now]
      exact due
    have all := void.trans (grant_of_none _ ends)
    have frame := (lit_grant { s with handed := hd, line := .free }).frame
    rw [all] at run frame
    refine ⟨run, _, run, r.line, r.galleryOrigin, r.pointer, r.gallerySeq, ?_, fun h ne => ?_, frame⟩
    · exact (group_declinedState g g _ l).trans (if_pos rfl)
    · exact (group_declinedState g h _ l).trans (if_neg ne)

end Sys2Proof.Machine
end

section
/-! PROOF. Building-side LEVEL commands: the level forwarded and the caps it leaves (O21). -/

namespace Sys2Proof.Machine

/-- R120: the group as a LEVEL that reaches it leaves it. -/
def capped (requested level now : Nat) (gr : Group) : Group :=
  { gr with
    level := level
    cap := if 1000 ≤ requested then none else some requested
    phase := match gr.phase with
      | .queued => .queued
      | .sent => .sent
      | _ => .settling (now + gr.settle * unitsPerSecond) }

theorem capped_phase_ne_idle (requested level now : Nat) (gr : Group) :
    (capped requested level now gr).phase ≠ .idle := by
  unfold capped
  cases gr.phase <;> simp

theorem capLifted_iff (before : Option Nat) (requested : Nat) :
    capLifted before (capOfRequest requested) = true ↔ ∃ b, before = some b ∧ (1000 ≤ requested ∨ b < requested) := by
  cases before with
  | none => simp [capLifted]
  | some b =>
      unfold capOfRequest
      split
      · rename_i h
        simp [capLifted, h]
      · rename_i h
        simp [capLifted, h]

/-- R102, R120, R121: the group is at work after its cap, so that an evaluation its cap asks for waits. -/
theorem capGroup_eq (requested level g : Nat) (s : State) (l : g < 48) (e : (s.group g).enable = true) :
    capGroup requested level s g =
      let m := s.modGroup g (capped requested level s.now)
      if capLifted (s.group g).cap (capOfRequest requested) then
        m.modZone (s.group g).zone fun zn => { zn with evalPending := true }
      else m := by
  let m := s.modGroup g (capped requested level s.now)
  have same : (fun gr : Group => { gr with
      cap := capOfRequest requested
      level := level
      phase := match gr.phase with
        | .queued => .queued
        | .sent => .sent
        | .idle => .settling (settleEnd s gr)
        | .settling _ => .settling (settleEnd s gr) }) = capped requested level s.now := by
    funext gr
    cases h : gr.phase <;> simp [capped, h, capOfRequest, settleEnd]
  have opened : capGroup requested level s g =
      if capLifted (s.group g).cap (capOfRequest requested) then requestCore (m.group g).zone m else m :=
    congrArg (fun f => if capLifted (s.group g).cap (capOfRequest requested) then
      requestCore ((s.modGroup g f).group g).zone (s.modGroup g f) else s.modGroup g f) same
  have working : zoneAtRest m (s.group g).zone = false := by
    rw [Bool.eq_false_iff]
    intro rest
    have idle := (zoneAtRest_iff _ _).mp rest g l
    rw [group_modGroup_self s g _ l] at idle
    exact capped_phase_ne_idle _ _ _ _ (idle e rfl)
  rw [opened, show m.group g = capped requested level s.now (s.group g) from group_modGroup_self s g _ l]
  show (if _ then requestCore (s.group g).zone m else m) = _
  rw [requestCore, working]
  rfl

/-- What the cap of one group leaves alone, and the evaluation that waits where it asks for one. -/
theorem capGroup_frame (requested level g : Nat) (s : State) (l : g < 48) (e : (s.group g).enable = true) :
    let t := capGroup requested level s g
    (∀ h, t.group h = if h = g then capped requested level s.now (s.group h) else s.group h) ∧
    t.now = s.now ∧ t.counters = s.counters ∧ t.galleryOrigin = s.galleryOrigin ∧ t.conditions = s.conditions ∧
    (∀ z, (s.zone z).evalPending = true → (t.zone z).evalPending = true) ∧
    (capLifted (s.group g).cap (capOfRequest requested) = true → (s.group g).zone < 24 →
      (t.zone (s.group g).zone).evalPending = true) := by
  intro t
  have eq : t = _ := capGroup_eq requested level g s l e
  have group : ∀ h, (s.modGroup g (capped requested level s.now)).group h =
      if h = g then capped requested level s.now (s.group h) else s.group h := fun h => by
    by_cases n : h = g
    · subst n; simp [l]
    · simp [n, Ne.symm n]
  rw [eq]
  dsimp only
  split
  · refine ⟨group, rfl, rfl, rfl, rfl, fun z p => ?_, fun _ r => ?_⟩
    · rw [zone_modZone]
      split
      · rfl
      · exact p
    · rw [zone_modZone_self _ _ _ r]
  · rename_i n
    exact ⟨group, rfl, rfl, rfl, rfl, fun z p => p, fun y => absurd y n⟩

theorem capGroups_frame (requested level : Nat) (l : List Nat) (nodup : l.Nodup) (s : State)
    (enabled : ∀ g ∈ l, g < 48 ∧ (s.group g).enable = true) :
    let t := l.foldl (capGroup requested level) s
    (∀ h, t.group h = if h ∈ l then capped requested level s.now (s.group h) else s.group h) ∧
    t.counters = s.counters ∧ t.galleryOrigin = s.galleryOrigin ∧ t.conditions = s.conditions ∧
    (∀ z, (s.zone z).evalPending = true → (t.zone z).evalPending = true) ∧
    (∀ g ∈ l, capLifted (s.group g).cap (capOfRequest requested) = true → (s.group g).zone < 24 →
      (t.zone (s.group g).zone).evalPending = true) := by
  induction l generalizing s with
  | nil => exact ⟨fun h => by simp, rfl, rfl, rfl, fun _ p => p, fun g hg => absurd hg (by simp)⟩
  | cons a l ih =>
      obtain ⟨fresh, nodup'⟩ := List.nodup_cons.mp nodup
      obtain ⟨la, ea⟩ := enabled a (List.mem_cons_self ..)
      obtain ⟨group, now, cnt, origin, conds, keep, asks⟩ := capGroup_frame requested level a s la ea
      have other : ∀ g ∈ l, (capGroup requested level s a).group g = s.group g := fun g hg => by
        rw [group g, if_neg (ne_of_mem_of_not_mem hg fresh)]
      obtain ⟨group', cnt', origin', conds', keep', asks'⟩ := ih nodup' (capGroup requested level s a) fun g hg => by
        rw [other g hg]
        exact enabled g (List.mem_cons_of_mem _ hg)
      refine ⟨fun h => ?_, cnt'.trans cnt, origin'.trans origin, conds'.trans conds, fun z p => keep' z (keep z p),
        fun g hg lifted r => ?_⟩
      · refine (group' h).trans ?_
        rw [group h, now]
        by_cases n : h = a
        · subst n; simp [fresh]
        · simp [n]
      · rcases List.mem_cons.mp hg with rfl | hg
        · exact keep' _ (asks lifted r)
        · have := asks' g hg
          rw [other g hg] at this
          exact this lifted r

theorem mem_groupsReached (s : State) (dest : Byte) (ch g : Nat) (h : g ∈ groupsReached s dest ch) :
    g < 48 ∧ (s.group g).enable = true := by
  simp only [groupsReached, indicesWhere, List.mem_filter, List.mem_range, Bool.and_eq_true] at h
  exact ⟨h.1, h.2.1.1⟩

theorem nodup_groupsReached (s : State) (dest : Byte) (ch : Nat) : (groupsReached s dest ch).Nodup :=
  List.Nodup.filter _ List.nodup_range

/-- R120: the level forwarded is one of those it is the least of. -/
theorem forwardedLevel_mem (s : State) (reached : List Nat) (requested : Nat) :
    forwardedLevel s reached requested = 1000 ∨ forwardedLevel s reached requested = requested ∨
      ∃ g ∈ reached, forwardedLevel s reached requested = (s.group g).level := by
  have fold : ∀ (l : List Nat) (m : Nat), l.foldl (fun m g => min m (s.group g).level) m = m ∨
      ∃ g ∈ l, l.foldl (fun m g => min m (s.group g).level) m = (s.group g).level := by
    intro l
    induction l with
    | nil => exact fun m => .inl rfl
    | cons a l ih =>
        intro m
        rw [List.foldl_cons]
        rcases ih (min m (s.group a).level) with h | ⟨g, hg, h⟩
        · rw [h]
          rcases min_choice m (s.group a).level with e | e
          · exact .inl e
          · exact .inr ⟨a, List.mem_cons_self .., e⟩
        · exact .inr ⟨g, List.mem_cons_of_mem _ hg, h⟩
  unfold forwardedLevel
  rcases fold reached (min 1000 requested) with h | h
  · rw [h]
    rcases min_choice 1000 requested with e | e
    · exact .inl e
    · exact .inr (.inl e)
  · exact .inr (.inr h)

theorem levelOf_levelPayload (channel level : Nat) (fade : Byte) (c : channel < 256) (l : level < 65536) :
    levelOf (levelPayload channel level fade) = some ⟨channel, level, fade⟩ := by
  have half := halfOf_octets (halfOfNat level)
  simp only [levelPayload, octetsOf, List.cons_append, List.nil_append, levelOf]
  rw [half]
  simp [byteOfNat, halfOfNat, Nat.mod_eq_of_lt c, Nat.mod_eq_of_lt l]

theorem levelOf_channel_lt {l : List Byte} {p : LevelPayload} (h : levelOf l = some p) : p.channel < 256 := by
  unfold levelOf at h
  split at h
  · cases h
    exact BitVec.isLt _
  · cases h

theorem rewriteLevel_of_ne (f : Frame) (p : LevelPayload) (level : Nat) (h : level ≠ p.level) :
    rewriteLevel f p level = buildFrame f.dest f.src f.kind f.seq (levelPayload p.channel level p.fade) := if_neg h

theorem levelOf_rewriteLevel (f : Frame) (p : LevelPayload) (level : Nat) (h : levelOf f.payload = some p)
    (l : level < 65536) : levelOf (rewriteLevel f p level).payload = some ⟨p.channel, level, p.fade⟩ := by
  unfold rewriteLevel
  split
  · rename_i e
    rw [e]
    exact h
  · exact levelOf_levelPayload _ _ _ (levelOf_channel_lt h) l

theorem presentLevel_broadcast (f : Frame) (s : State) (p : LevelPayload) (h : levelOf f.payload = some p)
    (b : f.dest = broadcast) (c : channelBound s p.channel = true) :
    presentLevel f s = (count .droppedCommands s, none) := by
  simp [presentLevel, h, b, c]

theorem presentLevel_reverted (f : Frame) (s : State) (p : LevelPayload) (h : levelOf f.payload = some p)
    (b : f.dest ≠ broadcast) (r : groupsReached s f.dest p.channel ≠ []) (u : s.supervision.attended = false)
    (a : s.device.supervisionAction = .revert) : presentLevel f s = (count .droppedCommands s, none) := by
  simp [presentLevel, h, b, r, u, a]

/-- R119, R120: the groups that a LEVEL reaches are capped, where UNATTENDED with REVERT does not decline it. -/
theorem presentLevel_reaches (f : Frame) (s : State) (p : LevelPayload) (h : levelOf f.payload = some p)
    (b : f.dest ≠ broadcast) (r : groupsReached s f.dest p.channel ≠ [])
    (a : s.supervision.attended = true ∨ s.device.supervisionAction = .hold) :
    presentLevel f s =
      let reached := groupsReached s f.dest p.channel
      let level := forwardedLevel s reached p.level
      (reached.foldl (capGroup p.level level) (if level = p.level then s else count .clampedCommands s),
        some (rewriteLevel f p level)) := by
  have n : ¬(s.supervision.attended = false ∧ s.device.supervisionAction = .revert) := by
    rintro ⟨u, v⟩
    rcases a with a | a
    · exact absurd (u.symm.trans a) (by simp)
    · exact absurd (v.symm.trans a) (by simp)
  unfold presentLevel
  split
  · rename_i h'
    exact absurd (h'.symm.trans h) (by simp)
  · rename_i p' h'
    cases h'.symm.trans h
    dsimp only
    rw [if_neg b, if_neg (by simpa using r), if_neg n]

/-- Settles O21: the caps by induction on the groups reached (`capGroups_frame`), the level by `forwardedLevel_le` and
`forwardedLevel_mem`. -/
theorem forwardedLevelIsLimited : Obligations.ForwardedLevelIsLimited := by
  unfold Obligations.ForwardedLevelIsLimited
  refine fun f s p h => ⟨presentLevel_broadcast f s p h, fun b r => ⟨presentLevel_reverted f s p h b r, fun a => ?_⟩⟩
  intro reached
  let level := forwardedLevel s reached p.level
  let v := if level = p.level then s else count .clampedCommands s
  have present : presentLevel f s = (reached.foldl (capGroup p.level level) v, some (rewriteLevel f p level)) :=
    presentLevel_reaches f s p h b r a
  obtain ⟨most, own, least⟩ := forwardedLevel_le s reached p.level
  have lit := lit_presentLevel f s
  rw [present] at lit
  have vgroup : ∀ g, v.group g = s.group g := fun g => by
    show State.group (if level = p.level then s else count .clampedCommands s) g = _
    split <;> rfl
  have vfields : v.now = s.now ∧ v.galleryOrigin = s.galleryOrigin ∧ v.conditions = s.conditions := by
    show State.now (if level = p.level then s else count .clampedCommands s) = _ ∧
      State.galleryOrigin (if level = p.level then s else count .clampedCommands s) = _ ∧
      State.conditions (if level = p.level then s else count .clampedCommands s) = _
    split <;> exact ⟨rfl, rfl, rfl⟩
  have vcounter : v.counters[13] = if level = p.level then s.counters[13] else bumpCounter 1 s.counters[13] := by
    show (State.counters (if level = p.level then s else count .clampedCommands s))[13] = _
    split
    · rfl
    · exact getElem_counters_countMany .clampedCommands 1 s 13 (by decide)
  obtain ⟨now, origin, conds⟩ := vfields
  obtain ⟨group, cnt, origin', conds', -, asks⟩ :=
    capGroups_frame p.level level reached (nodup_groupsReached ..) v fun g hg => by
      rw [vgroup]
      exact mem_groupsReached s _ _ g hg
  refine ⟨_, _, ⟨p.channel, level, p.fade⟩, present, levelOf_rewriteLevel f p level h (by omega), rfl, rfl,
    ?_, ?_, ?_, ?_,
    fun e => if_pos e, fun n => ?_, most, own, least, forwardedLevel_mem s reached p.level, ?_, fun g hg => ?_,
    fun g hg => ?_, fun g hg c e lifted z => ?_, origin'.trans origin, conds'.trans conds, lit.frame⟩
  · unfold rewriteLevel; split <;> rfl
  · unfold rewriteLevel; split <;> rfl
  · unfold rewriteLevel; split <;> rfl
  · unfold rewriteLevel; split <;> rfl
  · rw [rewriteLevel_of_ne f p level n]
    exact ⟨rfl, rfl⟩
  · simp only [cnt]
    exact vcounter
  · rw [group g, if_pos hg, vgroup, now]
    rfl
  · rw [group g, if_neg hg, vgroup]
  · have := asks g hg
    rw [vgroup] at this
    exact this ((capLifted_iff _ _).mpr ⟨c, e, lifted⟩) z

end Sys2Proof.Machine
end

section
/-! PROOF. The writes of the settings of DEVICE entry 0 (O43), and the rule that the writes of the port
enables share. -/

namespace Sys2Proof.Machine

/-! ### A write of one field of DEVICE entry 0 -/

/-- R161: the writable fields of DEVICE entry 0. -/
def deviceWritable (field : Nat) : Prop := 3 ≤ field ∧ field ≤ 12 ∨ 23 ≤ field ∧ field < 42

theorem writeValue_device (field : Nat) (v : Half) (s : State) (h : deviceWritable field) :
    writeValue .device ⟨0, field⟩ v s =
      if codeAccepted .device ⟨0, field⟩ v then writeDevice field v s else (s, .range) := by
  have inside : inTable .device ⟨0, field⟩ = true := by
    show (decide (0 < 8) && decide (field < 42)) = true
    unfold deviceWritable at h
    simp only [Nat.ofNat_pos, decide_true, Bool.true_and, decide_eq_true_eq]
    omega
  have config : access .device ⟨0, field⟩ = .config := by
    unfold deviceWritable at h
    refine if_pos ⟨rfl, ?_⟩
    dsimp only
    omega
  simp only [writeValue, inside, config, Bool.not_true, Bool.false_eq_true, if_false, reduceCtorEq, false_and,
    writeOwned]
  cases codeAccepted .device ⟨0, field⟩ v <;> rfl

theorem request_deviceField (rq : Requester) (field : Nat) (v : Half) (s : State) (h : deviceWritable field)
    (c : codeAccepted .device ⟨0, field⟩ v = true) :
    let u := fieldReached .device 0 field s
    let w := writeDevice field v u
    request rq (fieldElement .device 0 field v) s = .next (answered rq w.2 u w.1) := by
  intro u w
  have written : writeValue .device ⟨(0 : Half).toNat, field⟩ v u = w :=
    (writeValue_device field v u h).trans (if_pos c)
  have run := request_field rq .device 0 field v s (by unfold deviceWritable at h; omega)
  dsimp only at run
  rw [run]
  exact congrArg (fun w => Host.Outcome.next (answered rq w.2 u w.1)) written

theorem galleryEnable_fieldReached (t : TableId) (e : Half) (f : Nat) (s : State) :
    (fieldReached t e f s).device.galleryEnable = s.device.galleryEnable :=
  congrArg Device.galleryEnable (device_fieldReached t e f s)

/-- A write that asks for no grant ends with its answer. -/
theorem request_deviceStored (rq : Requester) (field : Nat) (v : Half) (s t : State) (st : Status)
    (h : deviceWritable field) (c : codeAccepted .device ⟨0, field⟩ v = true)
    (written : writeDevice field v (fieldReached .device 0 field s) = (t, st))
    (quiet : asksGrant (fieldReached .device 0 field s) t = false) :
    request rq (fieldElement .device 0 field v) s = .next (answer rq st t) := by
  have run := request_deviceField rq field v s h c
  dsimp only at run
  rw [run, written]
  exact congrArg Host.Outcome.next (answered_of rq st quiet)

/-- R162: a code that the field does not take is refused, and nothing is stored. -/
theorem request_deviceRange (rq : Requester) (field : Nat) (v : Half) (s : State) (h : deviceWritable field)
    (c : codeAccepted .device ⟨0, field⟩ v = false) :
    request rq (fieldElement .device 0 field v) s = .next (answer rq .range (fieldReached .device 0 field s)) := by
  have written : writeValue .device ⟨(0 : Half).toNat, field⟩ v (fieldReached .device 0 field s) = _ :=
    (writeValue_device field v _ h).trans (if_neg (by simp [c]))
  have run := request_field rq .device 0 field v s (by unfold deviceWritable at h; omega)
  dsimp only at run
  rw [run]
  refine (congrArg (fun w => Host.Outcome.next (answered rq w.2 (fieldReached .device 0 field s) w.1)) written).trans ?_
  exact congrArg Host.Outcome.next (answered_self rq .range _)

theorem half_eq_iff (v : Half) (n : Nat) (h : n < 65536) : v = BitVec.ofNat 16 n ↔ v.toNat = n := by
  rw [← BitVec.toNat_inj, BitVec.toNat_ofNat, Nat.mod_eq_of_lt h]

theorem storedStatus_iff {b : Bool} {p : Prop} [Decidable p] (h : b = true ↔ ¬p) :
    storedStatus b = if p then .ok else .clamped := by
  by_cases hp : p
  · have : b = false := by simpa [hp] using h
    simp [storedStatus, hp, this]
  · simp [storedStatus, hp, h.mpr hp]

/-! ### The rates (R21, R163) -/

theorem putRate_eq (slow middle fast : Nat) (v : Half) (ls : slow < 65536) (lf : fast < 65536) :
    (putRate slow middle fast v).1 = (if v.toNat < middle then .slow else .fast) ∧
    storedStatus (putRate slow middle fast v).2 =
      if v = BitVec.ofNat 16 slow ∨ v = BitVec.ofNat 16 fast then .ok else .clamped := by
  constructor
  · by_cases h : v.toNat < middle
    · simp [putRate, h, Nat.not_le.mpr h]
    · simp [putRate, h, Nat.not_lt.mp h]
  · refine storedStatus_iff ?_
    rw [half_eq_iff v slow ls, half_eq_iff v fast lf, not_or]
    exact decide_eq_true_iff

theorem writeDevice_galleryRate (v : Half) (u : State) (d : Device) (h : u.device = d) : writeDevice 5 v u =
    ({ u with device := { d with galleryRate := if v.toNat < 288 then .slow else .fast }, galleryAsm := .hunt },
      if v = 192 ∨ v = 384 then .ok else .clamped) := by
  subst h
  obtain ⟨rate, status⟩ := putRate_eq 192 288 384 v (by decide) (by decide)
  exact Prod.ext (congrArg (fun r => { u with device := { u.device with galleryRate := r }, galleryAsm := .hunt }) rate)
    status

theorem writeDevice_plantRate (v : Half) (u : State) (d : Device) (h : u.device = d) : writeDevice 6 v u =
    ({ u with device := { d with plantRate := if v.toNat < 864 then .slow else .fast }, plantAsm := .hunt },
      if v = 576 ∨ v = 1152 then .ok else .clamped) := by
  subst h
  obtain ⟨rate, status⟩ := putRate_eq 576 864 1152 v (by decide) (by decide)
  exact Prod.ext (congrArg (fun r => { u with device := { u.device with plantRate := r }, plantAsm := .hunt }) rate)
    status

theorem exec_galleryRate (rq : Requester) (v : Half) (s : State) : exec (.rateWrite rq .gallery v) s =
    .next (answer rq (if v = 192 ∨ v = 384 then .ok else .clamped)
      { fieldReached .device 0 5 s with
        device := { s.device with galleryRate := if v.toNat < 288 then .slow else .fast }, galleryAsm := .hunt }) := by
  refine request_deviceStored rq 5 v s _ _ (.inl (by decide)) rfl
    (writeDevice_galleryRate v _ _ (device_fieldReached ..)) ?_
  exact asksGrant_of rfl rfl rfl (galleryEnable_fieldReached .device 0 5 s).symm

theorem exec_plantRate (rq : Requester) (v : Half) (s : State) : exec (.rateWrite rq .plant v) s =
    .next (answer rq (if v = 576 ∨ v = 1152 then .ok else .clamped)
      { fieldReached .device 0 6 s with
        device := { s.device with plantRate := if v.toNat < 864 then .slow else .fast }, plantAsm := .hunt }) := by
  refine request_deviceStored rq 6 v s _ _ (.inl (by decide)) rfl
    (writeDevice_plantRate v _ _ (device_fieldReached ..)) ?_
  exact asksGrant_of rfl rfl rfl (galleryEnable_fieldReached .device 0 6 s).symm

/-! ### The own address (R163) -/

theorem storedStatus_putNat (lo hi : Nat) (v : Nat) :
    storedStatus (putNat lo hi v).2 = if max lo (min hi v) = v then .ok else .clamped :=
  storedStatus_iff (by simp [putNat, clampNat])

theorem addressTaken_iff (s : State) (a : Nat) : (s.nodes.any fun n => n.enable && n.address == a) = true ↔
    ∃ n < 64, (s.node n).enable = true ∧ (s.node n).address = a := by
  rw [Vector.any_eq_true]
  constructor
  · rintro ⟨i, l, h⟩
    refine ⟨i, l, ?_⟩
    simpa [State.node, Vector.getElem?_eq_getElem l] using h
  · rintro ⟨i, l, h⟩
    refine ⟨i, l, ?_⟩
    simpa [State.node, Vector.getElem?_eq_getElem l] using h

theorem writeDevice_ownAddress (v : Half) (u : State) : writeDevice 3 v u =
    if u.nodes.any (fun n => n.enable && n.address == max 1 (min 126 v.toNat)) then (u, .refError)
    else ({ u with device := { u.device with ownAddress := max 1 (min 126 v.toNat) } },
      if max 1 (min 126 v.toNat) = v.toNat then .ok else .clamped) := by
  rw [← storedStatus_putNat]
  rfl

/-! ### The supervision window (R171) -/

@[simp] theorem attended_becomeAttended (s : State) : (becomeAttended s).supervision.attended = true := by
  unfold becomeAttended
  split
  · assumption
  · simp

theorem now_becomeAttended (s : State) : (becomeAttended s).now = s.now := (reported_becomeAttended s).now

theorem device_becomeAttended (s : State) : (becomeAttended s).device = s.device := (reported_becomeAttended s).device

theorem windowStored_eq (s : State) : windowStored s =
    { becomeAttended s with supervision := ⟨true, if s.device.supervisionWindow = 0 then none else
      some (s.now + s.device.supervisionWindow * unitsPerSecond)⟩ } := by
  unfold windowStored supervisionRestart
  by_cases h : s.device.supervisionWindow = 0
  · simp only [h, if_true]
    rw [← attended_becomeAttended s]
  · simp only [h, if_false, windowEnd, now_becomeAttended, device_becomeAttended]
    rw [← attended_becomeAttended s]

/-- R163: the window as stored. -/
def storedWindow (v : Half) : Nat := if v = 0 then 0 else max 10 (min 3600 v.toNat)

theorem putWindow_eq (v : Half) : (putWindow v).1 = storedWindow v ∧
    storedStatus (putWindow v).2 = if storedWindow v = v.toNat then .ok else .clamped := by
  by_cases h : v = 0
  · subst h
    exact ⟨rfl, rfl⟩
  · simp only [putWindow, storedWindow, h, if_false]
    exact ⟨rfl, storedStatus_putNat 10 3600 v.toNat⟩

theorem writeDevice_window (v : Half) (u : State) (d : Device) (n : Nat) (h : u.device = d) (k : u.now = n) :
    writeDevice 11 v u =
    ({ becomeAttended { u with device := { d with supervisionWindow := storedWindow v } } with
        supervision := ⟨true, if storedWindow v = 0 then none else some (n + storedWindow v * unitsPerSecond)⟩ },
      if storedWindow v = v.toNat then .ok else .clamped) := by
  subst h k
  obtain ⟨window, status⟩ := putWindow_eq v
  refine Prod.ext ?_ status
  refine (congrArg (fun w => windowStored { u with device := { u.device with supervisionWindow := w } })
    window).trans ?_
  exact windowStored_eq _

theorem exec_window (rq : Requester) (v : Half) (s : State) :
    let u := fieldReached .device 0 11 s
    exec (.supervisionWindowWrite rq v) s = .next (answer rq (if storedWindow v = v.toNat then .ok else .clamped)
      { becomeAttended { u with device := { s.device with supervisionWindow := storedWindow v } } with
        supervision := ⟨true, if storedWindow v = 0 then none else
          some (s.now + storedWindow v * unitsPerSecond)⟩ }) := by
  intro u
  have r := reported_becomeAttended { u with device := { s.device with supervisionWindow := storedWindow v } }
  exact request_deviceStored rq 11 v s _ _ (.inl (by decide)) rfl
    (writeDevice_window v u _ _ (device_fieldReached ..) (now_fieldReached ..))
    (asksGrant_of r.galleryOrigin r.nodes r.loading ((congrArg Device.galleryEnable r.device).trans
      (galleryEnable_fieldReached .device 0 11 s).symm))

/-! ### The masks (R148) -/

theorem conditionCode_bounds (k : ConditionKind) : 1 ≤ conditionCode k ∧ conditionCode k ≤ 19 := by
  cases k <;> decide

/-- The kinds of condition by their number. -/
def kindsByCode : List ConditionKind :=
  [.nodeSilent, .nodeDisplaced, .pointFault, .doseExhausted, .paceShort, .sourceDegraded, .overCeiling, .doseUnknown,
    .groupBlind, .actuatorSilent, .levelMismatch, .rhExcursion, .tExcursion, .rhDrift, .zoneBlind, .linkDegraded,
    .mgmtLost, .clockUnset, .imageFault]

theorem kindsByCode_conditionCode (k : ConditionKind) : kindsByCode[conditionCode k - 1]? = some k := by
  cases k <;> rfl

theorem conditionCode_inj {a b : ConditionKind} : conditionCode a = conditionCode b ↔ a = b := by
  refine ⟨fun h => ?_, congrArg conditionCode⟩
  have := kindsByCode_conditionCode a
  rw [h, kindsByCode_conditionCode b] at this
  exact (Option.some.inj this).symm

theorem putDevice_mask (k : ConditionKind) (v : Half) (d : Device) : ∃ masks : Vector Bool 19,
    putDevice (22 + conditionCode k) v d = ({ d with masks := masks }, false) ∧
    ∀ j < 19, masks[j]? = if j + 1 = conditionCode k then some (v == 1) else d.masks[j]? := by
  obtain ⟨low, high⟩ := conditionCode_bounds k
  have inside : 22 + conditionCode k - 23 < 19 := by omega
  refine ⟨d.masks.set (22 + conditionCode k - 23) (v == 1) inside, ?_, fun j l => ?_⟩
  · have big : 23 ≤ 22 + conditionCode k := by omega
    generalize 22 + conditionCode k = f at inside big
    unfold putDevice
    split
    all_goals first | omega | simp only [inside, dite_true]
  · rw [Vector.getElem?_set]
    by_cases e : 22 + conditionCode k - 23 = j
    · rw [if_pos e, if_pos (by omega)]
    · rw [if_neg e, if_neg (by omega)]

theorem codeAccepted_mask (k : ConditionKind) (v : Half) :
    codeAccepted .device ⟨0, 22 + conditionCode k⟩ v = decide (v.toNat ≤ 1) := by
  cases k <;> rfl

theorem writeDevice_maskField (k : ConditionKind) (v : Half) (u : State) : writeDevice (22 + conditionCode k) v u =
    (maskStored (22 + conditionCode k) v { u with device := (putDevice (22 + conditionCode k) v u.device).1 },
      storedStatus (putDevice (22 + conditionCode k) v u.device).2) := by
  cases k <;> rfl

theorem maskStored_eq (k : ConditionKind) (v : Half) (u : State) : maskStored (22 + conditionCode k) v u =
    { u with latches := if v = 0 ∧ ∃ c ∈ u.conditions, c.state = .active ∧ c.kind = k then
      { u.latches with clear := false } else u.latches } := by
  have active :
      u.conditions.any (fun c => c.state == .active && conditionCode c.kind == 22 + conditionCode k - 22) = true ↔
      ∃ c ∈ u.conditions, c.state = .active ∧ c.kind = k := by
    rw [Nat.add_sub_cancel_left, List.any_eq_true]
    simp only [Bool.and_eq_true, beq_iff_eq, conditionCode_inj]
  unfold maskStored
  by_cases h : v = 0 ∧ ∃ c ∈ u.conditions, c.state = .active ∧ c.kind = k
  · rw [if_pos h, if_pos ⟨h.1, active.mpr h.2⟩]
  · rw [if_neg h, if_neg fun m => h ⟨m.1, active.mp m.2⟩]

theorem writeDevice_mask (k : ConditionKind) (v : Half) (u : State) (d : Device) (h : u.device = d) :
    ∃ masks : Vector Bool 19, writeDevice (22 + conditionCode k) v u =
      ({ u with
        device := { d with masks := masks }
        latches :=
          if v = 0 ∧ ∃ c ∈ u.conditions, c.state = .active ∧ c.kind = k then { u.latches with clear := false }
          else u.latches }, .ok) ∧
      ∀ j < 19, masks[j]? = if j + 1 = conditionCode k then some (v == 1) else d.masks[j]? := by
  subst h
  obtain ⟨masks, put, at'⟩ := putDevice_mask k v u.device
  refine ⟨masks, ?_, at'⟩
  rw [writeDevice_maskField, put]
  exact Prod.ext (maskStored_eq k v _) rfl

/-- Settles O43: each write by the rule of its field (`request_deviceStored`, `request_deviceRange`). -/
theorem deviceSettingWrites : Obligations.DeviceSettingWrites := by
  unfold Obligations.DeviceSettingWrites
  refine ⟨fun rq v s => ⟨exec_galleryRate rq v s, exec_plantRate rq v s⟩, fun rq v s => ?_, fun rq v s => ?_,
    fun rq k v s => ?_⟩
  · intro a
    have taken_iff := addressTaken_iff (fieldReached .device 0 3 s) a
    simp only [node_fieldReached] at taken_iff
    refine ⟨fun used => ?_, fun unused => ?_⟩
    · refine request_deviceStored rq 3 v s _ _ (.inl (by decide)) rfl ?_ (asksGrant_self _)
      rw [writeDevice_ownAddress, if_pos (taken_iff.mpr used)]
    · refine request_deviceStored rq 3 v s _ _ (.inl (by decide)) rfl ?_
        (asksGrant_of rfl rfl rfl (galleryEnable_fieldReached .device 0 3 s).symm)
      rw [writeDevice_ownAddress, if_neg fun used => ?_, device_fieldReached]
      obtain ⟨n, l, e, h⟩ := taken_iff.mp used
      exact unused n l e h
  · refine ⟨exec_window rq v s, _, exec_window rq v s, ?_⟩
    have r := reported_becomeAttended
      { fieldReached .device 0 11 s with device := { s.device with supervisionWindow := storedWindow v } }
    simp only [device_answer, supervision_answer, nodes_answer, points_answer, objects_answer, groups_answer,
      zones_answer, calendar_answer, line_answer, store_answer]
    exact ⟨r.device, rfl, r.nodes.trans (nodes_fieldReached .device 0 11 s),
      r.points.trans (points_fieldReached .device 0 11 s),
      r.objects.trans (objects_fieldReached .device 0 11 s), r.groups.trans (groups_fieldReached .device 0 11 s),
      r.zones.trans (zones_fieldReached .device 0 11 s), r.calendar.trans (calendar_fieldReached .device 0 11 s),
      r.line.trans (line_fieldReached .device 0 11 s), r.store.trans (store_fieldReached .device 0 11 s)⟩
  · obtain ⟨low, high⟩ := conditionCode_bounds k
    refine ⟨fun big => ?_, fun small => ?_⟩
    · refine request_deviceRange rq _ v s (.inr (by omega)) ?_
      rw [codeAccepted_mask]
      exact decide_eq_false (by omega)
    · obtain ⟨masks, written, at'⟩ :=
        writeDevice_mask k v (fieldReached .device 0 (22 + conditionCode k) s) s.device (device_fieldReached ..)
      refine ⟨masks, ?_, at'⟩
      refine request_deviceStored rq _ v s _ _ (.inr (by omega)) ?_ written
        (asksGrant_of rfl rfl rfl (galleryEnable_fieldReached .device 0 (22 + conditionCode k) s).symm)
      rw [codeAccepted_mask]
      exact decide_eq_true small

end Sys2Proof.Machine
end

section
/-! PROOF. The writes of the port enables (O42). -/

namespace Sys2Proof.Machine

/-! ### Counters that a frame statement keeps -/

theorem counter_of_withoutCounters {ids : List CounterId} {v w : Vector Counter 17}
    (h : withoutCounters ids v = withoutCounters ids w) (i : Nat) (l : i < 17)
    (n : ids.any (fun d => counterIndex d == i) = false) : v[i] = w[i] := by
  have e := congrArg (fun x : Vector Counter 17 => x[i]) h
  simp only [withoutCounters, Vector.getElem_mapFinIdx, n] at e
  exact e

theorem Evaluated.counter {s t : State} (h : Evaluated s t) (i : Nat) (l : i < 17) (n : i ≠ 11 ∧ i ≠ 12) :
    t.counters[i] = s.counters[i] := by
  refine counter_of_withoutCounters (congrArg State.counters h.frame) i l ?_
  simp only [List.any_cons, List.any_nil, counterIndex, Bool.or_false, Bool.or_eq_false_iff, beq_eq_false_iff_ne]
  omega

theorem counter_answer (rq : Requester) (st : Status) (s : State) (i : Nat) (l : i < 17) (n : i ≠ 11 ∧ i ≠ 12) :
    (answer rq st s).counters[i] = s.counters[i] := (reported_answer rq st s).evaluated.counter i l n

theorem counter_fieldReached (t : TableId) (e : Half) (f : Nat) (s : State) (i : Nat) (l : i < 17)
    (n : i ≠ 11 ∧ i ≠ 12) : (fieldReached t e f s).counters[i] = s.counters[i] :=
  (reported_supervisionRestart s).evaluated.counter i l n

/-! ### The grant after a request -/

theorem lit_grantAfter (b : Bool) (s : State) : Lit s (grantAfter b s) := by
  unfold grantAfter
  split
  · exact lit_grant s
  · exact .refl s

theorem grantAfter_of_not_free (b : Bool) (s : State) (h : s.line ≠ .free) : grantAfter b s = s := by
  unfold grantAfter
  split
  · exact grant_of_not_free s h
  · rfl

/-- During the load no write of a port enable asks for a grant. -/
theorem asksGrant_of_loading {s t : State} (q : t.galleryOrigin = s.galleryOrigin) (n : t.nodes = s.nodes)
    (l : t.loading = true) : asksGrant s t = false := by
  simp [asksGrant, q, node_congr n, portOn, l]

/-- An answer at a line that is not FREE makes no grant. -/
theorem answered_of_not_free (rq : Requester) (st : Status) (s t : State) (h : t.line ≠ .free) :
    answered rq st s t = answer rq st t :=
  grantAfter_of_not_free _ _ (by rwa [line_answer])

theorem presentLevel_line (f : Frame) (s : State) :
    (presentLevel f s).1.line = s.line ∧ (presentLevel f s).1.galleryAsm = s.galleryAsm := by
  unfold presentLevel
  split
  · exact ⟨rfl, rfl⟩
  · dsimp only
    split
    · split <;> exact ⟨rfl, rfl⟩
    · split
      · exact ⟨rfl, rfl⟩
      · split
        · exact ⟨rfl, rfl⟩
        · obtain ⟨most, own, -⟩ := forwardedLevel_le s (groupsReached s f.dest _) _
          have caps := evaluated_capGroups _ _ most own
          refine ⟨(caps _ _).line.trans ?_, (caps _ _).galleryAsm.trans ?_⟩ <;> split <;> rfl

/-- R8, R22: the line carries a frame of the part's, and nothing is in assembly. -/
def sends (t : State) : Prop := (∃ tr, t.line = .busy tr) ∧ t.galleryAsm = .hunt

theorem sends_startSending (kind : TransactionKind) (f : Frame) (awaited accepts : Option Byte) (s : State) :
    sends (startSending kind f awaited accepts s) := by
  obtain ⟨cs, e, -⟩ := abandonForDrive_frame s
  exact ⟨⟨_, rfl⟩, congrArg State.galleryAsm e⟩

/-- A grant sends, or leaves the line and the assembler as they are. -/
theorem grantOnce_cases (c : GrantClass) (s : State) : sends (grantOnce c s) ∨
    (grantOnce c s).line = s.line ∧ (grantOnce c s).galleryAsm = s.galleryAsm := by
  cases c with
  | command =>
      show sends (grantCommand _) ∨ (grantCommand _).line = _ ∧ (grantCommand _).galleryAsm = _
      unfold grantCommand
      split
      · exact .inr ⟨rfl, rfl⟩
      · rename_i g rest _
        unfold presentCommand
        dsimp only
        split
        · exact .inl (sends_startSending _ _ _ _ _)
        · have e := evaluated_declineCommand g { s with pointer := classAfter .command, galleryOrigin := rest }
          exact .inr ⟨e.line, e.galleryAsm⟩
  | forward =>
      show sends (grantForward _) ∨ (grantForward _).line = _ ∧ (grantForward _).galleryAsm = _
      unfold grantForward
      split
      · exact .inr ⟨rfl, rfl⟩
      · rename_i f rest _
        unfold presentForward
        split
        · have same := presentLevel_line f { s with pointer := classAfter .forward, p2g := rest }
          split <;> rename_i e <;> rw [e] at same
          · exact .inl (sends_startSending _ _ _ _ _)
          · exact .inr same
        · exact .inl (sends_startSending _ _ _ _ _)
  | poll =>
      show sends (grantPoll _) ∨ (grantPoll _).line = _ ∧ (grantPoll _).galleryAsm = _
      unfold grantPoll
      split
      · exact .inr ⟨rfl, rfl⟩
      · exact .inl (sends_startSending _ _ _ _ _)

/-- What every single grant keeps, the grants at a FREE line keep. -/
theorem grant_induct (P : State → Prop) (step : ∀ c u, P u → P (grantOnce c u)) (s : State) (h : P s) :
    P (grant s) := by
  have loop : ∀ fuel (u : State), P u → P (grantLoop fuel u) := by
    intro fuel
    induction fuel with
    | zero => exact fun u h => h
    | succ n ih =>
        intro u h
        unfold grantLoop
        split
        · split
          · exact h
          · exact ih _ (step _ u h)
        · exact h
  exact loop _ s h

theorem line_grant (s : State) (h : s.line ≠ .off) : (grant s).line ≠ .off := by
  refine grant_induct (fun u => u.line ≠ .off) (fun c u h => ?_) s h
  rcases grantOnce_cases c u with ⟨⟨tr, busy⟩, -⟩ | ⟨same, -⟩
  · rw [busy]
    simp
  · rw [same]
    exact h

theorem hunt_grant (s : State) (h : s.galleryAsm = .hunt) : (grant s).galleryAsm = .hunt := by
  refine grant_induct (fun u => u.galleryAsm = .hunt) (fun c u h => ?_) s h
  rcases grantOnce_cases c u with ⟨-, hunt⟩ | ⟨-, same⟩
  · exact hunt
  · exact same.trans h

theorem line_grantAfter (b : Bool) (s : State) (h : s.line ≠ .off) : (grantAfter b s).line ≠ .off := by
  unfold grantAfter
  split
  · exact line_grant s h
  · exact h

/-! ### The gallery port turned off (R18, R39) -/

/-- R18: the gallery port off, with P2G empty and counted. -/
def galleryOff (u : State) : State :=
  countMany .p2gDrops u.p2g.length { u with
    device := { u.device with galleryEnable := false }, galleryAsm := .hunt, p2g := [], line := .off }

/-- R39: what becomes of the transaction of a line that goes OFF. -/
def lineEnded (l : Line) (off : State) : State :=
  match l with
  | .busy ⟨.command g _, _, _, _, _, _⟩ => commandCancelled g off
  | .busy ⟨.forward, _, _, _, .sending _, _⟩ => count .p2gDrops off
  | _ => off

/-- R18: the forwarded frames in flight. -/
def cutForward (l : Line) : Nat :=
  match l with
  | .busy ⟨.forward, _, _, _, .sending _, _⟩ => 1
  | _ => 0

theorem endTransaction_eq (t : Transaction) (off : State) : endTransaction t off = lineEnded (.busy t) off := by
  obtain ⟨kind, _, _, _, phase, _⟩ := t
  cases kind <;> cases phase <;> rfl

theorem disableGalleryPort_eq (u : State) : disableGalleryPort u = lineEnded u.line (galleryOff u) := by
  show lineOff (countMany .p2gDrops u.p2g.length { u with
    device := { u.device with galleryEnable := false }, galleryAsm := .hunt, p2g := [] }) = _
  unfold lineOff
  split <;> rename_i h <;> change u.line = _ at h <;> rw [h]
  · exact endTransaction_eq _ _
  · show _ = galleryOff u
    rw [← set_line_self u .off h]
    rfl
  · rfl
  · rfl

/-- R39: a transaction ends with an evaluation at most, or with the forwarded frame counted. -/
theorem lineEnded_cases (l : Line) (off : State) :
    Evaluated off (lineEnded l off) ∧ cutForward l = 0 ∨ lineEnded l off = count .p2gDrops off ∧ cutForward l = 1 := by
  cases l with
  | busy t =>
      obtain ⟨kind, _, _, _, phase, _⟩ := t
      cases kind with
      | command g n => exact .inl ⟨evaluated_commandCancelled g off, rfl⟩
      | poll n => exact .inl ⟨.refl off, rfl⟩
      | forward =>
          cases phase with
          | sending e => exact .inr ⟨rfl, rfl⟩
          | window e => exact .inl ⟨.refl off, rfl⟩
  | _ => exact .inl ⟨.refl off, rfl⟩

theorem galleryOff_counters (u : State) :
    (galleryOff u).counters[6].current = min 65535 (u.counters[6].current + u.p2g.length) ∧
      (galleryOff u).counters[2] = u.counters[2] ∧ (galleryOff u).counters[4] = u.counters[4] :=
  ⟨congrArg Counter.current (getElem_counters_countMany .p2gDrops u.p2g.length _ 6 (by decide)),
    getElem_counters_countMany .p2gDrops _ _ 2 (by decide), getElem_counters_countMany .p2gDrops _ _ 4 (by decide)⟩

theorem lineEnded_frame (l : Line) (off : State) (small : off.counters[6].current ≤ 65535) :
    let t := lineEnded l off
    t.device = off.device ∧ t.line = off.line ∧ t.p2g = off.p2g ∧ t.galleryAsm = off.galleryAsm ∧
      t.pollList = off.pollList ∧ t.pointer = off.pointer ∧ t.gallerySeq = off.gallerySeq ∧ t.nodes = off.nodes ∧
      t.counters[6].current = min 65535 (off.counters[6].current + cutForward l) ∧
      t.counters[2] = off.counters[2] ∧ t.counters[4] = off.counters[4] := by
  rcases lineEnded_cases l off with ⟨e, cut⟩ | ⟨e, cut⟩
  · refine ⟨e.device, e.line, e.p2g, e.galleryAsm, e.pollList, e.pointer, e.gallerySeq, e.nodes, ?_,
      e.counter 2 (by decide) (by decide), e.counter 4 (by decide) (by decide)⟩
    rw [cut, e.counter 6 (by decide) (by decide)]
    omega
  · rw [e, cut]
    refine ⟨rfl, rfl, rfl, rfl, rfl, rfl, rfl, rfl, ?_, getElem_counters_countMany .p2gDrops 1 off 2 (by decide),
      getElem_counters_countMany .p2gDrops 1 off 4 (by decide)⟩
    exact congrArg Counter.current (getElem_counters_countMany .p2gDrops 1 off 6 (by decide))

/-! ### A command cancelled (R39) -/

theorem commandCancelled_kept (g : Nat) (s : State) (h : (s.group g).enable = false ∨ (s.group g).phase ≠ .sent) :
    commandCancelled g s = s := by
  have : stillSent s g = false := by
    rcases h with h | h <;> simp [stillSent, h]
  simp [commandCancelled, this]

theorem commandCancelled_sent (g : Nat) (s : State) (e : (s.group g).enable = true) (h : (s.group g).phase = .sent) :
    commandCancelled g s = rejudgeZone (s.group g).zone
      (s.modGroup g fun _ => { s.group g with phase := .idle, resend := true }) := by
  have sent : stillSent s g = true := by simp [stillSent, e, h]
  rw [commandCancelled, if_pos sent, modGroup_at]

/-! ### The gallery port turned on (R20, R31, R39) -/

theorem enableGalleryPort_eq (u : State) : enableGalleryPort u =
    let on := { u with device := { u.device with galleryEnable := true }, galleryAsm := .hunt }
    if u.loading then on
    else { on with
      line := .free
      pollList := (indicesWhere 64 fun n => u.pollList.any fun e => e.node == n).map fun n => ⟨n, runningMs u⟩ } := rfl

/-! ### The plant port turned off (R18, R167) -/

/-- R18: the plant port off, with its queues empty, and the cut-off frame and the queues counted. -/
def plantOff (u : State) : State :=
  let off := { u with
    device := { u.device with plantEnable := false }, plantAsm := .hunt, g2p := [], plantOrigin := [], plantTx := none }
  let cut := match u.plantTx with
    | some ⟨_, .g2p, _, _⟩ => count .g2pDrops off
    | some ⟨_, .origin, _, _⟩ => count .plantOriginDrops off
    | none => off
  countMany .plantOriginDrops u.plantOrigin.length (countMany .g2pDrops u.g2p.length cut)

theorem holdsRestartReply_iff (u : State) : holdsRestartReply u = true ↔
    (∃ o ∈ u.plantOrigin, o.tag = .reply true) ∨ ∃ x, u.plantTx = some x ∧ x.ofRestart = true := by
  simp [holdsRestartReply, Option.any_eq_true]

theorem disablePlantPort_eq (u : State) : disablePlantPort u =
    if holdsRestartReply u then restartReplyGone (plantOff u) else plantOff u := by
  have flushed : flushPlant (cutPlantFrame (huntQuietly .plant
      { u with device := { u.device with plantEnable := false } })) = plantOff u := by
    unfold cutPlantFrame plantOff
    show flushPlant (match u.plantTx with | none => _ | some t => _) = _
    rcases u.plantTx with _ | ⟨_, _ | _, _, _⟩ <;> rfl
  show (if holdsRestartReply u then restartReplyGone (flushPlant _) else flushPlant _) = _
  rw [flushed]

theorem disablePlantPort_frame (u : State) :
    ∃ hd pr, disablePlantPort u = { plantOff u with handed := hd, procedure := pr } := by
  rw [disablePlantPort_eq]
  split
  · exact restartReplyGone_frame _
  · exact ⟨_, _, rfl⟩

/-- R18: the frames of each queue of the plant port in flight. -/
def cutFrames (q : PlantQueue) (tx : Option PlantTx) : Nat :=
  match tx with
  | some x => if x.source = q then 1 else 0
  | none => 0

theorem cutFrames_g2p (tx : Option PlantTx) :
    cutFrames .g2p tx = match tx with | some ⟨_, .g2p, _, _⟩ => 1 | _ => 0 := by
  rcases tx with _ | ⟨_, _ | _, _, _⟩ <;> rfl

theorem cutFrames_origin (tx : Option PlantTx) :
    cutFrames .origin tx = match tx with | some ⟨_, .origin, _, _⟩ => 1 | _ => 0 := by
  rcases tx with _ | ⟨_, _ | _, _, _⟩ <;> rfl

theorem plantOff_frame (u : State) :
    (plantOff u).procedure = u.procedure ∧ (plantOff u).handed = u.handed ∧
    (plantOff u).turn = u.turn ∧ (plantOff u).plantSeq = u.plantSeq ∧ (plantOff u).nodes = u.nodes ∧
    (plantOff u).galleryOrigin = u.galleryOrigin ∧ (plantOff u).loading = u.loading ∧
    (plantOff u).device = { u.device with plantEnable := false } ∧ (plantOff u).g2p = [] ∧
    (plantOff u).plantOrigin = [] ∧ (plantOff u).plantTx = none ∧ (plantOff u).plantAsm = .hunt ∧
    (plantOff u).counters[10] = u.counters[10] ∧
    (plantOff u).counters[11].current =
      min 65535 (u.counters[11].current + u.g2p.length + cutFrames .g2p u.plantTx) ∧
    (plantOff u).counters[12].current =
      min 65535 (u.counters[12].current + u.plantOrigin.length + cutFrames .origin u.plantTx) := by
  unfold plantOff
  rcases u.plantTx with _ | ⟨_, _ | _, _, _⟩ <;>
    refine ⟨rfl, rfl, rfl, rfl, rfl, rfl, rfl, rfl, rfl, rfl, rfl, rfl, ?_, ?_, ?_⟩ <;>
    simp [count, counterIndex, bumpCounter, satAdd, cutFrames, counter_modifyAt, top16] <;>
    omega

/-! ### The requests -/

theorem deviceWritable_portEnable (p : PortId) : deviceWritable (portEnableField p) := by
  cases p <;> exact .inl (by decide)

theorem codeAccepted_portEnable (p : PortId) (v : Half) :
    codeAccepted .device ⟨0, portEnableField p⟩ v = decide (v.toNat ≤ 1) := by
  cases p <;> rfl

theorem writeDevice_portEnable (p : PortId) (v : Half) (u : State) :
    writeDevice (portEnableField p) v u = (setPortEnable p (v == 1) u, .ok) := by
  cases p <;> rfl

theorem exec_portEnable (rq : Requester) (p : PortId) (v : Half) (s : State) (h : v.toNat ≤ 1) :
    let u := fieldReached .device 0 (portEnableField p) s
    exec (.portEnableWrite rq p v) s = .next (answered rq .ok u (setPortEnable p (v == 1) u)) := by
  have run := request_deviceField rq (portEnableField p) v s (deviceWritable_portEnable p)
    ((codeAccepted_portEnable p v).trans (decide_eq_true h))
  dsimp only at run
  rw [writeDevice_portEnable] at run
  exact run

theorem exec_portEnable_range (rq : Requester) (p : PortId) (v : Half) (s : State) (h : 1 < v.toNat) :
    exec (.portEnableWrite rq p v) s = .next (answer rq .range (fieldReached .device 0 (portEnableField p) s)) :=
  request_deviceRange rq _ v s (deviceWritable_portEnable p)
    ((codeAccepted_portEnable p v).trans (decide_eq_false (by omega)))

theorem exec_portEnable_same (rq : Requester) (p : PortId) (v : Half) (s : State) (h : v.toNat ≤ 1)
    (same : ∀ u : State, u.device = s.device → setPortEnable p (v == 1) u = u) :
    exec (.portEnableWrite rq p v) s = .next (answer rq .ok (fieldReached .device 0 (portEnableField p) s)) := by
  have run := exec_portEnable rq p v s h
  dsimp only at run
  rw [run, same _ (device_fieldReached ..), answered_self]

theorem exec_galleryOff (rq : Requester) (s : State) (h : s.device.galleryEnable = true) :
    let u := fieldReached .device 0 7 s
    exec (.portEnableWrite rq .gallery 0) s = .next (answered rq .ok u (lineEnded s.line (galleryOff u))) := by
  have run := exec_portEnable rq .gallery 0 s (by decide)
  have on : (fieldReached .device 0 7 s).device.galleryEnable = true :=
    (galleryEnable_fieldReached .device 0 7 s).trans h
  have off : setPortEnable .gallery ((0 : Half) == 1) (fieldReached .device 0 7 s) =
      lineEnded s.line (galleryOff (fieldReached .device 0 7 s)) := by
    refine (if_neg ?_).trans ((disableGalleryPort_eq _).trans ?_)
    · rw [on]; decide
    · rw [line_fieldReached]
  refine run.trans ?_
  exact congrArg (fun t => Host.Outcome.next (answered rq .ok (fieldReached .device 0 7 s) t)) off

theorem exec_galleryOn (rq : Requester) (s : State) (h : s.device.galleryEnable = false) :
    let u := fieldReached .device 0 7 s
    exec (.portEnableWrite rq .gallery 1) s = .next (answered rq .ok u (enableGalleryPort u)) := by
  have run := exec_portEnable rq .gallery 1 s (by decide)
  have off : (fieldReached .device 0 7 s).device.galleryEnable = false :=
    (galleryEnable_fieldReached .device 0 7 s).trans h
  have on : setPortEnable .gallery ((1 : Half) == 1) (fieldReached .device 0 7 s) =
      enableGalleryPort (fieldReached .device 0 7 s) := by
    refine (if_neg ?_).trans rfl
    rw [off]; decide
  refine run.trans ?_
  exact congrArg (fun t => Host.Outcome.next (answered rq .ok (fieldReached .device 0 7 s) t)) on

theorem plantEnable_fieldReached (t : TableId) (e : Half) (f : Nat) (s : State) :
    (fieldReached t e f s).device.plantEnable = s.device.plantEnable :=
  congrArg Device.plantEnable (device_fieldReached t e f s)

theorem exec_plantOff (rq : Requester) (s : State) (h : s.device.plantEnable = true) :
    exec (.portEnableWrite rq .plant 0) s =
      .next (answer rq .ok (disablePlantPort (fieldReached .device 0 8 s))) := by
  let u := fieldReached .device 0 8 s
  have run := exec_portEnable rq .plant 0 s (by decide)
  have on : u.device.plantEnable = true := (plantEnable_fieldReached .device 0 8 s).trans h
  have off : setPortEnable .plant ((0 : Half) == 1) u = disablePlantPort u := by
    refine (if_neg ?_).trans rfl
    rw [on]; decide
  have quiet : asksGrant u (disablePlantPort u) = false := by
    obtain ⟨-, -, -, -, nodes, origin, loading, device, -⟩ := plantOff_frame u
    obtain ⟨hd, pr, e⟩ := disablePlantPort_frame u
    rw [e]
    exact asksGrant_of origin nodes loading
      (show (plantOff u).device.galleryEnable = u.device.galleryEnable by rw [device])
  refine run.trans ((congrArg (fun t => Host.Outcome.next (answered rq .ok u t)) off).trans ?_)
  exact congrArg Host.Outcome.next (answered_of rq .ok quiet)

/-- R14: an answer offered while the plant port is off is dropped and counted. -/
theorem answer_off (rq : Requester) (st : Status) (s : State) (h : s.device.plantEnable = false) :
    answer rq st s = count .plantOriginDrops s := by
  have off : portOn s .plant = false := by simp [portOn, h]
  refine (offerOrigin_off _ s off).trans ((dropOrigin_eq _ s).trans (if_neg ?_))
  simp

theorem exec_plantOn (rq : Requester) (s : State) (h : s.device.plantEnable = false) :
    exec (.portEnableWrite rq .plant 1) s = .next (answer rq .ok { fieldReached .device 0 8 s with
      device := { s.device with plantEnable := true }, plantAsm := .hunt }) := by
  let u := fieldReached .device 0 8 s
  have run := exec_portEnable rq .plant 1 s (by decide)
  have off : u.device.plantEnable = false := (plantEnable_fieldReached .device 0 8 s).trans h
  have on : setPortEnable .plant ((1 : Half) == 1) u =
      { u with device := { u.device with plantEnable := true }, plantAsm := .hunt } := by
    refine (if_neg ?_).trans rfl
    rw [off]; decide
  refine run.trans ((congrArg (fun t => Host.Outcome.next (answered rq .ok u t)) on).trans ?_)
  refine (congrArg Host.Outcome.next (answered_of rq .ok (asksGrant_of rfl rfl rfl rfl))).trans ?_
  exact congrArg (fun d : Device => Host.Outcome.next (answer rq .ok
    { u with device := { d with plantEnable := true }, plantAsm := .hunt })) (device_fieldReached ..)

/-- R18, R167: the plant port off; a RESTART whose reply is removed while it is waited for goes on. -/
theorem disablePlantPort_cases (u : State) :
    (holdsRestartReply u = false ∨ u.procedure.restart ≠ .awaitingReply → disablePlantPort u = plantOff u) ∧
    (holdsRestartReply u = true → u.procedure.restart = .awaitingReply → disablePlantPort u = { plantOff u with
      handed := u.handed ++ [.restartSaveStart], procedure := { u.procedure with restart := .replyGone } }) := by
  obtain ⟨procedure, handed, -⟩ := plantOff_frame u
  rw [disablePlantPort_eq]
  refine ⟨?_, fun h w => ?_⟩
  · rintro (h | w)
    · rw [h]; rfl
    · split
      · exact restartReplyGone_other _ (by rwa [procedure])
      · rfl
  · rw [h, if_pos rfl, restartReplyGone_waiting _ (by rwa [procedure]), procedure, handed]

/-- Settles O42: the requests by `exec_portEnable`, the ports by `disableGalleryPort_eq` and `disablePlantPort_eq`. -/
theorem portEnableWrite : Obligations.PortEnableWrite := by
  unfold Obligations.PortEnableWrite
  refine ⟨fun rq s on => ?_, fun g s => ?_, fun rq s off => ?_, fun rq s on => ?_, fun rq v s => ?_⟩
  · refine (exec_galleryOff rq s on).trans (congrArg (fun t => Host.Outcome.next (answered rq .ok _ t)) ?_)
    have same : galleryOff (fieldReached .device 0 7 s) = countMany .p2gDrops s.p2g.length
        { fieldReached .device 0 7 s with
          device := { s.device with galleryEnable := false }, galleryAsm := .hunt, p2g := [], line := .off } := by
      unfold galleryOff
      rw [p2g_fieldReached, device_fieldReached]
    rw [same]
    rfl
  · intro gr idle atRest
    refine ⟨commandCancelled_kept g s, fun l e sent => ?_⟩
    have rest : zoneAtRest idle gr.zone = true ↔ restOfZoneIdle s g :=
      zoneAtRest_of_idle s idle g (by rw [group_modGroup_self s g _ l]) fun h n => group_modGroup_other s g h _ n.symm
    rw [commandCancelled_sent g s e sent]
    refine ⟨fun q => rejudgeZone_quiet _ _ (q.imp id fun n => ?_), fun p r => rejudgeZone_runs _ _ p (rest.mpr r)⟩
    exact Bool.eq_false_iff.mpr fun a => n (rest.mp a)
  · refine (exec_galleryOn rq s off).trans (congrArg (fun t => Host.Outcome.next (answered rq .ok _ t)) ?_)
    refine (enableGalleryPort_eq _).trans ?_
    simp only [device_fieldReached, loading_fieldReached, pollList_fieldReached, runningMs, now_fieldReached]
  · intro u off cut counted removed
    have same : plantOff u = counted := by
      unfold plantOff
      rw [show u.device = s.device from device_fieldReached ..] <;> rfl
    have held : holdsRestartReply u = true ↔ removed := holdsRestartReply_iff u
    have procedure : u.procedure = s.procedure := procedure_fieldReached ..
    have handed : u.handed = s.handed := handed_fieldReached ..
    obtain ⟨kept, gone⟩ := disablePlantPort_cases u
    rw [procedure] at kept gone
    rw [exec_plantOff rq s on]
    refine ⟨fun h => ?_, fun h w => ?_⟩
    · rw [kept (h.imp (fun n => Bool.eq_false_iff.mpr fun y => n (held.mp y)) id), same]
    · rw [gone (held.mpr h) w, same, handed]
  · refine ⟨fun p big => exec_portEnable_range rq p v s big, fun present => ?_, fun present => ?_, ?_, ?_, ?_, ?_⟩
    · refine exec_portEnable_same rq .gallery v s ?_ fun u d => if_pos ?_
      · rw [present]; split <;> decide
      · rw [d, present]; cases s.device.galleryEnable <;> rfl
    · refine exec_portEnable_same rq .plant v s ?_ fun u d => if_pos ?_
      · rw [present]; split <;> decide
      · rw [d, present]; cases s.device.plantEnable <;> rfl
    · rintro rfl on
      let u := fieldReached .device 0 7 s
      obtain ⟨off6, off2, off4⟩ := galleryOff_counters u
      obtain ⟨device, line, p2g, asm, list, pointer, seq, nodes, c6, c2, c4⟩ :=
        lineEnded_frame s.line (galleryOff u) (by omega)
      have run := exec_galleryOff rq s on
      dsimp only at run
      rw [answered_of_not_free _ _ _ _ (by rw [line]; simp [galleryOff])] at run
      refine ⟨_, run, ?_⟩
      have counter := fun i l n => counter_fieldReached .device 0 7 s i l n
      refine ⟨?_, (line_answer ..).trans line, (p2g_answer ..).trans p2g, (galleryAsm_answer ..).trans asm,
        (pollList_answer ..).trans (list.trans (pollList_fieldReached .device 0 7 s)),
        (pointer_answer ..).trans (pointer.trans (pointer_fieldReached .device 0 7 s)),
        (gallerySeq_answer ..).trans (seq.trans (gallerySeq_fieldReached .device 0 7 s)),
        (nodes_answer ..).trans (nodes.trans (nodes_fieldReached .device 0 7 s)), ?_, ?_, ?_⟩
      · refine (device_answer ..).trans (device.trans ?_)
        exact congrArg (fun d : Device => { d with galleryEnable := false }) (device_fieldReached .device 0 7 s)
      · rw [counter_answer _ _ _ 6 (by decide) (by decide), c6, off6, counter 6 (by decide) (by decide),
          show u.p2g = s.p2g from p2g_fieldReached .device 0 7 s]
        show _ = min 65535 (s.counters[6].current + s.p2g.length + cutForward s.line)
        omega
      · rw [counter_answer _ _ _ 2 (by decide) (by decide), c2, off2]
        exact counter 2 (by decide) (by decide)
      · rw [counter_answer _ _ _ 4 (by decide) (by decide), c4, off4]
        exact counter 4 (by decide) (by decide)
    · rintro rfl off
      let u := fieldReached .device 0 7 s
      refine ⟨_, exec_galleryOn rq s off, ?_⟩
      have g := lit_grantAfter (asksGrant u (enableGalleryPort u)) (answer rq .ok (enableGalleryPort u))
      have device : (enableGalleryPort u).device = { s.device with galleryEnable := true } := by
        rw [enableGalleryPort_eq, show u.device = s.device from device_fieldReached ..]
        dsimp only
        split <;> rfl
      have nodes : (enableGalleryPort u).nodes = s.nodes := by
        refine Eq.trans ?_ (nodes_fieldReached .device 0 7 s)
        rw [enableGalleryPort_eq]
        dsimp only
        split <;> rfl
      refine ⟨g.device.trans ((device_answer ..).trans device), fun running => ?_, fun loads => ?_,
        g.nodes.trans ((nodes_answer ..).trans nodes)⟩
      · have free : enableGalleryPort u = _ :=
          (enableGalleryPort_eq u).trans (if_neg
            (by rw [show u.loading = s.loading from loading_fieldReached ..]; simp [running]))
        refine ⟨line_grantAfter _ _ ?_, g.pollList.trans ((pollList_answer ..).trans ?_)⟩
        · rw [line_answer, free]
          simp
        · rw [free]
          simp only [u, pollList_fieldReached, runningMs, now_fieldReached]
      · have waits : enableGalleryPort u = _ :=
          (enableGalleryPort_eq u).trans (if_pos
            (by rw [show u.loading = s.loading from loading_fieldReached ..]; exact loads))
        have quiet : asksGrant u (enableGalleryPort u) = false := by
          refine asksGrant_of_loading ?_ ?_ ?_ <;> rw [waits]
          exact (loading_fieldReached .device 0 7 s).trans loads
        rw [answered_of _ _ quiet, line_answer, pollList_answer, waits]
        exact ⟨line_fieldReached .device 0 7 s, pollList_fieldReached .device 0 7 s⟩
    · rintro rfl on
      let u := fieldReached .device 0 8 s
      obtain ⟨-, -, turn, seq, nodes, -, -, device, g2p, origin, tx, asm, c10, c11, c12⟩ := plantOff_frame u
      obtain ⟨hd, pr, e⟩ := disablePlantPort_frame u
      have run := (exec_plantOff rq s on).trans (congrArg (fun t => Host.Outcome.next (answer rq .ok t)) e)
      have dropped := answer_off rq .ok { plantOff u with handed := hd, procedure := pr }
        (show (plantOff u).device.plantEnable = false by rw [device])
      refine ⟨_, run.trans (congrArg Host.Outcome.next dropped), ?_, g2p, origin, tx, asm, turn, seq,
        nodes.trans (nodes_fieldReached .device 0 8 s), ?_, ?_, ?_⟩
      · exact device.trans
          (congrArg (fun d : Device => { d with plantEnable := false }) (device_fieldReached .device 0 8 s))
      · refine (getElem_counters_countMany .plantOriginDrops 1 _ 10 (by decide)).trans (c10.trans ?_)
        exact counter_fieldReached .device 0 8 s 10 (by decide) (by decide)
      · refine (congrArg Counter.current (getElem_counters_countMany .plantOriginDrops 1 _ 11 (by decide))).trans
          (c11.trans (congrArg (fun n => min 65535 (u.counters[11].current + u.g2p.length + n)) ?_))
        exact cutFrames_g2p _
      · refine (congrArg Counter.current (getElem_counters_countMany .plantOriginDrops 1 _ 12 (by decide))).trans ?_
        have cap : ∀ a, min 65535 (min 65535 a + 1) = min 65535 (a + 1) := fun a => by omega
        show min 65535 ((plantOff u).counters[12].current + 1) = _
        rw [c12, cutFrames_origin]
        exact cap _
    · rintro rfl off
      exact exec_plantOn rq s off

end Sys2Proof.Machine
end

section
/-! PROOF. What the judgement of the zone modes and the year-roll tests change, and the CLOCK frame (O28). -/

namespace Sys2Proof.Machine

/-! ### The zone modes (R101) -/

/-- The zone but for what a judgement of its mode, an evaluation and a grant change. -/
def zoneOfMode (z : Zone) : Zone := { zoneSettings z with mode := .dark }

/-- The state but for what judgements of modes, evaluations and grants change. -/
def exceptModes (s : State) : State :=
  { exceptLight s with zones := s.zones.map zoneOfMode }

theorem Lit.exceptModes {s t : State} (h : Lit s t) : exceptModes t = exceptModes s := by
  have e := congrArg (fun u : State => { u with zones := u.zones.map fun z : Zone => { z with mode := .dark } }) h.frame
  simp only [exceptLight, Vector.map_map] at e
  exact e

theorem exceptModes_modZone (s : State) (z : Nat) (f : Zone → Zone) (h : ∀ x, zoneOfMode (f x) = zoneOfMode x) :
    exceptModes (s.modZone z f) = exceptModes s := by
  simp only [exceptModes, zones_modZone, map_modifyAt _ _ _ _ h]
  rfl

theorem zoneOfMode_eq {s t : State} (h : exceptModes t = exceptModes s) (z : Nat) :
    zoneOfMode (t.zone z) = zoneOfMode (s.zone z) := by
  have e := congrArg (fun u : State => u.zones[z]?) h
  simp only [exceptModes, Vector.getElem?_map] at e
  unfold State.zone
  cases ht : t.zones[z]? <;> cases hs : s.zones[z]? <;> simp_all

theorem fields_exceptModes {s t : State} (h : exceptModes t = exceptModes s) :
    t.calendar = s.calendar ∧ t.handed = s.handed ∧ t.nodes = s.nodes ∧ t.points = s.points ∧ t.device = s.device ∧
      t.store = s.store ∧ t.objects = s.objects :=
  ⟨(congrArg State.calendar h :), (congrArg State.handed h :), (congrArg State.nodes h :), (congrArg State.points h :),
    (congrArg State.device h :), (congrArg State.store h :), (congrArg State.objects h :)⟩

theorem fieldsOfLoad_exceptModes {s t : State} (h : exceptModes t = exceptModes s) :
    t.pollList = s.pollList ∧ t.now = s.now ∧ t.save = s.save ∧ t.procedure = s.procedure ∧
      t.supervision = s.supervision :=
  ⟨(congrArg State.pollList h :), (congrArg State.now h :), (congrArg State.save h :), (congrArg State.procedure h :),
    (congrArg State.supervision h :)⟩

theorem judgedMode_congr {y z : Zone} (h : zoneOfMode y = zoneOfMode z) (c : Calendar) :
    judgedMode c y = judgedMode c z := by
  have m : y.modeSource = z.modeSource := (congrArg Zone.modeSource h :)
  have fm : y.forcedMode = z.forcedMode := (congrArg Zone.forcedMode h :)
  have o : y.openFrom = z.openFrom := (congrArg Zone.openFrom h :)
  have t : y.openTo = z.openTo := (congrArg Zone.openTo h :)
  simp only [judgedMode, m, fm, o, t]

theorem modeChanges_iff (s : State) (z : Nat) : modeChanges s z = true ↔
    (s.zone z).enable = true ∧ (s.zone z).mode ≠ judgedMode s.calendar (s.zone z) := by
  simp [modeChanges]

/-- R101: a change of the mode is stored, and an evaluation requested. -/
theorem judgeMode_changes (z : Nat) (s : State) (e : (s.zone z).enable = true)
    (n : (s.zone z).mode ≠ judgedMode s.calendar (s.zone z)) :
    let w := s.modZone z fun zn => { zn with mode := judgedMode s.calendar (s.zone z) }
    judgeModeCore z s = requestCore z w ∧ judgeMode z s = requestEvaluation z w := by
  intro w
  have changes := (modeChanges_iff s z).mpr ⟨e, n⟩
  have stored : s.modZone z (fun zn => { zn with mode := judgedMode s.calendar zn }) = w :=
    (modZone_at s z _).trans (modZone_at s z fun zn => { zn with mode := judgedMode s.calendar (s.zone z) }).symm
  have core : judgeModeCore z s = requestCore z w := by rw [judgeModeCore, if_pos changes, stored]
  exact ⟨core, by rw [judgeMode, if_pos changes, core]; rfl⟩

theorem judgeMode_keeps (z : Nat) (s : State)
    (h : (s.zone z).enable = false ∨ (s.zone z).mode = judgedMode s.calendar (s.zone z)) :
    judgeModeCore z s = s ∧ judgeMode z s = s := by
  have same : modeChanges s z = false := by
    rcases h with h | h <;> simp [modeChanges, h]
  simp [judgeModeCore, judgeMode, same]

/-- An operation on zones that judges the mode of each enabled zone, and beyond it changes what evaluations and grants
change. -/
def JudgesMode (f : Nat → State → State) : Prop :=
  ∀ z s, exceptModes (f z s) = exceptModes s ∧ ∀ y < 24, ((f z s).zone y).mode =
    if y = z ∧ (s.zone y).enable = true then judgedMode s.calendar (s.zone y) else (s.zone y).mode

theorem judgesMode_judgeMode : JudgesMode judgeMode := by
  intro z s
  by_cases h : (s.zone z).enable = true ∧ (s.zone z).mode ≠ judgedMode s.calendar (s.zone z)
  · obtain ⟨e, n⟩ := h
    rw [(judgeMode_changes z s e n).2]
    have lit := lit_requestEvaluation z (s.modZone z fun zn => { zn with mode := judgedMode s.calendar (s.zone z) })
    refine ⟨lit.exceptModes.trans (exceptModes_modZone s z _ fun x => rfl), fun y l => ?_⟩
    refine (congrArg Zone.mode (lit.zone y) :).trans ?_
    by_cases c : y = z
    · subst c
      rw [if_pos ⟨rfl, e⟩, zone_modZone_self s y _ l]
      rfl
    · rw [if_neg (fun h => c h.1), zone_modZone_other s z y _ (Ne.symm c)]
      rfl
  · have same : (s.zone z).enable = false ∨ (s.zone z).mode = judgedMode s.calendar (s.zone z) := by
      rwa [← Bool.not_eq_true, ← not_not (a := (s.zone z).mode = _), ← not_and_or]
    rw [(judgeMode_keeps z s same).2]
    refine ⟨rfl, fun y l => ?_⟩
    split
    · rename_i c
      obtain ⟨rfl, e⟩ := c
      exact not_not.mp fun n => h ⟨e, n⟩
    · rfl

theorem JudgesMode.foldl {f : Nat → State → State} (h : JudgesMode f) (l : List Nat) (s : State) :
    let t := l.foldl (fun v z => f z v) s
    exceptModes t = exceptModes s ∧ ∀ y < 24, (t.zone y).mode =
      if y ∈ l ∧ (s.zone y).enable = true then judgedMode s.calendar (s.zone y) else (s.zone y).mode := by
  induction l generalizing s with
  | nil => exact ⟨rfl, fun y _ => by simp⟩
  | cons a l ih =>
      obtain ⟨frame, mode⟩ := h a s
      obtain ⟨frame', mode'⟩ := ih (f a s)
      refine ⟨frame'.trans frame, fun y ly => (mode' y ly).trans ?_⟩
      have zone := zoneOfMode_eq frame y
      have enable : ((f a s).zone y).enable = (s.zone y).enable := (congrArg Zone.enable zone :)
      have calendar : (f a s).calendar = s.calendar := (congrArg State.calendar frame :)
      rw [enable, calendar, judgedMode_congr zone, mode y ly]
      by_cases e : (s.zone y).enable = true
      · simp only [List.mem_cons, e, and_true]
        by_cases ya : y = a
        · simp only [ya, true_or, if_true, ite_self]
        · simp only [ya, false_or, if_false]
      · simp [e]

theorem JudgesMode.mode_foldl {f : Nat → State → State} (h : JudgesMode f) (s : State) (z : Nat) (l : z < 24)
    (e : (s.zone z).enable = true) :
    (((List.range 24).foldl (fun v z => f z v) s).zone z).mode = judgedMode s.calendar (s.zone z) := by
  rw [(h.foldl (List.range 24) s).2 z l, if_pos ⟨List.mem_range.mpr l, e⟩]

/-! ### The year-roll tests (R73, R93) -/

/-- The state but for what changes of objects, reports, evaluations and grants change. -/
def exceptObjects (s : State) : State := { exceptLight s with objects := Vector.replicate 256 factoryObject }

theorem Lit.exceptObjects {s t : State} (h : Lit s t) : exceptObjects t = exceptObjects s :=
  congrArg (fun u : State => { u with objects := Vector.replicate 256 factoryObject }) h.frame

theorem fields_exceptObjects {s t : State} (h : exceptObjects t = exceptObjects s) :
    t.calendar = s.calendar ∧ t.handed = s.handed ∧ t.nodes = s.nodes ∧ t.points = s.points ∧ t.device = s.device ∧
      t.store = s.store :=
  ⟨(congrArg State.calendar h :), (congrArg State.handed h :), (congrArg State.nodes h :), (congrArg State.points h :),
    (congrArg State.device h :), (congrArg State.store h :)⟩

theorem zone_exceptObjects {s t : State} (h : exceptObjects t = exceptObjects s) (z : Nat) :
    zoneSettings (t.zone z) = zoneSettings (s.zone z) := by
  have e := congrArg (fun u : State => u.zones[z]?) h
  simp only [exceptObjects, exceptLight, Vector.getElem?_map] at e
  unfold State.zone
  cases ht : t.zones[z]? <;> cases hs : s.zones[z]? <;> simp_all

theorem exceptObjects_ceilingCore (i : Nat) (s : State) : exceptObjects (ceilingCore i s) = exceptObjects s := by
  have computed : exceptObjects (computeCeiling i s) = exceptObjects s :=
    ((reported_follow _ _ _ _ _ _).trans (reported_follow _ _ _ _ _ _)).lit.exceptObjects
  unfold ceilingCore
  dsimp only
  split
  · split
    · exact computed
    · exact (evaluated_requestCore _ _).lit.exceptObjects.trans computed
  · rfl

theorem exceptObjects_ceilingEvent (i : Nat) (s : State) : exceptObjects (ceilingEvent i s) = exceptObjects s := by
  unfold ceilingEvent
  dsimp only
  split
  · exact exceptObjects_ceilingCore i s
  · exact (lit_grantJoined _).exceptObjects.trans (exceptObjects_ceilingCore i s)

theorem exceptObjects_testObject (d : Date) (i : Nat) (s : State) :
    exceptObjects (testObject d i s) = exceptObjects s := by
  unfold testObject
  split
  · exact (exceptObjects_ceilingEvent i _).trans ((reported_clearIf _ _ _ _).lit.exceptObjects)
  · rfl

theorem object_testObject (d : Date) (i j : Nat) (s : State) (l : j < 256) : (testObject d i s).object j =
    if j = i ∧ (s.object j).enable = true ∧ rollDue d (s.object j) = true then pacedCeiling (rolled d (s.object j))
    else s.object j := by
  unfold testObject
  by_cases h : ((s.object i).enable && rollDue d (s.object i)) = true
  · obtain ⟨e, r⟩ := Bool.and_eq_true_iff.mp h
    rw [if_pos h]
    unfold rollObject
    simp only [object_ceilingEvent, object_clearIf]
    by_cases c : j = i
    · subst c
      rw [object_modObject_self _ _ _ l]
      exact (if_pos (And.intro rfl e)).trans (if_pos (And.intro rfl (And.intro e r))).symm
    · rw [object_modObject_other _ _ _ _ (Ne.symm c)]
      exact (if_neg fun k => c k.1.symm).trans (if_neg fun k => c k.1).symm
  · rw [if_neg h, if_neg fun k => ?_]
    obtain ⟨rfl, e, r⟩ := k
    exact h (Bool.and_eq_true_iff.mpr ⟨e, r⟩)

theorem yearTests_frame (d : Date) (n : Nat) (s : State) :
    let t := (List.range n).foldl (fun v i => testObject d i v) s
    exceptObjects t = exceptObjects s ∧ ∀ j < 256, t.object j =
      if j < n ∧ (s.object j).enable = true ∧ rollDue d (s.object j) = true then pacedCeiling (rolled d (s.object j))
      else s.object j := by
  induction n with
  | zero => exact ⟨rfl, fun j _ => by simp⟩
  | succ n ih =>
      obtain ⟨frame, object⟩ := ih
      simp only [List.range_succ, List.foldl_append, List.foldl_cons, List.foldl_nil]
      refine ⟨(exceptObjects_testObject d n _).trans frame, fun j l => (object_testObject d n j _ l).trans ?_⟩
      rw [object j l]
      by_cases c : j = n
      · subst c
        simp
      · simp only [c, false_and, if_false]
        congr 1
        simp only [eq_iff_iff, and_congr_left_iff]
        omega

end Sys2Proof.Machine
end

section
/-! PROOF. The CLOCK frame, checked and adopted (O28). -/

namespace Sys2Proof.Machine

theorem offerP2g_dropped (f : Frame) (s : State) (h : portOn s .gallery = false ∨ 8 ≤ s.p2g.length) :
    offerP2g f s = count .p2gDrops s := by
  refine if_neg fun k => ?_
  obtain ⟨on, room⟩ := Bool.and_eq_true_iff.mp k
  rcases h with h | h
  · exact absurd (on.symm.trans h) (by simp)
  · exact absurd (of_decide_eq_true room : s.p2g.length < 8) (by omega)

theorem offerP2g_joins (f : Frame) (s : State) (h : portOn s .gallery = true) (l : s.p2g.length < 8) :
    offerP2g f s = grant { s with p2g := s.p2g ++ [f] } :=
  if_pos (Bool.and_eq_true_iff.mpr ⟨h, decide_eq_true l⟩)

/-! ### What waits before a CLOCK (R68, R69) -/

theorem foldl_noop {α : Type} (f : State → α → State) (l : List α) (s : State) (h : ∀ a ∈ l, ∀ v, f v a = v) :
    l.foldl f s = s := by
  induction l with
  | nil => rfl
  | cons a l ih =>
      rw [List.foldl_cons, h a (List.mem_cons_self ..)]
      exact ih fun b hb => h b (List.mem_cons_of_mem _ hb)

theorem takeWaitingClock_noop (c : Instr) (h : isClock c = false) (v : State) : takeWaitingClock v c = v := by
  unfold takeWaitingClock
  split
  · exact absurd h (by simp [isClock])
  · rfl

theorem takeRoll_noop (c : Instr) (h : isRoll c = false) (v : State) : takeRoll v c = v := by
  unfold takeRoll
  split
  · exact absurd h (by simp [isRoll])
  · exact absurd h (by simp [isRoll])
  · rfl

theorem takeClocks_before_noop (f : Frame) (s : State) (h : ∀ c ∈ s.handed, c = .clock f ∨ isClock c = false) :
    takeClocks (handedBefore (.clock f) s) s = s := by
  refine foldl_noop _ _ _ fun c hc => takeWaitingClock_noop c ?_
  have other : (c != Instr.clock f) = true := List.mem_takeWhile_imp (p := fun e => e != Instr.clock f) hc
  rcases h c ((List.takeWhile_sublist _).subset hc) with e | e
  · simp [e] at other
  · exact e

theorem takeRolls_noop (s : State) (h : noRollsHanded s) : takeRolls s = s :=
  foldl_noop _ _ _ fun c hc => takeRoll_noop c (h c hc)

theorem noRollsHanded_taken (c : Instr) (s : State) (h : noRollsHanded s) : noRollsHanded (taken c s) :=
  fun x hx => h x (List.mem_of_mem_erase hx)

/-! ### The judgement of the frame (R69) -/

theorem takeClock_malformed (f : Frame) (s : State) (h : clockOf f.payload = none) :
    takeClock f s = count .clockBad s := by
  simp [takeClock, h]

theorem takeClock_formed (f : Frame) (s : State) (p : ClockPayload) (h : clockOf f.payload = some p) : takeClock f s =
    if clockGood p then (if s.calendar.isSet then adoptSet p s else adoptUnset p s) else count .clockBad s := by
  simp [takeClock, h]

/-! ### An adoption (R70, R71) -/

/-- The date of a CLOCK frame. -/
def clockDate (p : ClockPayload) : Date := ⟨p.year, p.day⟩

/-- R70: the state in which the modes are judged at an adoption while UNSET. -/
def unsetAdopted (p : ClockPayload) (u : State) : State :=
  clear .clockUnset 0 { u with calendar := adopted p u.calendar }

theorem adoptUnset_eq (p : ClockPayload) (u : State) : adoptUnset p u =
    (List.range 256).foldl (fun v i => testObject (clockDate p) i v)
      ((List.range 24).foldl (fun v z => judgeMode z v) (unsetAdopted p u)) := rfl

theorem adoptSet_eq (p : ClockPayload) (u : State) : adoptSet p u =
    (List.range 24).foldl (fun v z => judgeMode z v)
      { u with calendar := adopted p u.calendar, handed := u.handed ++ adoptionRolls u.calendar p } := rfl

theorem rollDue_iff (p : ClockPayload) (o : Obj) : rollDue (clockDate p) o = true ↔
    o.lastRoll + 1 < p.year ∨ o.lastRoll + 1 = p.year ∧ o.startDay ≤ p.day := by
  unfold rollDue dateAtOrAfter clockDate
  exact decide_eq_true_iff

theorem pacedCeiling_frame (o : Obj) :
    ∃ c e p, pacedCeiling o = { o with ceiling := c, exhausted := e, paceShort := p } := by
  unfold pacedCeiling
  split
  · exact ⟨_, _, _, rfl⟩
  · split <;> exact ⟨_, _, _, rfl⟩

/-- R88: the computation reads none of what it changes. -/
theorem pacedCeiling_idem (o : Obj) : pacedCeiling (pacedCeiling o) = pacedCeiling o := by
  obtain ⟨c, e, p, h⟩ := pacedCeiling_frame o
  have blind : pacedCeiling { o with ceiling := c, exhausted := e, paceShort := p } = pacedCeiling o := rfl
  rwa [← h] at blind

/-- R93: the object after its year roll. -/
theorem pacedCeiling_rolled (d : Date) (o : Obj) :
    let r := pacedCeiling (rolled d o)
    r.previousYear = o.dose ∧ r.dose = 0 ∧ r.fraction = 0 ∧ r.remaining = o.planned ∧ r.unknown = false ∧
      r.lastRoll = (if o.startDay ≤ d.day then d.year else d.year - 1) ∧ r.ceiling = (pacedCeiling r).ceiling := by
  intro r
  have idem : r.ceiling = (pacedCeiling r).ceiling := by rw [pacedCeiling_idem]
  obtain ⟨c, e, p, h⟩ := pacedCeiling_frame (rolled d o)
  refine ⟨?_, ?_, ?_, ?_, ?_, ?_, idem⟩ <;> exact (congrArg _ h).trans rfl

theorem adoptUnset_frame (p : ClockPayload) (u t : State) (h : adoptUnset p u = t) :
    t.calendar = adopted p u.calendar ∧ t.handed = u.handed ∧ t.nodes = u.nodes ∧ t.points = u.points ∧
    t.device = u.device ∧ t.store = u.store ∧
    (∀ z < 24, (u.zone z).enable = true → (t.zone z).mode = judgedMode t.calendar (u.zone z)) ∧
    ∀ i < 256, t.object i = if (u.object i).enable = true ∧ rollDue (clockDate p) (u.object i) = true then
      pacedCeiling (rolled (clockDate p) (u.object i)) else u.object i := by
  have r : Reported { u with calendar := adopted p u.calendar } (unsetAdopted p u) := reported_clear ..
  have modes := (judgesMode_judgeMode.foldl (List.range 24) (unsetAdopted p u)).1
  have judged := judgesMode_judgeMode.mode_foldl (unsetAdopted p u)
  rw [adoptUnset_eq] at h
  generalize (List.range 24).foldl (fun v z => judgeMode z v) (unsetAdopted p u) = m at h modes judged
  obtain ⟨tests, object⟩ := yearTests_frame (clockDate p) 256 m
  rw [h] at tests object
  obtain ⟨calendar, handed, nodes, points, device, store, objects⟩ := fields_exceptModes modes
  obtain ⟨calendar', handed', nodes', points', device', store'⟩ := fields_exceptObjects tests
  have adoptedNow : t.calendar = adopted p u.calendar := calendar'.trans (calendar.trans r.calendar)
  refine ⟨adoptedNow, handed'.trans (handed.trans r.handed), nodes'.trans (nodes.trans r.nodes),
    points'.trans (points.trans r.points), device'.trans (device.trans r.device), store'.trans (store.trans r.store),
    fun z l e => ?_, fun i l => ?_⟩
  · have mode := judged z l (by rw [r.zone z]; exact e)
    rw [r.zone z, r.calendar] at mode
    rw [adoptedNow]
    exact (congrArg Zone.mode (zone_exceptObjects tests z) :).trans mode
  · have same : m.object i = u.object i := object_congr (objects.trans r.objects) i
    rw [object i l, same]
    simp only [l, true_and]

theorem adoptSet_frame (p : ClockPayload) (u t : State) (h : adoptSet p u = t) :
    t.calendar = adopted p u.calendar ∧ t.handed = u.handed ++ adoptionRolls u.calendar p ∧ t.nodes = u.nodes ∧
    t.points = u.points ∧ t.device = u.device ∧ t.store = u.store ∧ t.objects = u.objects ∧
    ∀ z < 24, (u.zone z).enable = true → (t.zone z).mode = judgedMode t.calendar (u.zone z) := by
  let v : State := { u with calendar := adopted p u.calendar, handed := u.handed ++ adoptionRolls u.calendar p }
  have modes := (judgesMode_judgeMode.foldl (List.range 24) v).1
  have judged := judgesMode_judgeMode.mode_foldl v
  rw [show (List.range 24).foldl (fun v z => judgeMode z v) v = t from h] at modes judged
  obtain ⟨calendar, handed, nodes, points, device, store, objects⟩ := fields_exceptModes modes
  refine ⟨calendar, handed, nodes, points, device, store, objects, fun z l e => ?_⟩
  rw [calendar]
  exact judged z l e

/-! ### The rolls of an adoption while SET (R71) -/

theorem adoptionRolls_small (c : Calendar) (p : ClockPayload) (h : clockDifference c p < 3) : adoptionRolls c p = [] :=
  if_pos h

theorem adoptionRolls_date (c : Calendar) (p : ClockPayload) (h : 3 ≤ clockDifference c p)
    (d : c.year ≠ p.year ∨ c.day ≠ p.day) : adoptionRolls c p = [.hourRoll, .dayRoll ⟨p.year, p.day⟩] := by
  simp [adoptionRolls, Int.not_lt.mpr h, dateChanged, d]

theorem adoptionRolls_sameDate (c : Calendar) (p : ClockPayload) (h : 3 ≤ clockDifference c p)
    (d : ¬(c.year ≠ p.year ∨ c.day ≠ p.day)) :
    adoptionRolls c p = if c.minute / 60 ≠ p.minute / 60 then [.hourRoll] else [] := by
  simp [adoptionRolls, Int.not_lt.mpr h, dateChanged, d]

/-! ### The mode of the open hours (R86, R101) -/

theorem inOpenHours_iff (opens closes m : Nat) : inOpenHours opens closes m = true ↔
    opens < closes ∧ opens ≤ m ∧ m < closes ∨ closes < opens ∧ (opens ≤ m ∨ m < closes) := by
  unfold inOpenHours
  split
  · rw [decide_eq_true_iff]
    omega
  · split
    · rw [decide_eq_true_iff]
      omega
    · simp only [Bool.false_eq_true, false_iff]
      omega

theorem judgedMode_auto (c : Calendar) (z : Zone) (h : z.modeSource = .auto) :
    judgedMode c z = if c.isSet && inOpenHours z.openFrom z.openTo c.minute then .opened else .closed := by
  simp [judgedMode, h]

theorem openNow_iff (c : Calendar) (z : Zone) : (c.isSet && inOpenHours z.openFrom z.openTo c.minute) = true ↔
    c.isSet = true ∧ (z.openFrom < z.openTo ∧ z.openFrom ≤ c.minute ∧ c.minute < z.openTo ∨
       z.openTo < z.openFrom ∧ (z.openFrom ≤ c.minute ∨ c.minute < z.openTo)) := by
  rw [Bool.and_eq_true, inOpenHours_iff]

theorem yearLength_eq (y : Nat) : yearLength y = if y % 4 = 0 ∧ (y % 100 ≠ 0 ∨ y % 400 = 0) then 366 else 365 := by
  unfold yearLength leapYear
  simp only [decide_eq_true_eq]

/-- Settles O28: the frame by `takeClock_formed`, the two adoptions by `adoptUnset_frame` and `adoptSet_frame`. -/
theorem clockIsCheckedAndAdopted : Obligations.ClockIsCheckedAndAdopted := by
  unfold Obligations.ClockIsCheckedAndAdopted
  refine ⟨fun f s => ⟨rfl, rfl, fun l v => rfl, rfl, rfl, offerP2g_dropped f s, offerP2g_joins f s⟩,
    fun z s => ⟨judgeMode_changes z s, judgeMode_keeps z s⟩, fun f s => ?_, fun c z => ?_⟩
  · intro length minutes u offered run
    have lengths : length = yearLength := funext fun y => (yearLength_eq y).symm
    have running : run = .next (offered (takeClock f u)) := rfl
    refine ⟨fun rolls clocks => ?_, fun malformed => ?_, fun p formed => ?_⟩
    · show takeRolls (taken (.clock f) (takeClocks (handedBefore (.clock f) s) s)) = _
      rw [takeClocks_before_noop f s clocks, takeRolls_noop _ (noRollsHanded_taken _ _ rolls)]
    · rw [running, takeClock_malformed f u malformed]
    · intro good
      have taking := takeClock_formed f u p formed
      have good_iff : clockGood p = true ↔ good := by
        show _ ↔ 2000 ≤ p.year ∧ p.year ≤ 2199 ∧ 1 ≤ p.day ∧ p.day ≤ length p.year ∧ p.minute ≤ 1439
        rw [lengths]
        exact decide_eq_true_iff
      refine ⟨fun bad => ?_, fun g => ?_⟩
      · rw [running, taking, if_neg fun k => bad (good_iff.mp k)]
      · rw [if_pos (good_iff.mpr g)] at taking
        refine ⟨takeClock f u, running, ?_⟩
        cases set : u.calendar.isSet with
        | false =>
            rw [set, if_neg (by simp)] at taking
            generalize takeClock f u = t at taking
            obtain ⟨calendar, handed, nodes, points, device, store, modes, object⟩ := adoptUnset_frame p u t taking.symm
            refine ⟨calendar, fun _ => ⟨handed, ?_, fun i l => ?_⟩, fun no => absurd no (by simp), modes, nodes, points,
              device, store⟩
            · rw [calendar]
              exact taking.trans (adoptUnset_eq p u)
            · have due_iff := rollDue_iff p (u.object i)
              refine ⟨fun due => ?_, fun idle => ?_⟩
              · rw [object i l, if_pos ⟨due.1, due_iff.mpr due.2⟩]
                exact pacedCeiling_rolled (clockDate p) (u.object i)
              · rw [object i l, if_neg fun k => idle ⟨k.1, due_iff.mp k.2⟩]
        | true =>
            rw [set, if_pos rfl] at taking
            generalize takeClock f u = t at taking
            obtain ⟨calendar, handed, nodes, points, device, store, objects, modes⟩ := adoptSet_frame p u t taking.symm
            refine ⟨calendar, fun no => absurd no (by simp), fun _ => ⟨objects, ?_⟩, modes, nodes, points,
              device, store⟩
            intro d judged newDate newHour
            have difference : clockDifference u.calendar p = d := by
              simp only [clockDifference, minuteCount, daysBefore, ← lengths]
              rfl
            have issued : ∀ rolls, adoptionRolls u.calendar p = rolls →
                t = judged rolls ∧ t.handed = u.handed ++ rolls := by
              rintro rolls rfl
              refine ⟨?_, handed⟩
              show t = (List.range 24).foldl (fun v z => judgeMode z v)
                { u with calendar := t.calendar, handed := u.handed ++ adoptionRolls u.calendar p }
              rw [calendar]
              exact taking.trans (adoptSet_eq p u)
            have none' : adoptionRolls u.calendar p = [] → t = judged [] ∧ t.handed = u.handed := fun e =>
              ⟨(issued [] e).1, (issued [] e).2.trans (List.append_nil _)⟩
            rw [← difference]
            refine ⟨fun small => none' (adoptionRolls_small _ p small), fun large date =>
              issued _ (adoptionRolls_date _ p large date),
              fun large date hour => issued _ ?_, fun large date hour => none' ?_⟩
            · exact (adoptionRolls_sameDate _ p large date).trans (if_pos hour)
            · exact (adoptionRolls_sameDate _ p large date).trans (if_neg hour)
  · intro hours openNow
    refine ⟨fun h => by simp [judgedMode, h], fun h o => ?_, fun h o => ?_⟩
    · rw [judgedMode_auto c z h, if_pos ((openNow_iff c z).mpr o)]
    · rw [judgedMode_auto c z h, if_neg fun k => o ((openNow_iff c z).mp k)]

end Sys2Proof.Machine
end

section
/-! PROOF. The end of the start-up load (O6). -/

namespace Sys2Proof.Machine

/-- Two folds agree where an invariant holds that the first keeps and under which their steps agree. -/
theorem foldl_congr_of {α β : Type} (f g : β → α → β) (inv : β → Prop) (keep : ∀ b a, inv b → inv (f b a))
    (same : ∀ b a, inv b → f b a = g b a) (l : List α) (b : β) (h : inv b) : l.foldl f b = l.foldl g b := by
  induction l generalizing b with
  | nil => rfl
  | cons a l ih => rw [List.foldl_cons, List.foldl_cons, ih _ (keep b a h), same b a h]

theorem reported_foldl {α : Type} (f : State → α → State) (h : ∀ s a, Reported s (f s a)) (l : List α) (s : State) :
    Reported s (l.foldl f s) := by
  induction l generalizing s with
  | nil => exact .refl s
  | cons a l ih => exact (h s a).trans (ih _)

/-! ### The evaluations of the zones (R97) -/

theorem line_firstEvaluation (z : Nat) (s : State) : (firstEvaluation z s).line = s.line := by
  unfold firstEvaluation
  split
  · exact line_requestCore ..
  · rfl

theorem judgesMode_firstEvaluation : JudgesMode firstEvaluation := by
  intro z s
  unfold firstEvaluation
  by_cases e : (s.zone z).enable = true
  · rw [if_pos e]
    have lit := (evaluated_requestCore z (s.modZone z fun zn => { zn with mode := judgedMode s.calendar zn })).lit
    refine ⟨lit.exceptModes.trans (exceptModes_modZone s z _ fun x => rfl), fun y l => ?_⟩
    refine (congrArg Zone.mode (lit.zone y) :).trans ?_
    by_cases c : y = z
    · subst c
      rw [if_pos ⟨rfl, e⟩, zone_modZone_self s y _ l]
      rfl
    · rw [if_neg (fun h => c h.1), zone_modZone_other s z y _ (Ne.symm c)]
      rfl
  · rw [if_neg e]
    refine ⟨rfl, fun y l => ?_⟩
    rw [if_neg]
    rintro ⟨rfl, k⟩
    exact e k

/-- R31: the enabled nodes, all due now. -/
def allDue (s : State) : List PollEntry := (indicesWhere 64 fun n => (s.node n).enable).map fun n => ⟨n, runningMs s⟩

/-- The part as the load ends, once the modes of its zones have been judged. -/
def loadEvaluated (s : State) : State := forEach 24 firstEvaluation { taken .loadEnd s with pollList := allDue s }

theorem loadEvaluated_frame (s : State) :
    exceptModes (loadEvaluated s) = exceptModes { taken .loadEnd s with pollList := allDue s } ∧
    (loadEvaluated s).line = s.line ∧
    ∀ z < 24, (s.zone z).enable = true → ((loadEvaluated s).zone z).mode = judgedMode s.calendar (s.zone z) := by
  let b : State := { taken .loadEnd s with pollList := allDue s }
  refine ⟨(judgesMode_firstEvaluation.foldl (List.range 24) b).1, ?_, fun z l e =>
    judgesMode_firstEvaluation.mode_foldl b z l e⟩
  have lines : ∀ (l : List Nat) (u : State), (l.foldl (fun v z => firstEvaluation z v) u).line = u.line := by
    intro l
    induction l with
    | nil => exact fun u => rfl
    | cons a l ih => exact fun u => (ih _).trans (line_firstEvaluation a u)
  exact lines _ b

/-! ### The ports (R18, R20) -/

/-- R31: the enabled nodes stand in the list already, so that making every node due again leaves it as it is. -/
theorem setAllDue_allDue (s t : State) (h : t.pollList = allDue s) (n : t.now = s.now) : setAllDue t = t := by
  have same : (indicesWhere 64 fun n => (allDue s).any fun e => e.node == n) =
      indicesWhere 64 fun n => (s.node n).enable := by
    refine List.filter_congr fun n l => ?_
    rw [Bool.eq_iff_iff, List.any_eq_true]
    simp only [allDue, indicesWhere, List.mem_map, List.mem_filter]
    constructor
    · rintro ⟨e, ⟨m, ⟨-, on⟩, rfl⟩, eq⟩
      rw [beq_iff_eq] at eq
      exact eq ▸ on
    · exact fun on => ⟨_, ⟨n, ⟨l, on⟩, rfl⟩, beq_self_eq_true n⟩
  unfold setAllDue
  rw [h, same, show runningMs t = runningMs s by rw [runningMs, n]; rfl]
  show { t with pollList := allDue s } = t
  rw [← h]

/-- The ports of a part started as the settings of `s` say. -/
def portsStarted (s t : State) : State :=
  { t with
    loading := false, galleryAsm := .hunt, plantAsm := .hunt
    line := if s.device.galleryEnable then .free else t.line }

theorem enablePorts_eq (s t : State) (d : t.device = s.device) (h : t.pollList = allDue s) (n : t.now = s.now) :
    enablePorts t = portsStarted s t := by
  unfold enablePorts portsStarted
  dsimp only
  rw [← d]
  split
  · exact setAllDue_allDue s _ h n
  · rfl

/-- The part with its ports started. -/
def loadStarted (s : State) : State := portsStarted s (loadEvaluated s)

theorem enablePorts_loadEvaluated (s : State) : enablePorts (loadEvaluated s) = loadStarted s := by
  obtain ⟨frame, -⟩ := loadEvaluated_frame s
  obtain ⟨-, -, -, -, device, -⟩ := fields_exceptModes frame
  obtain ⟨list, now, -⟩ := fieldsOfLoad_exceptModes frame
  exact enablePorts_eq s (loadEvaluated s) device list now

/-! ### The reports and the TRIMs (R140, R147) -/

/-- The part once its CONDITION frames and its TRIMs have been offered. -/
def loadTrimmed (s : State) : State :=
  forEach 24 offerTrim ((loadStarted s).conditions.foldl loadReport (loadStarted s))

theorem reported_loadReport (s : State) (c : Condition) : Reported s (loadReport s c) := by
  unfold loadReport
  split
  · exact reported_report ..
  · exact .refl s

theorem reported_loadTrimmed (s : State) : Reported (loadStarted s) (loadTrimmed s) :=
  (reported_foldl _ reported_loadReport _ _).trans (reported_foldl _ (fun s z => reported_offerTrim z s) _ _)

/-- R147: after the load an unmasked ACTIVE entry is reported. -/
theorem loadReport_eq (v : State) (e : Condition) (h : v.loading = false) : loadReport v e =
    if e.state = .latched ∨ masked v e.kind = true then v else offerOrigin (conditionFrame v e true) v := by
  unfold loadReport report
  cases s : e.state with
  | active =>
    cases m : masked v e.kind <;> simp [h]
  | latched => simp

theorem offerTrim_eq (z : Nat) (v : State) : offerTrim z v =
    if (v.zone z).enable = true ∧ (v.zone z).airAddress ≠ 0 then offerOrigin (trimFrame z (v.zone z)) v else v := by
  unfold offerTrim
  simp only [Bool.and_eq_true, bne_iff_ne]

theorem loadTrimmed_frame (s : State) :
    let t := loadTrimmed s
    t.loading = false ∧ t.galleryAsm = .hunt ∧ t.plantAsm = .hunt ∧ t.pollList = allDue s ∧ t.now = s.now ∧
      t.supervision = s.supervision ∧ t.line = (if s.device.galleryEnable then .free else s.line) ∧
      (∀ z < 24, (s.zone z).enable = true → (t.zone z).mode = judgedMode s.calendar (s.zone z)) ∧
      t.nodes = s.nodes ∧ t.points = s.points ∧ t.objects = s.objects ∧ t.device = s.device ∧
      t.calendar = s.calendar ∧ t.store = s.store ∧ t.save = s.save ∧ t.procedure = s.procedure ∧
      t.handed = s.handed.erase .loadEnd := by
  have r := reported_loadTrimmed s
  obtain ⟨frame, line, modes⟩ := loadEvaluated_frame s
  obtain ⟨calendar, handed, nodes, points, device, store, objects⟩ := fields_exceptModes frame
  obtain ⟨list, now, save, procedure, supervision⟩ := fieldsOfLoad_exceptModes frame
  unfold loadStarted at r
  generalize loadEvaluated s = e at *
  generalize loadTrimmed s = t at *
  refine ⟨r.loading, r.galleryAsm, r.plantAsm, r.pollList.trans list, r.now.trans now, r.supervision.trans supervision,
    r.line.trans ?_, fun z l en => ?_, r.nodes.trans nodes, r.points.trans points, r.objects.trans objects,
    r.device.trans device, r.calendar.trans calendar, r.store.trans store, r.save.trans save,
    r.procedure.trans procedure, r.handed.trans handed⟩
  · rw [← line]
    rfl
  · rw [r.zone z]
    exact modes z l en

theorem exec_loadEnd (s : State) (h : s.loading = true) :
    exec .loadEnd s = .next (grant (startSupervision (loadTrimmed s))) := by
  have finish : finishLoad (taken .loadEnd s) = grant (startSupervision (loadTrimmed s)) := by
    show grant (startSupervision (forEach 24 offerTrim
      ((enablePorts (loadEvaluated s)).conditions.foldl loadReport (enablePorts (loadEvaluated s))))) = _
    rw [enablePorts_loadEvaluated]
    rfl
  show (.next (if s.loading then finishLoad (taken .loadEnd s) else taken .loadEnd s) : Result) = _
  rw [if_pos h, finish]

theorem startSupervision_eq (s t : State) (d : t.device = s.device) (n : t.now = s.now) : startSupervision t =
    if s.device.supervisionWindow = 0 then t
    else { t with supervision := { t.supervision with
      timer := some (s.now + s.device.supervisionWindow * unitsPerSecond) } } := by
  rw [startSupervision, windowEnd, d, n]

/-- Settles O6: the load's last steps one by one, each with what it leaves alone. -/
theorem loadEndStartsThePart : Obligations.LoadEndStartsThePart := by
  unfold Obligations.LoadEndStartsThePart
  intro s
  obtain ⟨loading, asm, plantAsm, list, now, supervision, line, modes, nodes, points, objects, device, calendar, store,
    save, procedure, handed⟩ := loadTrimmed_frame s
  have window := startSupervision_eq s (loadTrimmed s) device now
  refine ⟨fun h => ?_, fun h => ?_, fun h => ?_⟩
  · intro polls evaluated started reported trimmed
    have evaluates : loadEvaluated s = evaluated := rfl
    have begun : loadStarted s = started := by
      unfold loadStarted portsStarted
      rw [evaluates]
    have reports : (loadStarted s).conditions.foldl loadReport (loadStarted s) = reported :=
      foldl_congr_of _ _ (fun v => v.loading = false) (fun v e l => (reported_loadReport v e).loading.trans l)
        (fun v e l => loadReport_eq v e l) _ _ rfl
    have trims : loadTrimmed s = trimmed := by
      show forEach 24 offerTrim _ = _
      rw [reports]
      exact congrArg (fun f => (List.range 24).foldl f reported) (funext fun v => funext fun z => offerTrim_eq z v)
    rw [exec_loadEnd s h, window, trims]
  · refine ⟨_, exec_loadEnd s h, ?_⟩
    generalize loadTrimmed s = t at *
    obtain ⟨x, started, timer⟩ : ∃ x, startSupervision t = { t with supervision := x } ∧
        x = if s.device.supervisionWindow = 0 then s.supervision
          else { s.supervision with timer := some (s.now + s.device.supervisionWindow * unitsPerSecond) } := by
      rw [window, ← supervision]
      split
      · exact ⟨t.supervision, rfl, rfl⟩
      · exact ⟨_, rfl, rfl⟩
    rw [started]
    have g := lit_grant { t with supervision := x }
    refine ⟨g.loading.trans loading, hunt_grant _ asm, g.plantAsm.trans plantAsm, g.pollList.trans list,
      g.supervision.trans timer, fun z l e => (congrArg Zone.mode (g.zone z) :).trans (modes z l e), fun on => ?_,
      fun off l => ?_, g.nodes.trans nodes,
      g.points.trans points, g.objects.trans objects, g.device.trans device, g.calendar.trans calendar,
      g.store.trans store, g.save.trans save, g.procedure.trans procedure, g.handed.trans handed⟩
    · refine line_grant _ ?_
      show t.line ≠ .off
      rw [line, on]
      simp
    · have off' : t.line = .off := by rw [line, off]; exact l
      have kept := grant_of_not_free { t with supervision := x } (show t.line ≠ .free by rw [off']; simp)
      exact (congrArg State.line kept).trans off'
  · show (.next (if s.loading then finishLoad (taken .loadEnd s) else taken .loadEnd s) : Result) = _
    rw [if_neg (by simp [h])]

end Sys2Proof.Machine
end

section
/-! PROOF. Frames from the plant port: the elements of a payload, the request, and the dispatch (O11). -/

namespace Sys2Proof.Machine

/-! ### The elements of a payload (R157) -/

theorem elementsOf_format (b : Byte) (bs : List Byte) (h : parseElement (b :: bs) = none) :
    elementsOf (b :: bs) = [none] := by
  rw [elementsOf_cons, h]

theorem tableOfNumber_tableNumber (t : TableId) : tableOfNumber (tableNumber t) = some t := by
  cases t <;> rfl

theorem tableOfNumber_beyond (n : Nat) (h : 8 ≤ n) : tableOfNumber n = none := by
  unfold tableOfNumber
  split
  all_goals first | omega | rfl

theorem takeOctets_short (n : Nat) (bs : List Byte) (h : bs.length < n) : takeOctets n bs = none :=
  if_neg (by omega)

theorem takeOctets_enough (n : Nat) (bs : List Byte) (h : n ≤ bs.length) :
    takeOctets n bs = some (bs.take n, bs.drop n) := if_pos h

/-- R157: the element after its control, table and cursor parts. -/
def parseBody (operation : Nat) (t : TableId) (c : Option Cursor) (mode : StepMode) (body : List Byte) :
    Option (Element × List Byte) :=
  match body with
  | [] => none
  | n :: tail =>
      if countOk n.toNat then
        match operation with
        | 1 => some (.read t c mode n.toNat, tail)
        | 2 => (takeOctets (2 * n.toNat) tail).map fun p => (.write t c mode (halvesOf p.1), p.2)
        | 3 => (parseCall tail).map fun p => (.call t c p.1, p.2)
        | _ => none
      else none

theorem parseElement_noTable (control table : Byte) (rest : List Byte) (h : tableOfNumber table.toNat = none) :
    parseElement (control :: table :: rest) = none := by
  simp [parseElement, h]

theorem parseElement_noCursor (control table : Byte) (rest : List Byte)
    (h : parseCursor (control.toNat / 32 % 2 == 1) rest = none) : parseElement (control :: table :: rest) = none := by
  cases t : tableOfNumber table.toNat <;> simp [parseElement, t, h]

theorem parseElement_body (control table : Byte) (rest body : List Byte) (t : TableId) (c : Option Cursor)
    (ht : tableOfNumber table.toNat = some t) (hc : parseCursor (control.toNat / 32 % 2 == 1) rest = some (c, body)) :
    parseElement (control :: table :: rest) =
      parseBody (control.toNat / 64) t c (stepOfBits (control.toNat / 8 % 4)) body := by
  simp only [parseElement, ht, hc, Option.bind_eq_bind, Option.bind_some, parseBody]
  generalize control.toNat / 64 = operation
  cases body with
  | nil => rfl
  | cons n tail =>
      dsimp only
      split
      · match operation with
        | 0 => rfl
        | 1 => rfl
        | 2 => cases takeOctets (2 * n.toNat) tail <;> rfl
        | 3 => cases parseCall tail <;> rfl
        | _ + 4 => rfl
      · rfl

theorem parseCursor_short (rest : List Byte) (h : rest.length < 3) : parseCursor true rest = none := by
  unfold parseCursor
  rw [if_pos rfl]
  split
  · simp only [List.length_cons] at h
    omega
  · rfl

theorem countOk_iff (n : Nat) : countOk n = true ↔ 1 ≤ n ∧ n ≤ 16 := decide_eq_true_iff

section body

variable (t : TableId) (c : Option Cursor) (mode : StepMode) (n : Byte) (tail : List Byte)

theorem parseBody_badCount (operation : Nat) (h : n = 0 ∨ 16 < n.toNat) :
    parseBody operation t c mode (n :: tail) = none := by
  refine if_neg fun k => ?_
  obtain ⟨low, high⟩ := (countOk_iff _).mp k
  rcases h with rfl | h
  · exact absurd low (by decide)
  · omega

theorem parseBody_noOperation : parseBody 0 t c mode (n :: tail) = none := by
  show (if countOk n.toNat = true then none else none) = none
  split <;> rfl

variable (h : 1 ≤ n.toNat ∧ n.toNat ≤ 16)
include h

theorem parseBody_read : parseBody 1 t c mode (n :: tail) = some (.read t c mode n.toNat, tail) :=
  if_pos ((countOk_iff _).mpr h)

theorem parseBody_write : parseBody 2 t c mode (n :: tail) =
    (takeOctets (2 * n.toNat) tail).map fun p => (.write t c mode (halvesOf p.1), p.2) :=
  if_pos ((countOk_iff _).mpr h)

theorem parseBody_call : parseBody 3 t c mode (n :: tail) = (parseCall tail).map fun p => (.call t c p.1, p.2) :=
  if_pos ((countOk_iff _).mpr h)

end body

theorem parseCall_unknown (code : Byte) (args : List Byte) (h : code = 0 ∨ 6 < code.toNat) :
    parseCall (code :: args) = none := by
  have out : code.toNat = 0 ∨ 6 < code.toNat := h.imp (fun e => by rw [e]; rfl) id
  unfold parseCall
  dsimp only
  split
  all_goals first | omega | rfl

theorem parseCall_doseSet (args : List Byte) : parseCall (3 :: args) = (takeOctets 18 args).map fun p =>
    let hs := halvesOf p.1
    (.doseSet (hs.getD 0 0) (Vector.ofFn fun i => hs.getD (i.val + 1) 0) (hs.getD 7 0 ++ hs.getD 8 0), p.2) := by
  show (takeOctets 18 args).bind _ = _
  cases takeOctets 18 args <;> rfl

theorem parseCall_rehunt (args : List Byte) : parseCall (4 :: args) =
    (takeOctets 2 args).map fun p => (.rehunt ((halvesOf p.1).getD 0 0), p.2) := by
  show (takeOctets 2 args).bind _ = _
  cases takeOctets 2 args <;> rfl

theorem parseCall_capClear (args : List Byte) : parseCall (5 :: args) =
    (takeOctets 2 args).map fun p => (.capClear ((halvesOf p.1).getD 0 0), p.2) := by
  show (takeOctets 2 args).bind _ = _
  cases takeOctets 2 args <;> rfl

/-! ### The elements of a request, taken (R156 to R158, R160, R165) -/

theorem takeRead_tooLong (t : TableId) (c : Option Cursor) (m : StepMode) (n later : Nat) (w : Work)
    (h : 48 < 1 + w.results.length + (1 + 2 * n) + later) : takeElement (some (.read t c m n)) later w =
      { w with state := loadCursor t c w.state, results := w.results ++ [statusCode .tooLong] } :=
  if_pos (by unfold roomLeft replyCapacity; omega)

theorem takeRead_fits (t : TableId) (c : Option Cursor) (m : StepMode) (n later : Nat) (w : Work)
    (h : 1 + w.results.length + (1 + 2 * n) + later ≤ 48) : takeElement (some (.read t c m n)) later w =
      let r := readValues t m n (loadCursor t c w.state)
      { w with
        state := r.1
        results := w.results ++ statusCode (if r.2.2 then .range else .ok) :: octetsOfAll r.2.1 } :=
  if_neg (by unfold roomLeft replyCapacity; omega)

theorem takeCall_refused (t : TableId) (c : Option Cursor) (p : Call) (later : Nat) (w : Work) (st : Status)
    (h : judgeCall (loadCursor t c w.state) p = some st) : takeElement (some (.call t c p)) later w =
      { w with state := loadCursor t c w.state, results := w.results ++ [statusCode st] } := by
  simp [takeElement, takeCall, h]

theorem acceptedStatus_eq (p : Call) : acceptedStatus p = if p = .save ∨ p = .restart then .started else .ok := by
  cases p <;> simp [acceptedStatus]

theorem takeCall_accepted (t : TableId) (c : Option Cursor) (p : Call) (later : Nat) (w : Work)
    (h : judgeCall (loadCursor t c w.state) p = none) : takeElement (some (.call t c p)) later w =
      let u := loadCursor t c w.state
      { state := runCall p u
        results := w.results ++ [statusCode (if p = .save ∨ p = .restart then .started else .ok)]
        saveAsked := w.saveAsked || p == .save
        restartAsked := w.restartAsked || p == .restart
        grantAsked := w.grantAsked || asksGrant u (runCall p u) } := by
  rw [← acceptedStatus_eq]
  simp only [takeElement, takeCall, h]

/-! ### The dispatch (R13) -/

theorem exec_plantFrame (f : Frame) (own : Byte) (s : State) (h : frameGood .plant own f = true) :
    exec (.plantFrame f own) s = .next (plantFrame f own (taken (.plantFrame f own) s)) :=
  congrArg Host.Outcome.next (if_pos h)

theorem plantFrame_request (f : Frame) (own : Byte) (s : State) (d : f.dest = own) (k : f.kind = kindService) :
    plantFrame f own s = serviceRequest ⟨f.src, f.seq⟩ (elementsOf f.payload) s :=
  (if_pos d).trans (if_pos k)

theorem plantFrame_unknown (f : Frame) (own : Byte) (s : State) (d : f.dest = own) (k : f.kind ≠ kindService)
    (p : f.kind ≠ kindPresence) (c : f.kind ≠ kindClock) : plantFrame f own s = count .serviceFormatErrors s := by
  simp [plantFrame, ownFrame, d, k, p, c]

theorem plantFrame_presence (f : Frame) (own : Byte) (s : State) (d : f.dest = own ∨ f.dest = broadcast)
    (k : f.kind = kindPresence) : plantFrame f own s = supervisionRestart s := by
  have notService : kindPresence ≠ kindService := by decide
  unfold plantFrame
  split
  · simp [ownFrame, k, notService]
  · rename_i n
    rw [if_pos (d.resolve_left n)]
    simp [broadcastFrame, k]

theorem plantFrame_clock (f : Frame) (own : Byte) (s : State) (d : f.dest = own ∨ f.dest = broadcast)
    (k : f.kind = kindClock) : plantFrame f own s = clockArrives f s := by
  have notService : kindClock ≠ kindService := by decide
  have notPresence : kindClock ≠ kindPresence := by decide
  unfold plantFrame
  split
  · simp [ownFrame, k, notService, notPresence]
  · rename_i n
    rw [if_pos (d.resolve_left n)]
    simp [broadcastFrame, k, notPresence]

theorem plantFrame_forwarded (f : Frame) (own : Byte) (s : State) (d : f.dest ≠ own)
    (b : f.dest = broadcast → f.kind ≠ kindPresence ∧ f.kind ≠ kindClock) : plantFrame f own s = offerP2g f s := by
  unfold plantFrame
  rw [if_neg d]
  split
  · rename_i e
    obtain ⟨p, c⟩ := b e
    simp [broadcastFrame, p, c]
  · rfl

/-- R157: what stands at the head of the body of an element stands, after the control and table parts, at the head of
the elements of the payload. -/
theorem elementsOf_body (control table : Byte) (rest body : List Byte) (t : TableId) (c : Option Cursor)
    (ht : tableNumber t = table.toNat)
    (hc : ¬control.toNat / 32 % 2 = 1 ∧ c = none ∧ rest = body ∨
      control.toNat / 32 % 2 = 1 ∧ ∃ e1 e0 f, c = some ⟨halfOf e1 e0, f⟩ ∧ rest = e1 :: e0 :: f :: body) :
    elementsOf (control :: table :: rest) =
      match parseBody (control.toNat / 64) t c (stepOfBits (control.toNat / 8 % 4)) body with
      | none => [none]
      | some (e, after) => some e :: elementsOf after := by
  have table' : tableOfNumber table.toNat = some t := ht ▸ tableOfNumber_tableNumber t
  have cursor : parseCursor (control.toNat / 32 % 2 == 1) rest = some (c, body) := by
    rcases hc with ⟨no, rfl, rfl⟩ | ⟨yes, e1, e0, f, rfl, rfl⟩
    · rw [beq_false_of_ne no]
      rfl
    · rw [yes]
      rfl
  rw [elementsOf_cons, parseElement_body control table rest body t c table' cursor] <;> rfl

/-- Settles O11: the dispatch by the frame's destination and kind, and the elements by `elementsOf_body`. -/
theorem plantFrameIsDispatched : Obligations.PlantFrameIsDispatched := by
  unfold Obligations.PlantFrameIsDispatched
  refine ⟨fun rq es s => rfl, fun w => ⟨rfl, fun e es => rfl, fun later => rfl,
    fun t c m n later => ⟨takeRead_tooLong t c m n later w, takeRead_fits t c m n later w⟩,
    fun t c m values later => rfl,
    fun t c p later => ⟨takeCall_refused t c p later w, takeCall_accepted t c p later w⟩⟩,
    ⟨rfl, fun b => elementsOf_format b [] rfl, fun control table rest => ?_⟩, fun f own s good => ?_⟩
  · intro operation loads mode all
    refine ⟨fun beyond => elementsOf_format _ _ (parseElement_noTable _ _ _ (tableOfNumber_beyond _ beyond)),
      fun yes short => elementsOf_format _ _ (parseElement_noCursor _ _ _ ?_), fun t c body ht hc => ?_⟩
    · rw [show control.toNat / 32 % 2 = 1 from yes]
      exact parseCursor_short rest short
    have elements : all = match parseBody operation t c mode body with
        | none => [none]
        | some (e, after) => some e :: elementsOf after := elementsOf_body control table rest body t c ht hc
    have one : ∀ {e after}, parseBody operation t c mode body = some (e, after) → all = some e :: elementsOf after :=
      fun h => by rw [elements, h]
    have format : parseBody operation t c mode body = none → all = [none] := fun h => by rw [elements, h]
    refine ⟨fun e => format (by rw [e]; rfl), fun n tail e => ?_⟩
    subst e
    have of_operation : ∀ {k}, operation = k →
        parseBody operation t c mode (n :: tail) = parseBody k t c mode (n :: tail) :=
      fun op => congrArg (parseBody · t c mode (n :: tail)) op
    refine ⟨?_, fun low high =>
      ⟨fun op => one ((of_operation op).trans (parseBody_read t c mode n tail ⟨low, high⟩)),
        fun op => ?_, fun op => ?_⟩⟩
    · rintro (e | e | e)
      · exact format (parseBody_badCount t c mode n tail operation (.inl e))
      · exact format (parseBody_badCount t c mode n tail operation (.inr e))
      · exact format ((of_operation e).trans (parseBody_noOperation t c mode n tail))
    · have write := (of_operation op).trans (parseBody_write t c mode n tail ⟨low, high⟩)
      refine ⟨fun short => format ?_, fun enough => one ?_⟩
      · rw [write, takeOctets_short _ _ short]
        rfl
      · rw [write, takeOctets_enough _ _ enough]
        rfl
    · have call := (of_operation op).trans (parseBody_call t c mode n tail ⟨low, high⟩)
      have accepted : ∀ {p after}, parseCall tail = some (p, after) → all = some (.call t c p) :: elementsOf after :=
        fun h => one (by rw [call, h]; rfl)
      have refused : parseCall tail = none → all = [none] := fun h => format (by rw [call, h]; rfl)
      refine ⟨fun e => refused (by rw [e]; rfl), fun code args e => ?_⟩
      subst e
      refine ⟨?_, ?_, ?_, ?_, ?_, fun a b after e => ⟨?_, ?_⟩, ?_, fun h => refused (parseCall_unknown code args h)⟩
      · rintro rfl
        exact accepted rfl
      · rintro rfl
        exact accepted rfl
      · rintro rfl short
        exact refused (by rw [parseCall_doseSet, takeOctets_short _ _ short]; rfl)
      · rintro rfl enough
        exact accepted (by rw [parseCall_doseSet, takeOctets_enough _ _ enough]; rfl)
      · rintro (rfl | rfl) short
        · exact refused (by rw [parseCall_rehunt, takeOctets_short _ _ short]; rfl)
        · exact refused (by rw [parseCall_capClear, takeOctets_short _ _ short]; rfl)
      · rintro rfl
        exact accepted (by rw [parseCall_rehunt, e]; rfl)
      · rintro rfl
        exact accepted (by rw [parseCall_capClear, e]; rfl)
      · rintro rfl
        exact accepted rfl
  · intro u
    have run := exec_plantFrame f own s good
    refine ⟨fun d k => by rw [run, plantFrame_request f own _ d k],
      fun d k p c => by rw [run, plantFrame_unknown f own _ d k p c],
      fun d k => by rw [run, plantFrame_presence f own _ d k],
      fun d k => by rw [run, plantFrame_clock f own _ d k]; rfl, fun d b => ?_⟩
    rw [run, plantFrame_forwarded f own _ d b]
    refine ⟨fun full => ?_, fun on room busy => ?_, fun on room _ => ?_⟩
    · rw [offerP2g_dropped f (taken (.plantFrame f own) s) full]
    · rw [offerP2g_joins f (taken (.plantFrame f own) s) on room]
      exact congrArg Host.Outcome.next (grant_of_not_free _ busy)
    · rw [offerP2g_joins f (taken (.plantFrame f own) s) on room]
      rfl

end Sys2Proof.Machine
end

section
/-! PROOF. What a reply does to its node, to the poll due list and to the groups: one rule per operation (O20). -/

namespace Sys2Proof.Machine

/-! ### The node a reply is from (R9, R43) -/

theorem nodeOfSrc_iff (s : State) (src : Byte) (n : Nat) : nodeOfSrc s src = some n ↔
    (n < 64 ∧ (s.node n).enable = true ∧ (s.node n).address = src.toNat) ∧
      ∀ m < n, ¬(m < 64 ∧ (s.node m).enable = true ∧ (s.node m).address = src.toNat) := by
  unfold nodeOfSrc
  rw [List.find?_range_eq_some]
  simp only [Bool.and_eq_true, beq_iff_eq, List.mem_range, Bool.not_eq_true', Bool.and_eq_false_iff,
    beq_eq_false_iff_ne]
  constructor
  · rintro ⟨b, l, first⟩
    refine ⟨⟨l, b⟩, fun m lm k => ?_⟩
    rcases first m lm with e | a
    · exact absurd (e.symm.trans k.2.1) (by simp)
    · exact a k.2.2
  · rintro ⟨⟨l, b⟩, first⟩
    refine ⟨b, l, fun m lm => ?_⟩
    by_contra k
    push Not at k
    exact first m lm ⟨by omega, by simpa using k.1, k.2⟩

theorem isDuplicate_iff (nd : Node) (f : Frame) :
    isDuplicate nd f = true ↔ nd.state = .online ∧ f.seq = nd.lastSeq := by
  have gap : gapOf nd f = 0 ↔ f.seq = nd.lastSeq := by
    unfold gapOf
    bv_omega
  simp [isDuplicate, gap]

theorem judgeReply_none (f : Frame) (s : State) (h : nodeOfSrc s f.src = none) :
    judgeReply f s = (s, ⟨none, false, false, false⟩) := by simp [judgeReply, h]

theorem judgeReply_some (f : Frame) (s : State) (n : Nat) (h : nodeOfSrc s f.src = some n) :
    judgeReply f s = (takeFrame n f s,
      { node := some n
        duplicate := isDuplicate (s.node n) f
        displaced := (s.node n).state == .displaced || ((takeFrame n f s).node n).state == .displaced
        readingsUsed := (s.node n).state == .online && ((takeFrame n f s).node n).state == .online &&
          !isDuplicate (s.node n) f }) := by
  simp [judgeReply, h]

theorem judgeReply_state (f : Frame) (s : State) : (judgeReply f s).1 = match nodeOfSrc s f.src with
    | some n => takeFrame n f s
    | none => s := by
  cases h : nodeOfSrc s f.src with
  | none => rw [judgeReply_none f s h]
  | some n => rw [judgeReply_some f s n h]

theorem judgeReply_node (f : Frame) (s : State) : (judgeReply f s).2.node = nodeOfSrc s f.src := by
  cases h : nodeOfSrc s f.src with
  | none => rw [judgeReply_none f s h]
  | some n => rw [judgeReply_some f s n h]

theorem readingsUsed_iff (f : Frame) (s : State) : (judgeReply f s).2.readingsUsed = true ↔
    ∃ n, nodeOfSrc s f.src = some n ∧ (s.node n).state = .online ∧ f.seq ≠ (s.node n).lastSeq ∧
      ((takeFrame n f s).node n).state = .online := by
  cases h : nodeOfSrc s f.src with
  | none => simp [judgeReply_none f s h]
  | some n =>
      rw [judgeReply_some f s n h]
      simp only [Bool.and_eq_true, beq_iff_eq, Bool.not_eq_true', ← Bool.not_eq_true, isDuplicate_iff,
        Option.some.injEq,
        exists_eq_left']
      constructor
      · rintro ⟨⟨before, after⟩, fresh⟩
        exact ⟨before, fun e => fresh ⟨before, e⟩, after⟩
      · rintro ⟨before, fresh, after⟩
        exact ⟨⟨before, after⟩, fun d => fresh d.2⟩

/-! ### The end of a transaction (R32, R34) -/

theorem reschedule_pollList (n : Nat) (u : State) : { reschedule n u with pollList := u.pollList } = u := by
  unfold reschedule
  split <;> rfl

/-- R32: a rescheduled node stands in the poll due list at the later of its beat and the running time. -/
theorem polledAgain_reschedule (n : Nat) (s u : State) (list : u.pollList = s.pollList) (now : u.now = s.now)
    (period : (u.node n).pollPeriod = (s.node n).pollPeriod) : polledAgain n s (reschedule n u) := by
  have running : runningMs u = runningMs s := by rw [runningMs, now]; rfl
  unfold reschedule
  rw [list, running, period]
  refine ⟨fun gone => ?_, fun e found => ?_⟩
  · have none' : s.pollList.find? (fun e => e.node == n) = none := by
      rw [List.find?_eq_none]
      exact fun x hx => by simpa using gone x hx
    rw [none']
    exact list
  · rw [found]
    exact placedInPollList_insert n _ s.pollList

theorem pollPeriod_nodeSuccess (n : Nat) (s : State) :
    ((nodeSuccess n s).node n).pollPeriod = (s.node n).pollPeriod := by
  unfold nodeSuccess
  split
  · rename_i e
    rw [node_modNode_self s n _ (enabled_node s n e)]
  · rfl

theorem frame_nodeSuccess (n : Nat) (s : State) : ∃ nds, nodeSuccess n s = { s with nodes := nds } := by
  unfold nodeSuccess
  split <;> exact ⟨_, rfl⟩

theorem polledAgain_nodeSuccess (n : Nat) (s : State) : polledAgain n s (reschedule n (nodeSuccess n s)) ∧
    { reschedule n (nodeSuccess n s) with pollList := s.pollList } = nodeSuccess n s := by
  obtain ⟨nds, e⟩ := frame_nodeSuccess n s
  have list : (nodeSuccess n s).pollList = s.pollList := by rw [e]
  refine ⟨polledAgain_reschedule n s _ list (by rw [e]) (pollPeriod_nodeSuccess n s), ?_⟩
  rw [← list]
  exact reschedule_pollList n _

/-! ### The use of a reply that is no COMMAND's (R9) -/

theorem useReply_noEcho (tr : Transaction) (f : Frame) (j : Judgement) (s : State) (c : ∀ g n, tr.kind ≠ .command g n)
    (k : f.kind ≠ kindEcho) : useReply tr f j s = useSample f j s := by
  unfold useReply
  split
  · exact if_neg k
  · rename_i g n h
    exact absurd h (c g n)
  · exact if_neg k

theorem useReply_forward (tr : Transaction) (f : Frame) (j : Judgement) (s : State) (h : tr.kind = .forward)
    (k : f.kind = kindEcho) : useReply tr f j s =
      if tr.frame.kind = kindLevel ∧ echoUsable j = true then forwardedEcho j.node f.src (echoEntries f) s else s := by
  simp only [useReply, h, useForwardReply, k, if_true]

theorem useReply_poll (tr : Transaction) (f : Frame) (j : Judgement) (s : State) (n m : Nat) (h : tr.kind = .poll n)
    (k : f.kind = kindEcho) (node : j.node = some m) : useReply tr f j s =
      if echoUsable j then pollEcho m (echoEntries f) s else s := by
  simp only [useReply, h, usePollReply, k, if_true, node]

theorem useReply_unknown (tr : Transaction) (f : Frame) (j : Judgement) (s : State) (c : ∀ g n, tr.kind ≠ .command g n)
    (k : f.kind = kindEcho) (l : tr.kind = .forward → tr.frame.kind ≠ kindLevel) (node : j.node = none) :
    useReply tr f j s = s := by
  cases h : tr.kind with
  | poll n => simp only [useReply, h, usePollReply, k, if_true, node]
  | command g n => exact absurd h (c g n)
  | forward => rw [useReply_forward tr f j s h k, if_neg fun b => l h b.1]

theorem useReply_command (tr : Transaction) (f : Frame) (j : Judgement) (s : State) (g n : Nat)
    (h : tr.kind = .command g n) : useReply tr f j s =
      if echoUsable j then ownEcho g j.node (echoEntries f) s else commandExpiry g s := by
  simp only [useReply, h, useCommandReply]

theorem echoUsable_iff (j : Judgement) : echoUsable j = true ↔ j.duplicate = false ∧ j.displaced = false := by
  simp [echoUsable]

/-! ### A group that is heard (R111, R113, R116) -/

/-- R111: the group takes the record `x`, in which its misses are 0, and ACTUATOR_SILENT is cleared where the misses
alone kept it. -/
def heard (g : Nat) (x : Group) (s : State) : State :=
  let t := s.modGroup g fun _ => x
  if (s.group g).unavailable = false ∧ 3 ≤ (s.group g).misses then clear .actuatorSilent g t else t

theorem reported_heard (g : Nat) (x : Group) (s : State) : Reported (s.modGroup g fun _ => x) (heard g x s) := by
  unfold heard
  dsimp only
  split
  · exact reported_clear ..
  · exact .refl _

theorem group_heard (g h : Nat) (x : Group) (s : State) (l : g < 48) :
    (heard g x s).group h = if h = g then x else s.group h := by
  rw [(reported_heard g x s).group, group_modGroup]
  by_cases e : h = g
  · subst e; simp [l]
  · simp [e, Ne.symm e]

/-- A change after which the group has no misses, and is as available as before. -/
theorem changeJudged_heard (g : Nat) (f : Group → Group) (s : State) (l : g < 48)
    (zone : (f (s.group g)).zone = (s.group g).zone) (misses : (f (s.group g)).misses = 0)
    (available : (f (s.group g)).unavailable = (s.group g).unavailable) :
    changeJudged g f s = heard g (f (s.group g)) s := by
  have after : groupSilent (f (s.group g)) = (s.group g).unavailable := by simp [groupSilent, misses, available]
  rw [changeJudged_eq g f s l zone, follow_eq, after, if_neg]
  · unfold heard
    dsimp only
    refine if_congr ?_ rfl rfl
    rw [groupSilent_true]
    constructor
    · rintro ⟨silent, no⟩
      exact ⟨no, silent.resolve_left (by simp [no])⟩
    · rintro ⟨no, many⟩
      exact ⟨.inr many, no⟩
  · rintro ⟨yes, no⟩
    exact absurd ((groupSilent_false _).mp no).1 (by simp [yes])

/-- R116: a level and the level heard are more than 20 apart. -/
abbrev farApart (a b : Nat) : Prop := 20 < a - b ∨ 20 < b - a

theorem farApart_iff (a b : Nat) : 20 < levelDistance a b ↔ farApart a b := by
  unfold levelDistance farApart
  omega

theorem testedPhase_iff (p : CommandPhase) : testedPhase p = true ↔ p = .idle ∨ ∃ e, p = .settling e := by
  cases p <;> simp [testedPhase]

section mismatchTest

variable (g : Nat) (s : State) (level : Nat) (applied : (s.group g).applied = some level)
include applied

theorem mismatchTest_raises (t : (s.group g).phase = .idle ∨ ∃ e, (s.group g).phase = .settling e)
    (far : farApart level (s.group g).level) (m : (s.group g).mismatch = false) : mismatchTest g s =
      requestCore (s.group g).zone (raise .levelMismatch g (s.group g).zone
        (s.modGroup g fun gr => { gr with mismatch := true, resend := true })) := by
  rw [← farApart_iff] at far
  simp [mismatchTest, applied, (testedPhase_iff _).mpr t, far, m]

theorem mismatchTest_clears (t : (s.group g).phase = .idle ∨ ∃ e, (s.group g).phase = .settling e)
    (near : ¬farApart level (s.group g).level) (m : (s.group g).mismatch = true) : mismatchTest g s =
      clear .levelMismatch g (s.modGroup g fun gr => { gr with mismatch := false }) := by
  rw [← farApart_iff] at near
  simp [mismatchTest, applied, (testedPhase_iff _).mpr t, near, m]

theorem mismatchTest_keeps (h : ¬((s.group g).phase = .idle ∨ ∃ e, (s.group g).phase = .settling e) ∨
    (farApart level (s.group g).level ↔ (s.group g).mismatch = true)) : mismatchTest g s = s := by
  rw [← testedPhase_iff, ← farApart_iff] at h
  unfold mismatchTest
  simp only [applied, Option.getD_some]
  rcases h with n | same
  · simp [n]
  · cases m : (s.group g).mismatch <;> simp_all

theorem mismatchRelief_eq : mismatchRelief g s =
    if (s.group g).mismatch = true ∧ ¬farApart level (s.group g).level then
      clear .levelMismatch g (s.modGroup g fun gr => { gr with mismatch := false })
    else s := by
  simp only [mismatchRelief, applied, Option.getD_some, Bool.and_eq_true, decide_eq_true_eq, ← farApart_iff, not_lt]

end mismatchTest

/-! ### The groups that an entry of an ECHO names (R116, R117) -/

theorem groupOnChannel_iff (s : State) (n ch g : Nat) : groupOnChannel s n ch = some g ↔
    g < 48 ∧ ((s.group g).enable = true ∧ (s.group g).node = n ∧ (s.group g).channel = ch) ∧
      ∀ h < g, ¬((s.group h).enable = true ∧ (s.group h).node = n ∧ (s.group h).channel = ch) := by
  unfold groupOnChannel
  rw [List.find?_range_eq_some]
  simp only [Bool.and_eq_true, beq_iff_eq, List.mem_range, Bool.not_eq_true', ← Bool.not_eq_true, and_assoc]
  tauto

theorem mem_groupsReached_iff (s : State) (src : Byte) (ch g : Nat) : g ∈ groupsReached s src ch ↔
    g < 48 ∧ (s.group g).enable = true ∧ (s.group g).channel = ch ∧
      (s.node (s.group g).node).address = src.toNat := by
  simp only [groupsReached, indicesWhere, List.mem_filter, List.mem_range, Bool.and_eq_true, beq_iff_eq, and_assoc]

theorem pollEchoEntry_none (n : Nat) (x : Option Nat) (s : State) (e : EchoEntry)
    (h : groupOnChannel s n e.channel = none) : pollEchoEntry n x s e = s := by
  simp [pollEchoEntry, h]

theorem pollEchoEntry_some (n g : Nat) (s : State) (e : EchoEntry) (h : groupOnChannel s n e.channel = some g) :
    pollEchoEntry n none s e = mismatchTest g (takeApplied g e.level s) := by
  simp [pollEchoEntry, h]

theorem pollEchoEntry_except (n g : Nat) (s : State) (e : EchoEntry) : pollEchoEntry n (some g) s e =
    if groupOnChannel s n e.channel = some g then s else pollEchoEntry n none s e := by
  unfold pollEchoEntry
  cases h : groupOnChannel s n e.channel with
  | none => simp
  | some m =>
      by_cases c : m = g
      · simp [c]
      · simp [c, Ne.symm c]

/-- R116: the group with the level heard, and no misses. -/
def applied (level : Nat) (gr : Group) : Group := { gr with applied := some level, misses := 0 }

theorem takeApplied_eq (g level : Nat) (s : State) (l : g < 48) :
    takeApplied g level s = heard g (applied level (s.group g)) s :=
  changeJudged_heard g _ s l rfl rfl rfl

/-! ### The own ECHO of a COMMAND (R113) -/

theorem stillSent_iff (s : State) (g : Nat) :
    stillSent s g = true ↔ (s.group g).enable = true ∧ (s.group g).phase = .sent := by
  simp [stillSent]

theorem ownEchoGroup_kept (g : Nat) (entries : List EchoEntry) (s : State)
    (h : (s.group g).enable = false ∨ (s.group g).phase ≠ .sent) : ownEchoGroup g entries s = s := by
  refine if_neg fun k => ?_
  obtain ⟨e, p⟩ := (stillSent_iff s g).mp k
  rcases h with h | h
  · exact absurd (h.symm.trans e) (by simp)
  · exact h p

theorem ownEntry_none (ch : Nat) (entries : List EchoEntry) (h : ∀ x ∈ entries, x.channel ≠ ch) :
    ownEntry ch entries = none := by
  unfold ownEntry
  rw [List.find?_eq_none]
  exact fun x hx => by simpa using h x (List.mem_reverse.mp hx)

theorem ownEntry_last (ch : Nat) (before after : List EchoEntry) (x : EchoEntry) (c : x.channel = ch)
    (h : ∀ y ∈ after, y.channel ≠ ch) : ownEntry ch (before ++ x :: after) = some x := by
  unfold ownEntry
  have none' : after.reverse.find? (fun e => e.channel == ch) = none := ownEntry_none ch after h
  simp [List.find?_append, none', c]

theorem ownEchoGroup_expires (g : Nat) (entries : List EchoEntry) (s : State) (e : (s.group g).enable = true)
    (p : (s.group g).phase = .sent) (h : ∀ x ∈ entries, x.channel ≠ (s.group g).channel) :
    ownEchoGroup g entries s = commandExpiry g s := by
  unfold ownEchoGroup
  rw [if_pos ((stillSent_iff s g).mpr ⟨e, p⟩), ownEntry_none _ _ h]

/-- R113: the group as its own ECHO leaves it, before the MISMATCH test. -/
def settled (now level : Nat) (gr : Group) : Group :=
  { gr with
    applied := some level, misses := 0, resend := false,
    phase := .settling (now + gr.settle * unitsPerSecond) }

theorem ownEchoGroup_heard (g : Nat) (before after : List EchoEntry) (x : EchoEntry) (s : State) (l : g < 48)
    (e : (s.group g).enable = true) (p : (s.group g).phase = .sent) (c : x.channel = (s.group g).channel)
    (h : ∀ y ∈ after, y.channel ≠ (s.group g).channel) :
    ownEchoGroup g (before ++ x :: after) s = mismatchTest g (heard g (settled s.now x.level (s.group g)) s) := by
  unfold ownEchoGroup
  rw [if_pos ((stillSent_iff s g).mpr ⟨e, p⟩), ownEntry_last _ before after x c h]
  exact congrArg (mismatchTest g) (changeJudged_heard g _ s l rfl rfl rfl)

/-! ### The arrival of a frame (R34, R35) -/

theorem noteAnswer_window (f : Frame) (s : State) (tr : Transaction) (e : Nat) (h : s.line = .busy tr)
    (p : tr.phase = .window e) (a : tr.awaited = some f.src) :
    noteAnswer f s = { s with line := .busy { tr with answers := tr.answers ++ [f] } } := by
  simp [noteAnswer, h, p, a]

theorem noteAnswer_kept (f : Frame) (s : State)
    (h : ∀ tr e, s.line = .busy tr → tr.phase = .window e → tr.awaited ≠ some f.src) : noteAnswer f s = s := by
  unfold noteAnswer
  split
  · rename_i tr hl
    split
    · rename_i e hp
      exact if_neg (h tr e hl hp)
    · rfl
  · rfl

theorem frameInWindow_answer (tr : Transaction) (f : Frame) (w : Bool) (s : State) (h : answersWindow tr f w = true) :
    frameInWindow tr f w s =
      if (tr.accepts.all fun k => k == f.kind) = true then takeReply tr f s
      else missTransaction tr (beginTurnaround s) := by
  simp [frameInWindow, h]

theorem galleryFrame_unnoted (f : Frame) (s : State)
    (h : ∀ tr e, s.line = .busy tr → tr.phase = .window e → f ∉ tr.answers) :
    galleryFrame f true s = count .galleryStrays s := by
  cases hl : s.line with
  | off => rw [galleryFrame_off f true s hl]; rfl
  | free => exact galleryFrame_free f true s hl
  | turnaround e => exact galleryFrame_turnaround f true s e hl
  | busy tr =>
      cases hp : tr.phase with
      | sending e => rw [galleryFrame_sending f true s tr e hl hp]; rfl
      | window e =>
          rw [galleryFrame_window f true s tr e hl hp]
          exact frameInWindow_stray tr f true s (by simp [answersWindow, h tr e hl hp])

theorem galleryFrame_deaf (f : Frame) (s : State)
    (h : s.line = .off ∨ ∃ tr e, s.line = .busy tr ∧ tr.phase = .sending e) : galleryFrame f false s = s := by
  rcases h with off | ⟨tr, e, hl, hp⟩
  · rw [galleryFrame_off f false s off]; rfl
  · rw [galleryFrame_sending f false s tr e hl hp]; rfl

end Sys2Proof.Machine
end

section
/-! PROOF. What an evaluation does to the record of a group: it changes groups of its zone alone, and of no group what
has been heard of it (R102 to R111). -/

namespace Sys2Proof.Machine

/-- What the echoes of a group have left in its record (R113, R114, R116). -/
def heardOf (gr : Group) : Option Nat × Nat × Bool := (gr.applied, gr.misses, gr.mismatch)

/-- From `s` to `t` only groups of the list have changed, and of no group what has been heard of it. -/
def Retouched (l : List Nat) (s t : State) : Prop :=
  ∀ h, heardOf (t.group h) = heardOf (s.group h) ∧ (h ∉ l → t.group h = s.group h)

theorem Retouched.refl (l : List Nat) (s : State) : Retouched l s s := fun _ => ⟨rfl, fun _ => rfl⟩

theorem Retouched.trans {l : List Nat} {s t u : State} (a : Retouched l s t) (b : Retouched l t u) : Retouched l s u :=
  fun h => ⟨(b h).1.trans (a h).1, fun n => ((b h).2 n).trans ((a h).2 n)⟩

theorem Reported.retouched {s t : State} (h : Reported s t) (l : List Nat) : Retouched l s t :=
  fun g => ⟨by rw [h.group g], fun _ => h.group g⟩

theorem retouched_modGroup (l : List Nat) (s : State) (g : Nat) (f : Group → Group) (m : g ∈ l)
    (k : ∀ x, heardOf (f x) = heardOf x) : Retouched l s (s.modGroup g f) := by
  intro h
  rw [group_modGroup]
  split
  · rename_i c
    exact ⟨k _, fun n => absurd (c.1 ▸ m) n⟩
  · exact ⟨rfl, fun _ => rfl⟩

theorem retouched_foldl {α : Type} (l : List Nat) (f : State → α → State) (L : List α)
    (step : ∀ s, ∀ a ∈ L, Retouched l s (f s a)) (s : State) : Retouched l s (L.foldl f s) := by
  induction L generalizing s with
  | nil => exact .refl l s
  | cons a L ih =>
      exact (step s a (List.mem_cons_self ..)).trans (ih (fun s b hb => step s b (List.mem_cons_of_mem _ hb)) _)

theorem mem_zoneGroups (s : State) (z g : Nat) :
    g ∈ zoneGroups s z ↔ (s.group g).enable = true ∧ (s.group g).zone = z := by
  simp only [zoneGroups, indicesWhere, List.mem_filter, List.mem_range, Bool.and_eq_true, beq_iff_eq]
  exact ⟨fun h => h.2, fun h => ⟨enabled_group s g h.1, h⟩⟩

theorem zoneGroups_evaluated {s t : State} (h : Evaluated s t) (z : Nat) : zoneGroups t z = zoneGroups s z := by
  unfold zoneGroups indicesWhere
  refine List.filter_congr fun g _ => ?_
  have same := h.group g
  rw [show (t.group g).enable = (s.group g).enable from (congrArg Group.enable same :),
    show (t.group g).zone = (s.group g).zone from (congrArg Group.zone same :)]

theorem retouched_judgeLamp (l : List Nat) (z g : Nat) (s : State) (m : g ∈ l) : Retouched l s (judgeLamp z g s) := by
  unfold judgeLamp
  split
  · refine Retouched.trans ?_ ((reported_follow _ _ _ _ _ _).retouched l)
    exact retouched_modGroup l s g _ m fun _ => rfl
  · exact .refl l s

theorem retouched_storeShadeRatio (z : Nat) (s : State) : Retouched (zoneGroups s z) s (storeShadeRatio z s) := by
  unfold storeShadeRatio
  split
  · rename_i g q named _
    refine retouched_modGroup _ s g _ ?_ fun _ => rfl
    rw [mem_zoneGroups]
    unfold namedShade at named
    have := (Option.filter_eq_some_iff.mp named).2
    simp only [Bool.and_eq_true, beq_iff_eq] at this
    exact this.1
  · exact .refl _ s

theorem retouched_commandGroup (l : List Nat) (g t : Nat) (s : State) (m : g ∈ l) :
    Retouched l s (commandGroup g t s) := by
  unfold commandGroup
  split
  · exact .refl l s
  · split
    · exact retouched_modGroup l s g _ m fun _ => rfl
    · unfold changeJudged
      refine Retouched.trans ?_ ((reported_follow _ _ _ _ _ _).retouched l)
      exact retouched_modGroup l s g _ m fun _ => rfl

theorem retouched_evaluate (z : Nat) (s : State) : Retouched (zoneGroups s z) s (evaluate z s) := by
  have ratios : Retouched (zoneGroups s z) s (judgeRatios z s) :=
    (retouched_storeShadeRatio z s).trans (retouched_foldl _ _ _ (fun s g m => retouched_judgeLamp _ z g s m) _)
  have same := zoneGroups_evaluated (evaluated_judgeRatios z s) z
  refine ratios.trans (retouched_foldl _ _ _ (fun v gt m => ?_) _)
  obtain ⟨g, mg, rfl⟩ := List.mem_map.mp m
  rw [same] at mg
  exact retouched_commandGroup _ _ _ v mg

theorem retouched_requestCore (z : Nat) (s : State) : Retouched (zoneGroups s z) s (requestCore z s) := by
  unfold requestCore
  split
  · exact retouched_evaluate z s
  · exact .refl _ s

/-- R102: a group at work is left alone by every request for an evaluation. -/
theorem group_requestCore_working (z g : Nat) (s : State) (e : (s.group g).enable = true)
    (p : (s.group g).phase ≠ .idle) : (requestCore z s).group g = s.group g := by
  by_cases m : (s.group g).zone = z
  · have working : zoneAtRest s z = false := by
      rw [Bool.eq_false_iff]
      exact fun r => p ((zoneAtRest_iff s z).mp r g (enabled_group s g e) e m)
    rw [requestCore, working]
    rfl
  · exact (retouched_requestCore z s g).2 fun k => m ((mem_zoneGroups s z g).mp k).2

theorem heardOf_requestCore (z g : Nat) (s : State) : heardOf ((requestCore z s).group g) = heardOf (s.group g) :=
  (retouched_requestCore z s g).1

/-! ### What one entry of an ECHO does to the groups (R113, R116, R117) -/

/-- R117: the group once an entry of a forwarded LEVEL's ECHO has been taken. -/
def relieved (level : Nat) (gr : Group) : Group :=
  { gr with applied := some level, misses := 0, mismatch := if farApart level gr.level then gr.mismatch else false }

theorem forwardedEchoGroup_eq (level g : Nat) (s : State) (l : g < 48) : forwardedEchoGroup level s g =
    if (s.group g).mismatch = true ∧ ¬farApart level (s.group g).level then
      clear .levelMismatch g ((heard g (applied level (s.group g)) s).modGroup g
        fun gr => { gr with mismatch := false })
    else heard g (applied level (s.group g)) s := by
  have record : (heard g (applied level (s.group g)) s).group g = applied level (s.group g) :=
    (group_heard g g _ s l).trans (if_pos rfl)
  unfold forwardedEchoGroup
  rw [takeApplied_eq g level s l, mismatchRelief_eq g _ level (by rw [record]; rfl), record]
  rfl

theorem group_forwardedEchoGroup (level g h : Nat) (s : State) (l : g < 48) :
    (forwardedEchoGroup level s g).group h = if h = g then relieved level (s.group g) else s.group h := by
  rw [forwardedEchoGroup_eq level g s l]
  by_cases c : (s.group g).mismatch = true ∧ ¬farApart level (s.group g).level
  · rw [if_pos c, group_clear, group_modGroup, group_heard g h _ s l]
    by_cases e : h = g
    · subst e
      rw [if_pos ⟨rfl, l⟩, if_pos rfl, if_pos rfl]
      simp [relieved, applied, c.2]
    · rw [if_neg (fun k => e k.1.symm), if_neg e, if_neg e]
  · rw [if_neg c, group_heard g h _ s l]
    refine if_congr Iff.rfl ?_ rfl
    by_cases far : farApart level (s.group g).level
    · simp only [relieved, applied, far, if_true]
    · have m : (s.group g).mismatch = false := by simpa [far] using c
      simp only [relieved, applied, far, if_false, m]

end Sys2Proof.Machine
end

section
/-! PROOF. What a reply leaves of the state beyond its node, its points and what evaluations change (O20). -/

namespace Sys2Proof.Machine

/-- A point but for what readings and judgements change. -/
def pointSettings (p : Point) : Point :=
  { p with value := 0, state := .lost, age := 0, pending := none, clamps := 0, accepted := false, fault := false }

/-- The state but for what a reply, with the evaluations it asks for, changes while the line is not FREE. -/
def exceptReply (s : State) : State :=
  { exceptEvaluation s with
    nodes := Vector.replicate 64 factoryNode
    points := s.points.map pointSettings
    counters := Vector.replicate 17 factoryCounter }

/-- From `s` to `t` the line grants nothing, and only what a reply may change has changed. -/
def Replied (s t : State) : Prop := s.line ≠ .free → exceptReply t = exceptReply s

theorem Replied.refl (s : State) : Replied s s := fun _ => rfl

theorem line_of_exceptReply {s t : State} (h : exceptReply t = exceptReply s) :
    t.line = s.line := (congrArg State.line h :)

theorem Replied.trans {s t u : State} (a : Replied s t) (b : Replied t u) : Replied s u := fun h =>
  (b (line_of_exceptReply (a h) ▸ h)).trans (a h)

theorem Evaluated.replied {s t : State} (h : Evaluated s t) : Replied s t := fun _ =>
  congrArg (fun u : State => { u with
    nodes := Vector.replicate 64 factoryNode
    points := u.points.map pointSettings
    counters := Vector.replicate 17 factoryCounter }) h.frame

theorem Reported.replied {s t : State} (h : Reported s t) : Replied s t := h.evaluated.replied

theorem replied_modNode (s : State) (n : Nat) (f : Node → Node) : Replied s (s.modNode n f) := fun _ => rfl

theorem replied_count (c : CounterId) (s : State) : Replied s (count c s) := fun _ => rfl

theorem replied_modPoint (s : State) (i : Nat) (f : Point → Point) (h : ∀ p, pointSettings (f p) = pointSettings p) :
    Replied s (s.modPoint i f) := fun _ => by
  simp only [exceptReply, points_modPoint, map_modifyAt _ _ _ _ h]
  rfl

theorem pointSettings_judged (n : Node) (p : Point) : pointSettings (judgedPoint n p) = pointSettings p := by
  unfold judgedPoint
  dsimp only
  split <;> rfl

theorem replied_judgePoint (s : State) (i : Nat) : Replied s (judgePoint i s) :=
  replied_modPoint s i _ fun _ => pointSettings_judged _ _

theorem replied_judgePointsOf (s : State) (n : Nat) (leaving : Bool) :
    Replied s (judgePointsOf n leaving s) := fun _ => by
  have same : (judgePointsOf n leaving s).points.map pointSettings = s.points.map pointSettings := by
    simp only [judgePointsOf, Vector.map_map]
    refine congrArg (fun f => s.points.map f) (funext fun p => ?_)
    simp only [Function.comp_apply]
    split
    · rw [pointSettings_judged]
      split <;> rfl
    · rfl
  simp only [exceptReply, same]
  rfl

theorem replied_foldl {α : Type} (f : State → α → State) (h : ∀ s a, Replied s (f s a)) (l : List α) (s : State) :
    Replied s (l.foldl f s) := by
  induction l generalizing s with
  | nil => exact .refl s
  | cons a l ih => exact (h s a).trans (ih _)

/-- At a line that is not FREE a request for an evaluation makes no grant. -/
theorem replied_requestEvaluation (z : Nat) (s : State) : Replied s (requestEvaluation z s) := fun h => by
  have e := evaluated_requestCore z s
  rw [requestEvaluation, grantJoined_of_not_free _ (e.line ▸ h)]
  exact e.replied h

/-! ### The judgement of the frame (R43 to R50) -/

theorem replied_changeNode (n : Nat) (f : Node → Node) (s : State) : Replied s (changeNode n f s) := by
  unfold changeNode
  dsimp only
  split
  · exact replied_modNode s n f
  · exact (replied_modNode s n f).trans (replied_judgePointsOf _ _ _)

theorem replied_becomeDisplaced (n : Nat) (f : Frame) (s : State) : Replied s (becomeDisplaced n f s) :=
  (replied_changeNode n _ s).trans (reported_raise _ _ _ _).replied

theorem replied_takeFrame (n : Nat) (f : Frame) (s : State) : Replied s (takeFrame n f s) := by
  unfold takeFrame
  split
  · exact .refl s
  · exact replied_changeNode n _ s
  · unfold takeTagcheck
    split
    · split
      · exact replied_changeNode n _ s
      · exact replied_becomeDisplaced n f s
    · exact replied_modNode s n _
  · unfold takeOnline
    dsimp only
    split
    · exact replied_modNode s n _
    · split
      · unfold takeInSequence
        dsimp only
        have lost := replied_modNode s n fun nd => countLost (gapOf nd f) nd
        split
        · split
          · exact lost.trans (replied_modNode _ n _)
          · exact lost.trans (replied_becomeDisplaced n f _)
        · exact lost.trans (replied_modNode _ n _)
      · exact replied_changeNode n _ s
  · exact (replied_modNode s n _).trans (reported_clear _ _ _).replied
  · unfold takeDisplaced
    split
    · exact ((replied_modNode s n _).trans (reported_clear _ _ _).replied).trans (evaluated_nodeBack _ _).replied
    · exact replied_modNode s n _

theorem replied_judgeReply (f : Frame) (s : State) : Replied s (judgeReply f s).1 := by
  rw [judgeReply_state]
  split
  · exact replied_takeFrame _ f s
  · exact .refl s

/-! ### The readings of a SAMPLE (R58 to R63) -/

theorem replied_faultReading (i : Nat) (s : State) : Replied s (faultReading i s) := by
  unfold faultReading
  dsimp only
  have judged : Replied s (judgePoint i (s.modPoint i fun p => { p with fault := true, pending := none })) := by
    refine Replied.trans ?_ (replied_judgePoint _ i)
    exact replied_modPoint s i _ fun _ => rfl
  split
  · exact judged
  · exact judged.trans (reported_raise _ _ _ _).replied

theorem replied_acceptValue (i : Nat) (v : Int) (s : State) : Replied s (acceptValue i v s) := by
  unfold acceptValue
  dsimp only
  have judged : Replied s (judgePoint i (clearIf (s.point i).fault .pointFault i
      (s.modPoint i fun p => { p with value := v, age := 0, accepted := true, fault := false }))) := by
    refine (Replied.trans ?_ (reported_clearIf _ _ _ _).replied).trans (replied_judgePoint _ i)
    exact replied_modPoint s i _ fun _ => rfl
  split
  · exact judged.trans (replied_requestEvaluation _ _)
  · exact judged

theorem replied_holdValue (i : Nat) (v : Int) (s : State) : Replied s (holdValue i v s) := by
  refine Replied.trans ?_ (replied_judgePoint _ i)
  exact replied_modPoint s i _ fun _ => rfl

theorem replied_dropPending (i : Nat) (s : State) : Replied s (dropPending i s) := replied_modPoint s i _ fun _ => rfl

theorem replied_settleReading (i : Nat) (q v : Int) (s : State) : Replied s (settleReading i q v s) := by
  unfold settleReading
  dsimp only
  split
  · exact (replied_dropPending i s).trans (replied_acceptValue _ _ _)
  · split
    · exact ((replied_dropPending i s).trans (replied_acceptValue _ _ _)).trans (replied_acceptValue _ _ _)
    · split
      · exact (replied_dropPending i s).trans (replied_acceptValue _ _ _)
      · exact replied_holdValue _ _ _

theorem replied_freshReading (i : Nat) (v : Int) (s : State) : Replied s (freshReading i v s) := by
  unfold freshReading
  dsimp only
  split
  · exact replied_acceptValue _ _ _
  · split
    · exact replied_acceptValue _ _ _
    · exact replied_holdValue _ _ _

theorem replied_valueReading (i : Nat) (r : Reading) (s : State) : Replied s (valueReading i r s) := by
  unfold valueReading
  dsimp only
  have clamped : Replied s (if readingValue r = sentValue r.quantity r.raw then s
      else s.modPoint i fun p => { p with clamps := satAdd top16 p.clamps 1 }) := by
    split
    · exact .refl s
    · exact replied_modPoint s i _ fun _ => rfl
  split
  · exact clamped.trans (replied_settleReading _ _ _ _)
  · exact clamped.trans (replied_freshReading _ _ _)

theorem replied_applyReading (n : Nat) (s : State) (r : Reading) : Replied s (applyReading n s r) := by
  unfold applyReading
  split
  · exact .refl s
  · split
    · exact replied_modNode s n _
    · split
      · exact replied_faultReading _ s
      · exact replied_valueReading _ _ s

theorem replied_applySample (n : Nat) (payload : List Byte) (s : State) : Replied s (applySample n payload s) :=
  replied_foldl _ (replied_applyReading n) _ s

/-! ### The use of the reply, and the forwarding decision (R9 to R12) -/

theorem useSample_cases (f : Frame) (j : Judgement) (s : State) :
    useSample f j s = s ∨ ∃ n, j.node = some n ∧ useSample f j s = applySample n f.payload s := by
  unfold useSample
  split
  · rename_i n h
    split
    · exact .inr ⟨n, h, rfl⟩
    · exact .inl rfl
  · exact .inl rfl

/-- R9: the use of a reply does what an evaluation does, or applies a SAMPLE of the node. -/
theorem useReply_cases (tr : Transaction) (f : Frame) (j : Judgement) (s : State) :
    Evaluated s (useReply tr f j s) ∨ ∃ n, j.node = some n ∧ useReply tr f j s = applySample n f.payload s := by
  have sample : Evaluated s (useSample f j s) ∨ ∃ n, j.node = some n ∧ useSample f j s = applySample n f.payload s :=
    (useSample_cases f j s).imp (fun e => by rw [e]; exact .refl s) id
  by_cases k : f.kind = kindEcho
  · refine .inl ?_
    cases h : tr.kind with
    | poll n =>
        cases node : j.node with
        | none =>
            rw [useReply_unknown tr f j s (by simp [h]) k (by simp [h]) node]
            exact .refl s
        | some m =>
            rw [useReply_poll tr f j s n m h k node]
            split
            · exact evaluated_pollEcho _ _ s
            · exact .refl s
    | command g n =>
        rw [useReply_command tr f j s g n h]
        split
        · exact evaluated_ownEcho _ _ _ s
        · exact evaluated_commandExpiry _ s
    | forward =>
        rw [useReply_forward tr f j s h k]
        split
        · exact evaluated_forwardedEcho _ _ _ s
        · exact .refl s
  · cases h : tr.kind with
    | poll n => rwa [useReply_noEcho tr f j s (by simp [h]) k]
    | command g n =>
        refine .inl ?_
        rw [useReply_command tr f j s g n h]
        split
        · exact evaluated_ownEcho _ _ _ s
        · exact evaluated_commandExpiry _ s
    | forward => rwa [useReply_noEcho tr f j s (by simp [h]) k]

theorem replied_useReply (tr : Transaction) (f : Frame) (j : Judgement) (s : State) :
    Replied s (useReply tr f j s) := by
  rcases useReply_cases tr f j s with e | ⟨n, -, e⟩
  · exact e.replied
  · rw [e]
    exact replied_applySample n f.payload s

/-- R10 to R12: the forwarding decision counts, or offers the frame to G2P. -/
theorem forwardReply_cases (f : Frame) (j : Judgement) (s : State) :
    forwardReply f j s = s ∨ forwardReply f j s = count .quarantined s ∨ forwardReply f j s = offerG2p f s := by
  unfold forwardReply
  split
  · exact .inl rfl
  · split
    · exact .inr (.inl rfl)
    · split
      · exact .inl rfl
      · split
        · exact .inl rfl
        · exact .inr (.inr rfl)

theorem replied_forwardReply (f : Frame) (j : Judgement) (s : State) : Replied s (forwardReply f j s) := by
  rcases forwardReply_cases f j s with e | e | e <;> rw [e]
  · exact .refl s
  · exact replied_count _ s
  · exact (reported_offerG2p f s).replied

theorem tables_forwardReply (f : Frame) (j : Judgement) (s : State) :
    (forwardReply f j s).nodes = s.nodes ∧ (forwardReply f j s).groups = s.groups := by
  rcases forwardReply_cases f j s with e | e | e <;> rw [e]
  · exact ⟨rfl, rfl⟩
  · exact ⟨rfl, rfl⟩
  · exact ⟨(reported_offerG2p f s).nodes, (reported_offerG2p f s).groups⟩

end Sys2Proof.Machine
end

section
/-! PROOF. What a reply does to the record of its node, and to no other (O20). -/

namespace Sys2Proof.Machine

/-! ### The frame taken (R44 to R50) -/

/-- From `nd` to `x` a frame has been taken: the settings stand, the frame's SEQ is the last one, and only a TAG
displaces a node or brings it back. -/
structure FrameTaken (f : Frame) (nd x : Node) : Prop where
  enable : x.enable = nd.enable
  address : x.address = nd.address
  period : x.pollPeriod = nd.pollPeriod
  seq : nd.state ≠ .absent → x.lastSeq = f.seq
  displaced : f.kind ≠ kindTag → (x.state = .displaced ↔ nd.state = .displaced)

theorem nodes_changeNode (n : Nat) (f : Node → Node) (s : State) :
    (changeNode n f s).nodes = (s.modNode n fun _ => f (s.node n)).nodes := by
  rw [← modNode_at]
  unfold changeNode
  dsimp only
  split <;> rfl

theorem nodes_becomeDisplaced (n : Nat) (f : Frame) (s : State) : (becomeDisplaced n f s).nodes =
    (s.modNode n fun _ => { noted f (s.node n) with state := .displaced, recheckDue := false }).nodes :=
  (nodes_raise ..).trans (nodes_changeNode n _ s)

theorem frameTaken_tagcheck (n : Nat) (f : Frame) (s : State) :
    ∃ x, FrameTaken f (s.node n) x ∧ (takeTagcheck n f s).nodes = (s.modNode n fun _ => x).nodes := by
  unfold takeTagcheck
  split
  · rename_i tag
    split
    · refine ⟨_, ?_, nodes_changeNode n _ s⟩
      exact ⟨rfl, rfl, rfl, fun _ => rfl, fun k => absurd tag k⟩
    · refine ⟨_, ?_, nodes_becomeDisplaced n f s⟩
      exact ⟨rfl, rfl, rfl, fun _ => rfl, fun k => absurd tag k⟩
  · refine ⟨_, ?_, congrArg State.nodes (modNode_at s n _)⟩
    exact ⟨rfl, rfl, rfl, fun _ => rfl, fun _ => Iff.rfl⟩

theorem frameTaken_inSequence (n : Nat) (f : Frame) (s : State) (l : n < 64) :
    ∃ x, FrameTaken f (s.node n) x ∧ (takeInSequence n f s).nodes = (s.modNode n fun _ => x).nodes := by
  let lost := s.modNode n fun nd => countLost (gapOf nd f) nd
  have record : lost.node n = countLost (gapOf (s.node n) f) (s.node n) := node_modNode_self s n _ l
  have after (x : Node) : (lost.modNode n fun _ => x).nodes = (s.modNode n fun _ => x).nodes :=
    congrArg State.nodes (modNode_twice s n _ _)
  have plain (g : Node → Node) : (lost.modNode n g).nodes = (s.modNode n fun _ => g (lost.node n)).nodes :=
    (congrArg State.nodes (modNode_at lost n g)).trans (after _)
  unfold takeInSequence
  dsimp only
  split
  · rename_i tag
    split
    · refine ⟨_, ?_, plain fun nd => { noted f nd with recheckDue := false }⟩
      rw [record]
      exact ⟨rfl, rfl, rfl, fun _ => rfl, fun k => absurd tag.1 k⟩
    · refine ⟨_, ?_, (nodes_becomeDisplaced n f lost).trans (after _)⟩
      rw [record]
      exact ⟨rfl, rfl, rfl, fun _ => rfl, fun k => absurd tag.1 k⟩
  · refine ⟨_, ?_, plain (noted f)⟩
    rw [record]
    exact ⟨rfl, rfl, rfl, fun _ => rfl, fun _ => Iff.rfl⟩

theorem frameTaken_online (n : Nat) (f : Frame) (s : State) (l : n < 64) (st : (s.node n).state = .online) :
    ∃ x, FrameTaken f (s.node n) x ∧ (takeOnline n f s).nodes = (s.modNode n fun _ => x).nodes := by
  unfold takeOnline
  dsimp only
  split
  · rename_i gap
    have again : f.seq = (s.node n).lastSeq :=
      ((isDuplicate_iff (s.node n) f).mp (by simp [isDuplicate, st, gap])).2
    refine ⟨_, ?_, congrArg State.nodes (modNode_at s n _)⟩
    exact ⟨rfl, rfl, rfl, fun _ => again.symm, fun _ => Iff.rfl⟩
  · split
    · exact frameTaken_inSequence n f s l
    · refine ⟨_, ?_, nodes_changeNode n _ s⟩
      refine ⟨rfl, rfl, rfl, fun _ => rfl, fun _ => ?_⟩
      rw [st]
      exact ⟨nofun, nofun⟩

theorem frameTaken_displaced (n : Nat) (f : Frame) (s : State) :
    ∃ x, FrameTaken f (s.node n) x ∧ (takeDisplaced n f s).nodes = (s.modNode n fun _ => x).nodes := by
  unfold takeDisplaced
  split
  · rename_i tag
    refine ⟨_, ?_, (nodes_nodeBack ..).trans ((nodes_clear ..).trans (congrArg State.nodes (modNode_at s n _)))⟩
    exact ⟨rfl, rfl, rfl, fun _ => rfl, fun k => absurd tag.1 k⟩
  · refine ⟨_, ?_, congrArg State.nodes (modNode_at s n _)⟩
    exact ⟨rfl, rfl, rfl, fun _ => rfl, fun _ => Iff.rfl⟩

theorem frameTaken_takeFrame (n : Nat) (f : Frame) (s : State) (l : n < 64) :
    ∃ x, FrameTaken f (s.node n) x ∧ (takeFrame n f s).nodes = (s.modNode n fun _ => x).nodes := by
  cases st : (s.node n).state with
  | absent =>
      simp only [takeFrame, st]
      exact ⟨s.node n, ⟨rfl, rfl, rfl, fun k => absurd st k, fun _ => Iff.rfl⟩,
        (congrArg State.nodes (modNode_same s n _ rfl)).symm⟩
  | hunting =>
      simp only [takeFrame, st]
      refine ⟨_, ?_, nodes_changeNode n _ s⟩
      refine ⟨rfl, rfl, rfl, fun _ => rfl, fun _ => ?_⟩
      rw [st]
      dsimp only
      split
      · split <;> simp
      · simp
  | tagcheck =>
      simp only [takeFrame, st]
      exact frameTaken_tagcheck n f s
  | online =>
      simp only [takeFrame, st]
      exact frameTaken_online n f s l st
  | silent =>
      simp only [takeFrame, st]
      refine ⟨_, ?_, (nodes_clear ..).trans (congrArg State.nodes (modNode_at s n _))⟩
      refine ⟨rfl, rfl, rfl, fun _ => rfl, fun _ => ?_⟩
      rw [st]
      exact ⟨nofun, nofun⟩
  | displaced =>
      simp only [takeFrame, st]
      exact frameTaken_displaced n f s

/-- The node of a frame taken, and every other. -/
theorem node_takeFrame (n : Nat) (f : Frame) (s : State) (l : n < 64) :
    FrameTaken f (s.node n) ((takeFrame n f s).node n) ∧ ∀ k, k ≠ n → (takeFrame n f s).node k = s.node k := by
  obtain ⟨x, t, e⟩ := frameTaken_takeFrame n f s l
  refine ⟨?_, fun k ne => ?_⟩
  · rw [node_congr e, node_modNode_self _ _ _ l]
    exact t
  · rw [node_congr e, node_modNode_other _ _ _ _ (Ne.symm ne)]

/-! ### The groups and the zones when the frame is no TAG -/

theorem lights_changeNode (n : Nat) (f : Node → Node) (s : State) :
    (changeNode n f s).groups = s.groups ∧ (changeNode n f s).zones = s.zones := by
  unfold changeNode
  dsimp only
  split <;> exact ⟨rfl, rfl⟩

theorem lights_takeFrame (n : Nat) (f : Frame) (s : State) (k : f.kind ≠ kindTag) :
    (takeFrame n f s).groups = s.groups ∧ (takeFrame n f s).zones = s.zones := by
  unfold takeFrame
  split
  · exact ⟨rfl, rfl⟩
  · exact lights_changeNode n _ s
  · rw [takeTagcheck, if_neg k]
    exact ⟨rfl, rfl⟩
  · unfold takeOnline
    dsimp only
    split
    · exact ⟨rfl, rfl⟩
    · split
      · rw [takeInSequence, if_neg fun b => k b.1]
        exact ⟨rfl, rfl⟩
      · exact lights_changeNode n _ s
  · exact ⟨groups_clear .., zones_clear ..⟩
  · rw [takeDisplaced, if_neg fun b => k b.1]
    exact ⟨rfl, rfl⟩

theorem lights_judgeReply (f : Frame) (s : State) (k : f.kind ≠ kindTag) :
    (judgeReply f s).1.groups = s.groups ∧ (judgeReply f s).1.zones = s.zones := by
  rw [judgeReply_state]
  split
  · exact lights_takeFrame _ f s k
  · exact ⟨rfl, rfl⟩

/-! ### The readings of a SAMPLE (R58 to R63) -/

theorem nodes_faultReading (i : Nat) (s : State) : (faultReading i s).nodes = s.nodes := by
  unfold faultReading
  dsimp only
  split
  · rfl
  · exact nodes_raise ..

theorem nodes_acceptValue (i : Nat) (v : Int) (s : State) : (acceptValue i v s).nodes = s.nodes := by
  have judged : ∀ b : Bool, ∀ t : State, (judgePoint i (clearIf b .pointFault i t)).nodes = t.nodes :=
    fun b t => nodes_clearIf ..
  unfold acceptValue
  dsimp only
  split
  · exact (nodes_requestEvaluation ..).trans (judged _ _)
  · exact judged _ _

theorem nodes_settleReading (i : Nat) (q v : Int) (s : State) : (settleReading i q v s).nodes = s.nodes := by
  unfold settleReading
  dsimp only
  split
  · exact nodes_acceptValue ..
  · split
    · exact (nodes_acceptValue ..).trans (nodes_acceptValue ..)
    · split
      · exact nodes_acceptValue ..
      · rfl

theorem nodes_freshReading (i : Nat) (v : Int) (s : State) : (freshReading i v s).nodes = s.nodes := by
  unfold freshReading
  dsimp only
  split
  · exact nodes_acceptValue ..
  · split
    · exact nodes_acceptValue ..
    · rfl

theorem nodes_valueReading (i : Nat) (r : Reading) (s : State) : (valueReading i r s).nodes = s.nodes := by
  unfold valueReading
  dsimp only
  have clamped : (if readingValue r = sentValue r.quantity r.raw then s
      else s.modPoint i fun p => { p with clamps := satAdd top16 p.clamps 1 }).nodes = s.nodes := by
    split <;> rfl
  split
  · exact (nodes_settleReading ..).trans clamped
  · exact (nodes_freshReading ..).trans clamped

/-- From `s` to `t` no node has changed but in node `n` the count of duplicates. -/
def Recounted (n : Nat) (s t : State) : Prop :=
  (∀ k, k ≠ n → t.node k = s.node k) ∧ ∃ d, t.node n = { s.node n with duplicates := d }

theorem recounted_of_nodes {n : Nat} {s t : State} (h : t.nodes = s.nodes) : Recounted n s t :=
  ⟨fun k _ => node_congr h k, _, node_congr h n⟩

theorem Recounted.trans {n : Nat} {s t u : State} (a : Recounted n s t) (b : Recounted n t u) : Recounted n s u := by
  obtain ⟨others, d, record⟩ := a
  obtain ⟨others', d', record'⟩ := b
  exact ⟨fun k ne => (others' k ne).trans (others k ne), d', by rw [record', record]⟩

theorem recounted_applyReading (n : Nat) (s : State) (r : Reading) : Recounted n s (applyReading n s r) := by
  unfold applyReading
  split
  · exact recounted_of_nodes rfl
  · split
    · refine ⟨fun k ne => node_modNode_other _ _ _ _ (Ne.symm ne), ?_⟩
      rw [node_modNode]
      split
      · exact ⟨_, rfl⟩
      · exact ⟨_, rfl⟩
    · split
      · exact recounted_of_nodes (nodes_faultReading ..)
      · exact recounted_of_nodes (nodes_valueReading ..)

theorem recounted_applySample (n : Nat) (payload : List Byte) (s : State) :
    Recounted n s (applySample n payload s) := by
  unfold applySample
  generalize (readingsOf payload).getD [] = readings
  induction readings generalizing s with
  | nil => exact recounted_of_nodes rfl
  | cons r readings ih => exact (recounted_applyReading n s r).trans (ih _)

theorem recounted_useReply (tr : Transaction) (f : Frame) (j : Judgement) (s : State) (n : Nat) (h : j.node = some n) :
    Recounted n s (useReply tr f j s) := by
  rcases useReply_cases tr f j s with e | ⟨m, node, e⟩
  · exact recounted_of_nodes e.nodes
  · obtain rfl : n = m := Option.some.inj (h.symm.trans node)
    rw [e]
    exact recounted_applySample n f.payload s

/-! ### The success (R43, R48) -/

theorem nodes_reschedule (n : Nat) (s : State) : (reschedule n s).nodes = s.nodes := by
  unfold reschedule
  split <;> rfl

theorem node_nodeSuccess (n k : Nat) (s : State) (l : n < 64) (e : (s.node n).enable = true) :
    (nodeSuccess n s).node k = if k = n then { s.node n with misses := 0 } else s.node k := by
  rw [nodeSuccess, if_pos e]
  by_cases h : k = n
  · subst h
    simp [l]
  · rw [node_modNode_other _ _ _ _ (Ne.symm h), if_neg h]

theorem handSuccess_poll (tr : Transaction) (j : Judgement) (s : State) (n : Nat) (h : tr.kind = .poll n) :
    handSuccess tr j s = reschedule n (nodeSuccess n s) := by simp only [handSuccess, h]

theorem handSuccess_command (tr : Transaction) (j : Judgement) (s : State) (g n : Nat) (h : tr.kind = .command g n) :
    handSuccess tr j s = nodeSuccess n s := by simp only [handSuccess, h]

theorem handSuccess_forward (tr : Transaction) (j : Judgement) (s : State) (h : tr.kind = .forward) :
    handSuccess tr j s = match j.node with
      | some n => nodeSuccess n s
      | none => s := by
  cases node : j.node <;> simp only [handSuccess, h, node]

theorem nodes_handSuccess_own (tr : Transaction) (j : Judgement) (s : State) (n : Nat)
    (h : tr.kind = .poll n ∨ ∃ g, tr.kind = .command g n) : (handSuccess tr j s).nodes = (nodeSuccess n s).nodes := by
  rcases h with h | ⟨g, h⟩
  · rw [handSuccess_poll tr j s n h, nodes_reschedule]
  · rw [handSuccess_command tr j s g n h]

/-- A success changes the nodes and, of a POLL, the poll due list. -/
theorem frame_handSuccess (tr : Transaction) (j : Judgement) (s : State) :
    ∃ nds pl, handSuccess tr j s = { s with nodes := nds, pollList := pl } ∧
      ((∀ n, tr.kind ≠ .poll n) → pl = s.pollList) := by
  cases h : tr.kind with
  | poll n =>
      obtain ⟨nds, e⟩ := frame_nodeSuccess n s
      have e' := reschedule_pollList n (nodeSuccess n s)
      refine ⟨nds, (reschedule n (nodeSuccess n s)).pollList, ?_, fun k => absurd rfl (k n)⟩
      rw [handSuccess_poll tr j s n h]
      rw [e] at e' ⊢
      exact (congrArg (fun u : State => { u with pollList := (reschedule n { s with nodes := nds }).pollList }) e' :)
  | command g n =>
      obtain ⟨nds, e⟩ := frame_nodeSuccess n s
      exact ⟨nds, s.pollList, (handSuccess_command tr j s g n h).trans e, fun _ => rfl⟩
  | forward =>
      rw [handSuccess_forward tr j s h]
      split
      · rename_i n _
        obtain ⟨nds, e⟩ := frame_nodeSuccess n s
        exact ⟨nds, s.pollList, e, fun _ => rfl⟩
      · exact ⟨s.nodes, s.pollList, rfl, fun _ => rfl⟩

theorem address_handSuccess (tr : Transaction) (j : Judgement) (s : State) (k : Nat) :
    ((handSuccess tr j s).node k).address = (s.node k).address := by
  have success (n : Nat) : ((nodeSuccess n s).node k).address = (s.node k).address := by
    unfold nodeSuccess
    split
    · rw [node_modNode]
      split <;> rfl
    · rfl
  cases h : tr.kind with
  | poll n =>
      rw [handSuccess_poll tr j s n h, node_congr (nodes_reschedule n _)]
      exact success n
  | command g n =>
      rw [handSuccess_command tr j s g n h]
      exact success n
  | forward =>
      rw [handSuccess_forward tr j s h]
      split
      · exact success _
      · rfl

end Sys2Proof.Machine
end

section
/-! PROOF. The frame that answers an open window: what runs, and what stands when it has (O20). -/

namespace Sys2Proof.Machine

/-! ### The forwarding decision (R10 to R12) -/

/-- R12: the node has enabled points, and none of them forwards its SAMPLEs. -/
def keepsSamples (s : State) (n : Nat) : Prop :=
  (∃ i < 192, (s.point i).enable = true ∧ (s.point i).node = n) ∧
    ∀ i < 192, (s.point i).enable = true → (s.point i).node = n → (s.point i).forward = false

theorem getElem_points (s : State) (i : Nat) (l : i < 192) : s.points[i] = s.point i := by
  simp [State.point, l]

theorem forwardOff_iff (s : State) (n : Nat) : forwardOff s n = true ↔ keepsSamples s n := by
  unfold forwardOff keepsSamples
  rw [Bool.and_eq_true, Vector.any_eq_true, Vector.all_eq_true]
  refine and_congr ?_ (forall₂_congr fun i l => ?_)
  · refine exists_congr fun i => ?_
    constructor
    · rintro ⟨l, h⟩
      rw [getElem_points s i l] at h
      simpa [l] using h
    · rintro ⟨l, h⟩
      refine ⟨l, ?_⟩
      rw [getElem_points s i l]
      simpa using h
  · rw [getElem_points s i l]
    cases (s.point i).enable <;> cases (s.point i).forward <;> simp

/-- R12: which points hold a node's SAMPLEs back does not depend on readings and judgements. -/
theorem keepsSamples_congr {s t : State} (h : ∀ i, pointSettings (t.point i) = pointSettings (s.point i)) (n : Nat) :
    keepsSamples t n ↔ keepsSamples s n := by
  have enable (i : Nat) : (t.point i).enable = (s.point i).enable := (congrArg Point.enable (h i) :)
  have node (i : Nat) : (t.point i).node = (s.point i).node := (congrArg Point.node (h i) :)
  have forward (i : Nat) : (t.point i).forward = (s.point i).forward := (congrArg Point.forward (h i) :)
  simp only [keepsSamples, enable, node, forward]

/-- R12: a SAMPLE that stays with the part. -/
def consumedSample (f : Frame) (j : Judgement) (s : State) : Prop :=
  f.kind = kindSample ∧ f.dest = broadcast ∧ ∃ n, j.node = some n ∧ keepsSamples s n

theorem sampleConsumed_iff (f : Frame) (j : Judgement) (s : State) :
    sampleConsumed f j s = true ↔ consumedSample f j s := by
  unfold sampleConsumed consumedSample
  simp only [Bool.and_eq_true, beq_iff_eq, and_assoc]
  refine and_congr_right fun _ => and_congr_right fun _ => ?_
  cases j.node <;> simp [forwardOff_iff]

theorem forwardReply_own (f : Frame) (j : Judgement) (s : State) (h : f.dest = ownOctet s) : forwardReply f j s = s :=
  if_pos h

theorem forwardReply_displaced (f : Frame) (j : Judgement) (s : State) (h : f.dest ≠ ownOctet s)
    (d : j.displaced = true) :
    forwardReply f j s = count .quarantined s := by simp [forwardReply, h, d]

theorem forwardReply_held (f : Frame) (j : Judgement) (s : State) (h : f.dest ≠ ownOctet s) (d : j.displaced = false)
    (c : j.duplicate = true ∨ consumedSample f j s) : forwardReply f j s = s := by
  rw [← sampleConsumed_iff] at c
  rcases c with c | c <;> simp [forwardReply, h, d, c]

theorem forwardReply_offered (f : Frame) (j : Judgement) (s : State) (h : f.dest ≠ ownOctet s) (d : j.displaced = false)
    (u : j.duplicate = false) (c : ¬consumedSample f j s) : forwardReply f j s = offerG2p f s := by
  rw [← sampleConsumed_iff] at c
  simp [forwardReply, h, d, u, c]

/-! ### What runs (R34 to R36) -/

/-- The state once a reply has been judged, has been a success and has been used. -/
def replyUsed (tr : Transaction) (f : Frame) (u : State) : State :=
  useReply tr f (judgeReply f u).2 (handSuccess tr (judgeReply f u).2 (judgeReply f u).1)

/-- The state in which a reply is judged: the window has ended. -/
def windowClosed (f : Frame) (s : State) : State :=
  { taken (.galleryFrame f) s with line := .turnaround (s.now + 2 * charUnits s .gallery) }

section answered

variable (f : Frame) (s : State) (tr : Transaction) (e : Nat) (good : frameGood .gallery (ownOctet s) f = true)
  (hl : s.line = .busy tr) (hp : tr.phase = .window e) (ha : tr.awaited = some f.src)
  (waits : .galleryFrame f ∈ s.handed → f ∈ tr.answers)
include good hl hp ha waits

theorem exec_answer : exec (.galleryFrame f) s =
    .next (if (tr.accepts.all fun k => k == f.kind) = true then takeReply tr f (taken (.galleryFrame f) s)
      else missTransaction tr (windowClosed f s)) := by
  have answers : answersWindow tr f (s.handed.contains (.galleryFrame f)) = true := by
    unfold answersWindow
    split
    · rename_i w
      simpa using waits (by simpa using w)
    · simp [ha]
  rw [exec_galleryFrame f s good]
  exact congrArg Host.Outcome.next
    ((galleryFrame_window f _ (taken (.galleryFrame f) s) tr e hl hp).trans (frameInWindow_answer tr f _ _ answers))

theorem exec_accepted (k : ∀ k, tr.accepts = some k → f.kind = k) : exec (.galleryFrame f) s =
    .next (forwardReply f (judgeReply f (windowClosed f s)).2 (replyUsed tr f (windowClosed f s))) := by
  have accepted : (tr.accepts.all fun k => k == f.kind) = true := by
    cases h : tr.accepts with
    | none => rfl
    | some x => simp [k x h]
  rw [exec_answer f s tr e good hl hp ha waits, if_pos accepted]
  rfl

theorem exec_otherKind (k : Byte) (a : tr.accepts = some k) (n : f.kind ≠ k) : exec (.galleryFrame f) s =
    .next (missTransaction tr (windowClosed f s)) := by
  rw [exec_answer f s tr e good hl hp ha waits, if_neg]
  simp [a, Ne.symm n]

end answered

theorem replyWindowExpiry_window (s : State) (tr : Transaction) (e : Nat) (hl : s.line = .busy tr)
    (hp : tr.phase = .window e) : replyWindowExpiry s = missTransaction tr (beginTurnaround s) := by
  simp only [replyWindowExpiry, hl, hp]

/-! ### What stands when it has run -/

theorem point_settings {s t : State} (h : t.points.map pointSettings = s.points.map pointSettings) (i : Nat) :
    pointSettings (t.point i) = pointSettings (s.point i) := by
  have e := congrArg (fun v : Vector Point 192 => v[i]?) h
  simp only [Vector.getElem?_map] at e
  by_cases l : i < 192
  · simp only [Vector.getElem?_eq_getElem l, Option.map_some, Option.some.injEq, getElem_points _ _ l] at e
    exact e
  · rw [point_beyond _ _ (by omega), point_beyond _ _ (by omega)]

theorem exceptReply_handSuccess (tr : Transaction) (j : Judgement) (s : State) :
    { exceptReply (handSuccess tr j s) with pollList := s.pollList } = exceptReply s := by
  obtain ⟨nds, pl, e, -⟩ := frame_handSuccess tr j s
  rw [e]
  rfl

theorem line_handSuccess (tr : Transaction) (j : Judgement) (s : State) : (handSuccess tr j s).line = s.line := by
  obtain ⟨nds, pl, e, -⟩ := frame_handSuccess tr j s
  rw [e]

theorem exceptReply_withPollList {u v w : State} (a : exceptReply v = exceptReply u)
    (b : { exceptReply w with pollList := v.pollList } = exceptReply v) :
    exceptReply w = { exceptReply u with pollList := w.pollList } := by
  rw [← a, ← b]
  rfl

theorem line_judgeReply (f : Frame) (u : State) (h : u.line ≠ .free) : (judgeReply f u).1.line = u.line :=
  line_of_exceptReply (replied_judgeReply f u h)

/-- A reply used leaves all but its node, points, groups, zones and reports, and the poll due list of its success. -/
theorem exceptReply_replyUsed (tr : Transaction) (f : Frame) (u : State) (h : u.line ≠ .free) :
    exceptReply (replyUsed tr f u) =
      { exceptReply u with
        pollList := (handSuccess tr (judgeReply f u).2 (judgeReply f u).1).pollList } := by
  have line := (line_handSuccess tr (judgeReply f u).2 _).trans (line_judgeReply f u h)
  refine (replied_useReply tr f (judgeReply f u).2 _ (line ▸ h)).trans ?_
  exact exceptReply_withPollList (replied_judgeReply f u h) (exceptReply_handSuccess tr _ _)

/-- The state a reply leaves, whatever has been forwarded. -/
theorem exceptReply_forwarded (tr : Transaction) (f : Frame) (u : State) (h : u.line ≠ .free) :
    exceptReply (forwardReply f (judgeReply f u).2 (replyUsed tr f u)) =
      { exceptReply u with
        pollList := (handSuccess tr (judgeReply f u).2 (judgeReply f u).1).pollList } := by
  have used := exceptReply_replyUsed tr f u h
  have line : (replyUsed tr f u).line = u.line := (congrArg State.line used :)
  exact (replied_forwardReply f _ _ (line ▸ h)).trans used

end Sys2Proof.Machine
end

section
/-! PROOF. The success of a reply, the miss of one of another kind, and what of it passes to the plant side (O20). -/

namespace Sys2Proof.Machine

/-! ### The success for the node (R32, R34, R43, R48) -/

theorem nodes_forwardReply (f : Frame) (j : Judgement) (s : State) (k : Nat) : (forwardReply f j s).node k = s.node k :=
  node_congr (tables_forwardReply f j s).1 k

/-- R48: the record of the node of a reply, and every other, once the reply has been used. -/
theorem node_replyUsed (tr : Transaction) (f : Frame) (u : State) (n : Nat)
    (own : tr.kind = .poll n ∨ ∃ g, tr.kind = .command g n) (src : nodeOfSrc u f.src = some n) :
    FrameTaken f (u.node n) ((replyUsed tr f u).node n) ∧ ((replyUsed tr f u).node n).misses = 0 ∧
      ∀ k, k ≠ n → (replyUsed tr f u).node k = u.node k := by
  obtain ⟨⟨l, enabled, -⟩, -⟩ := (nodeOfSrc_iff u f.src n).mp src
  obtain ⟨taken, others⟩ := node_takeFrame n f u l
  have judged : (judgeReply f u).1 = takeFrame n f u := by rw [judgeReply_some f u n src]
  have node : (judgeReply f u).2.node = some n := (judgeReply_node f u).trans src
  obtain ⟨usedOthers, d, used⟩ := recounted_useReply tr f (judgeReply f u).2
    (handSuccess tr (judgeReply f u).2 (judgeReply f u).1) n node
  have success (k : Nat) : (handSuccess tr (judgeReply f u).2 (judgeReply f u).1).node k =
      if k = n then { (takeFrame n f u).node n with misses := 0 } else (takeFrame n f u).node k := by
    rw [node_congr (nodes_handSuccess_own tr _ _ n own), judged]
    exact node_nodeSuccess n k _ l (taken.enable.trans enabled)
  rw [success, if_pos rfl] at used
  refine ⟨?_, ?_, fun k ne => ?_⟩
  · rw [replyUsed, used]
    exact ⟨taken.enable, taken.address, taken.period, taken.seq, taken.displaced⟩
  · rw [replyUsed, used]
  · rw [replyUsed, usedOthers k ne, success, if_neg ne, others k ne]

/-- What a statement about all but the poll due list says, field by field. -/
theorem fields_of_exceptReply {u t : State} {pl : List PollEntry}
    (h : exceptReply t = { exceptReply u with pollList := pl }) :
    t.pollList = pl ∧ t.line = u.line ∧ t.device = u.device ∧ t.calendar = u.calendar ∧ t.objects = u.objects ∧
      t.store = u.store ∧ t.points.map pointSettings = u.points.map pointSettings :=
  ⟨(congrArg State.pollList h :), (congrArg State.line h :), (congrArg State.device h :), (congrArg State.calendar h :),
    (congrArg State.objects h :), (congrArg State.store h :), (congrArg State.points h :)⟩

theorem schedule_of_exceptReply {u t : State} (h : exceptReply t = exceptReply u) :
    t.pollList = u.pollList ∧ t.now = u.now :=
  ⟨(congrArg State.pollList h :), (congrArg State.now h :)⟩

theorem polledAgain_congr {n : Nat} {s t t' : State} (h : t'.pollList = t.pollList) (p : polledAgain n s t) :
    polledAgain n s t' := by
  obtain ⟨gone, placed⟩ := p
  exact ⟨fun x => h.trans (gone x), fun e x => by rw [h]; exact placed e x⟩

/-- R32: a POLL that succeeds schedules its node's next one. -/
theorem polledAgain_success (tr : Transaction) (f : Frame) (u : State) (n : Nat) (free : u.line ≠ .free)
    (h : tr.kind = .poll n) (l : n < 64) (src : nodeOfSrc u f.src = some n) :
    polledAgain n u (handSuccess tr (judgeReply f u).2 (judgeReply f u).1) := by
  have judged : (judgeReply f u).1 = takeFrame n f u := by rw [judgeReply_some f u n src]
  obtain ⟨list, now⟩ := schedule_of_exceptReply (replied_judgeReply f u free)
  have period : ((judgeReply f u).1.node n).pollPeriod = (u.node n).pollPeriod := by
    rw [judged]
    exact (node_takeFrame n f u l).1.period
  obtain ⟨nds, e⟩ := frame_nodeSuccess n (judgeReply f u).1
  rw [handSuccess_poll tr _ _ n h]
  refine polledAgain_reschedule n u _ (Eq.trans ?_ list) (Eq.trans ?_ now) ((pollPeriod_nodeSuccess n _).trans period)
  · rw [e]
  · rw [e]

/-- R32, R34, R43, R48: the reply of a transaction's own node. -/
theorem reply_succeeds (tr : Transaction) (f : Frame) (u : State) (n : Nat) (free : u.line ≠ .free)
    (own : tr.kind = .poll n ∨ ∃ g, tr.kind = .command g n) (src : nodeOfSrc u f.src = some n)
    (known : (u.node n).state ≠ .absent) :
    let t := forwardReply f (judgeReply f u).2 (replyUsed tr f u)
    t.line = u.line ∧ (t.node n).misses = 0 ∧ (t.node n).lastSeq = f.seq ∧ (t.node n).enable = true ∧
      (∀ k, k ≠ n → t.node k = u.node k) ∧ (tr.kind = .poll n → polledAgain n u t) ∧ t.device = u.device ∧
      t.calendar = u.calendar ∧ t.objects = u.objects ∧ t.store = u.store := by
  obtain ⟨⟨l, enabled, -⟩, -⟩ := (nodeOfSrc_iff u f.src n).mp src
  obtain ⟨taken, misses, others⟩ := node_replyUsed tr f u n own src
  obtain ⟨list, line, device, calendar, objects, store, -⟩ := fields_of_exceptReply (exceptReply_forwarded tr f u free)
  intro t
  have record : t.node n = (replyUsed tr f u).node n := nodes_forwardReply f _ _ n
  rw [record]
  exact ⟨line, misses, taken.seq known, taken.enable.trans enabled,
    fun k ne => (nodes_forwardReply f _ _ k).trans (others k ne),
    fun h => polledAgain_congr list (polledAgain_success tr f u n free h l src),
    device, calendar, objects, store⟩

/-! ### The miss of a reply of another kind (R36) -/

theorem counters_changeNode (n : Nat) (f : Node → Node) (s : State) :
    (changeNode n f s).counters = s.counters ∧ (changeNode n f s).line = s.line := by
  unfold changeNode
  dsimp only
  split <;> exact ⟨rfl, rfl⟩

theorem becomeSilent_frame (n : Nat) (s : State) (l : n < 64) :
    (becomeSilent n s).line = s.line ∧ (becomeSilent n s).counters[4] = s.counters[4] ∧
      ((becomeSilent n s).node n).misses = (s.node n).misses := by
  obtain ⟨counters, line⟩ := counters_changeNode n (fun nd => { nd with state := .silent, recheckDue := false }) s
  have nodes := nodes_changeNode n (fun nd => { nd with state := .silent, recheckDue := false }) s
  unfold becomeSilent
  dsimp only
  generalize changeNode n (fun nd => { nd with state := .silent, recheckDue := false }) s = m at counters line nodes
  have raised := reported_raise .nodeSilent n (m.node n).address m
  refine ⟨raised.line.trans line, ?_, ?_⟩
  · rw [raised.evaluated.counter 4 (by decide) (by decide)]
    simp only [counters]
  · rw [raised.node, node_congr nodes, node_modNode_self _ _ _ l]

theorem nodeMiss_frame (n : Nat) (s : State) (e : (s.node n).enable = true) :
    (nodeMiss n s).line = s.line ∧ (nodeMiss n s).counters[4] = s.counters[4] ∧
      ((nodeMiss n s).node n).misses = min 255 ((s.node n).misses + 1) := by
  have l := enabled_node s n e
  have missed : ((s.modNode n fun nd => { nd with misses := satAdd 255 nd.misses 1 }).node n).misses =
      min 255 ((s.node n).misses + 1) := by
    rw [node_modNode_self _ _ _ l]
    rfl
  rw [nodeMiss, if_pos e]
  dsimp only
  split
  · obtain ⟨line, counter, misses⟩ := becomeSilent_frame n
      (s.modNode n fun nd => { nd with misses := satAdd 255 nd.misses 1 }) l
    exact ⟨line, counter, misses.trans missed⟩
  · exact ⟨rfl, rfl, missed⟩

theorem frame_reschedule (n : Nat) (s : State) : ∃ pl, reschedule n s = { s with pollList := pl } := by
  unfold reschedule
  split
  · exact ⟨_, rfl⟩
  · exact ⟨_, rfl⟩

/-- R36: the miss of a transaction of the part's own. -/
theorem miss_frame (tr : Transaction) (u : State) (n : Nat) (own : tr.kind = .poll n ∨ ∃ g, tr.kind = .command g n)
    (e : (u.node n).enable = true) :
    let t := missTransaction tr u
    t.line = u.line ∧ t.counters[4] = bumpCounter 1 u.counters[4] ∧
      (t.node n).misses = min 255 ((u.node n).misses + 1) := by
  intro t
  have counted : (count .galleryMisses u).counters[4] = bumpCounter 1 u.counters[4] :=
    getElem_counters_countMany .galleryMisses 1 u 4 (by decide)
  rcases own with h | ⟨g, h⟩
  · obtain ⟨pl, r⟩ := frame_reschedule n (nodeMiss n (count .galleryMisses u))
    obtain ⟨line, counter, misses⟩ := nodeMiss_frame n (count .galleryMisses u) e
    have run : t = { nodeMiss n (count .galleryMisses u) with pollList := pl } := by
      rw [← r]
      simp only [t, missTransaction, h]
    rw [run]
    exact ⟨line, counter.trans counted, misses⟩
  · have expired := evaluated_commandExpiry g (count .galleryMisses u)
    have run : t = nodeMiss n (commandExpiry g (count .galleryMisses u)) := by simp only [t, missTransaction, h]
    have same := expired.node n
    obtain ⟨line, counter, misses⟩ := nodeMiss_frame n (commandExpiry g (count .galleryMisses u))
      ((congrArg Node.enable same).trans e)
    rw [run]
    refine ⟨line.trans expired.line, ?_, ?_⟩
    · rw [counter, expired.counter 4 (by decide) (by decide), counted]
    · rw [misses, same]
      rfl

/-! ### The judgement, and what passes (R9 to R12) -/

theorem judgement_facts (f : Frame) (u : State) (n : Nat) (h : (judgeReply f u).2.node = some n) :
    ((judgeReply f u).2.duplicate = true ↔ (u.node n).state = .online ∧ f.seq = (u.node n).lastSeq) ∧
    ((judgeReply f u).2.displaced = true ↔
      (u.node n).state = .displaced ∨ ((takeFrame n f u).node n).state = .displaced) := by
  have src := (judgeReply_node f u).symm.trans h
  rw [judgeReply_some f u n src]
  exact ⟨isDuplicate_iff _ f, by simp⟩

theorem judgement_unknown (f : Frame) (u : State) (h : (judgeReply f u).2.node = none) :
    (judgeReply f u).2.duplicate = false ∧ (judgeReply f u).2.displaced = false := by
  rw [judgeReply_none f u ((judgeReply_node f u).symm.trans h)]
  exact ⟨rfl, rfl⟩

/-- An ECHO of a node is used unless the node is DISPLACED or the frame is a duplicate. -/
theorem echoUsable_known (f : Frame) (u : State) (n : Nat) (src : nodeOfSrc u f.src = some n) (k : f.kind ≠ kindTag) :
    echoUsable (judgeReply f u).2 = true ↔
      (u.node n).state ≠ .displaced ∧ ¬((u.node n).state = .online ∧ f.seq = (u.node n).lastSeq) := by
  obtain ⟨⟨l, -, -⟩, -⟩ := (nodeOfSrc_iff u f.src n).mp src
  obtain ⟨duplicate, displaced⟩ := judgement_facts f u n ((judgeReply_node f u).trans src)
  rw [(node_takeFrame n f u l).1.displaced k, or_self] at displaced
  rw [echoUsable_iff, ← Bool.not_eq_true, ← Bool.not_eq_true, duplicate, displaced, and_comm]

/-- R10 to R12: what of a reply passes to the plant side, decided by the state before it. -/
theorem reply_passes (tr : Transaction) (f : Frame) (u : State) (free : u.line ≠ .free) :
    let j := (judgeReply f u).2
    let used := replyUsed tr f u
    let t := forwardReply f j used
    (f.dest = ownOctet u → t = used) ∧
      (f.dest ≠ ownOctet u → j.displaced = true → t = count .quarantined used) ∧
      (f.dest ≠ ownOctet u → j.displaced = false → (j.duplicate = true ∨ consumedSample f j u) → t = used) ∧
      (f.dest ≠ ownOctet u → j.displaced = false → j.duplicate = false → ¬consumedSample f j u →
        t = offerG2p f used) := by
  obtain ⟨-, -, device, -, -, -, pointTable⟩ := fields_of_exceptReply (exceptReply_replyUsed tr f u free)
  have own : ownOctet (replyUsed tr f u) = ownOctet u := by
    unfold ownOctet
    rw [device]
  have points (i : Nat) : pointSettings ((replyUsed tr f u).point i) = pointSettings (u.point i) :=
    point_settings pointTable i
  have consumed (j : Judgement) : consumedSample f j (replyUsed tr f u) ↔ consumedSample f j u := by
    simp only [consumedSample, keepsSamples_congr points]
  simp only [← own]
  refine ⟨forwardReply_own f _ _, forwardReply_displaced f _ _, fun o d c => ?_, fun o d n c => ?_⟩
  · exact forwardReply_held f _ _ o d (c.imp_right (consumed _).mpr)
  · exact forwardReply_offered f _ _ o d n fun k => c ((consumed _).mp k)

end Sys2Proof.Machine
end

section
/-! PROOF. What the ECHO that answers a transaction does to the groups (R113, R116, R117; O20). -/

namespace Sys2Proof.Machine

/-! ### Which groups an entry names, while only evaluations run -/

theorem groupOnChannel_congr {s t : State} (h : ∀ i, groupSettings (t.group i) = groupSettings (s.group i))
    (n ch : Nat) :
    groupOnChannel t n ch = groupOnChannel s n ch := by
  have enable (i : Nat) : (t.group i).enable = (s.group i).enable := (congrArg Group.enable (h i) :)
  have node (i : Nat) : (t.group i).node = (s.group i).node := (congrArg Group.node (h i) :)
  have channel (i : Nat) : (t.group i).channel = (s.group i).channel := (congrArg Group.channel (h i) :)
  simp only [groupOnChannel, enable, node, channel]

theorem groupsReached_congr {s t : State} (h : ∀ i, groupSettings (t.group i) = groupSettings (s.group i))
    (a : ∀ i, (t.node i).address = (s.node i).address) (src : Byte) (ch : Nat) :
    groupsReached t src ch = groupsReached s src ch := by
  have enable (i : Nat) : (t.group i).enable = (s.group i).enable := (congrArg Group.enable (h i) :)
  have node (i : Nat) : (t.group i).node = (s.group i).node := (congrArg Group.node (h i) :)
  have channel (i : Nat) : (t.group i).channel = (s.group i).channel := (congrArg Group.channel (h i) :)
  simp only [groupsReached, enable, node, channel, a]

theorem echoGroups_congr {s t : State} (h : ∀ i, groupSettings (t.group i) = groupSettings (s.group i))
    (a : ∀ i, (t.node i).address = (s.node i).address) (node : Option Nat) (src : Byte) (ch : Nat) :
    echoGroups t node src ch = echoGroups s node src ch := by
  cases node with
  | none => exact groupsReached_congr h a src ch
  | some n => exact congrArg Option.toList (groupOnChannel_congr h n ch)

theorem echoGroups_nodup (s : State) (node : Option Nat) (src : Byte) (ch : Nat) :
    (echoGroups s node src ch).Nodup := by
  cases node with
  | none => exact nodup_groupsReached s src ch
  | some n =>
      show ((groupOnChannel s n ch).toList).Nodup
      cases groupOnChannel s n ch <;> simp

theorem echoGroups_lt (s : State) (node : Option Nat) (src : Byte) (ch : Nat) :
    ∀ g ∈ echoGroups s node src ch, g < 48 := by
  intro g m
  cases node with
  | none => exact (mem_groupsReached s src ch g m).1
  | some n =>
      exact ((groupOnChannel_iff s n ch g).mp (by simpa [echoGroups] using m)).1

/-! ### The MISMATCH test of one group -/

/-- A group at work is left alone by the test of another. -/
theorem group_mismatchTest_other (g h : Nat) (s : State) (ne : h ≠ g) (e : (s.group g).enable = true)
    (p : (s.group g).phase ≠ .idle) : (mismatchTest h s).group g = s.group g := by
  unfold mismatchTest
  dsimp only
  split
  · have same : (raise .levelMismatch h (s.group h).zone
        (s.modGroup h fun gr => { gr with mismatch := true, resend := true })).group g = s.group g := by
      rw [group_raise, group_modGroup_other _ _ _ _ ne]
    rw [group_requestCore_working _ _ _ (by rwa [same]) (by rwa [same]), same]
  · split
    · rw [group_clear, group_modGroup_other _ _ _ _ ne]
    · rfl

theorem heardOf_mismatchTest (g h : Nat) (s : State) :
    ((mismatchTest h s).group g).applied = (s.group g).applied ∧
      ((mismatchTest h s).group g).misses = (s.group g).misses ∧
      (h ≠ g → heardOf ((mismatchTest h s).group g) = heardOf (s.group g)) := by
  have changed (f : Group → Group) (applied : ∀ x, (f x).applied = x.applied) (misses : ∀ x, (f x).misses = x.misses) :
      ((s.modGroup h f).group g).applied = (s.group g).applied ∧
        ((s.modGroup h f).group g).misses = (s.group g).misses ∧
        (h ≠ g → heardOf ((s.modGroup h f).group g) = heardOf (s.group g)) := by
    refine ⟨?_, ?_, fun ne => by rw [group_modGroup_other _ _ _ _ ne]⟩
    · rw [group_modGroup]; split <;> simp [applied]
    · rw [group_modGroup]; split <;> simp [misses]
  unfold mismatchTest
  dsimp only
  split
  · have kept := heardOf_requestCore (s.group h).zone g (raise .levelMismatch h (s.group h).zone
      (s.modGroup h fun gr => { gr with mismatch := true, resend := true }))
    rw [group_raise] at kept
    obtain ⟨applied, misses, other⟩ := changed
      (fun gr => { gr with mismatch := true, resend := true }) (fun _ => rfl) fun _ => rfl
    exact ⟨(congrArg Prod.fst kept).trans applied, (congrArg (fun x => x.2.1) kept).trans misses,
      fun ne => kept.trans (other ne)⟩
  · split
    · rw [group_clear]
      exact changed _ (fun _ => rfl) fun _ => rfl
    · exact ⟨rfl, rfl, fun _ => rfl⟩

/-! ### The ECHO that answers a COMMAND (R113, R114) -/

theorem group_pollEchoEntry_except (n g : Nat) (s : State) (x : EchoEntry) (e : (s.group g).enable = true)
    (p : (s.group g).phase ≠ .idle) : (pollEchoEntry n (some g) s x).group g = s.group g := by
  rw [pollEchoEntry_except]
  split
  · rfl
  · rename_i other
    cases on : groupOnChannel s n x.channel with
    | none => rw [pollEchoEntry_none n none s x on]
    | some h =>
        have ne : h ≠ g := fun k => other (on.trans (congrArg some k))
        have l := ((groupOnChannel_iff s n x.channel h).mp on).1
        have same : (takeApplied h x.level s).group g = s.group g := by
          rw [takeApplied_eq h x.level s l, group_heard h g _ s l, if_neg (Ne.symm ne)]
        rw [pollEchoEntry_some n h s x on, group_mismatchTest_other g h _ ne (by rwa [same]) (by rwa [same]), same]

theorem group_foldl_pollEchoEntry_except (n g : Nat) (entries : List EchoEntry) (s : State)
    (e : (s.group g).enable = true)
    (p : (s.group g).phase ≠ .idle) : (entries.foldl (pollEchoEntry n (some g)) s).group g = s.group g := by
  induction entries generalizing s with
  | nil => rfl
  | cons x entries ih =>
      have same := group_pollEchoEntry_except n g s x e p
      exact (ih _ (by rwa [same]) (by rwa [same])).trans same

/-- R113, R116: the group as its own ECHO leaves it, the MISMATCH test done. -/
def ownTested (now level : Nat) (gr : Group) : Group :=
  { gr with
    applied := some level, misses := 0, phase := .settling (now + gr.settle * unitsPerSecond)
    mismatch := if farApart level gr.level then true else false
    resend := if farApart level gr.level ∧ gr.mismatch = false then true else false }

theorem group_mismatchTest_settled (g now level : Nat) (s : State) (gr : Group) (l : g < 48) (e : gr.enable = true)
    (h : s.group g = settled now level gr) : (mismatchTest g s).group g = ownTested now level gr := by
  have applied : (s.group g).applied = some level := by rw [h]; rfl
  have level' : (s.group g).level = gr.level := by rw [h]; rfl
  have mismatch : (s.group g).mismatch = gr.mismatch := by rw [h]; rfl
  have tested : (s.group g).phase = .idle ∨ ∃ e, (s.group g).phase = .settling e := by rw [h]; exact .inr ⟨_, rfl⟩
  by_cases far : farApart level gr.level <;> cases m : gr.mismatch
  · have raised : (raise .levelMismatch g (s.group g).zone
        (s.modGroup g fun gr => { gr with mismatch := true, resend := true })).group g = ownTested now level gr := by
      rw [group_raise, group_modGroup_self _ _ _ l, h]
      simp [ownTested, settled, far, m]
    rw [mismatchTest_raises g s level applied tested (level' ▸ far) (mismatch.trans m),
      group_requestCore_working _ _ _ (by rw [raised]; exact e) (by rw [raised]; exact nofun), raised]
  · rw [mismatchTest_keeps g s level applied (.inr (by rw [level', mismatch, m]; exact iff_of_true far rfl)), h]
    simp [ownTested, settled, far, m]
  · rw [mismatchTest_keeps g s level applied (.inr (by rw [level', mismatch, m]; exact iff_of_false far nofun)), h]
    simp [ownTested, settled, far, m]
  · rw [mismatchTest_clears g s level applied tested (level' ▸ far) (mismatch.trans m), group_clear,
      group_modGroup_self _ _ _ l, h]
    simp [ownTested, settled, far]

theorem group_ownEcho_heard (g n : Nat) (before after : List EchoEntry) (x : EchoEntry) (s : State) (l : g < 48)
    (e : (s.group g).enable = true) (p : (s.group g).phase = .sent) (c : x.channel = (s.group g).channel)
    (h : ∀ y ∈ after, y.channel ≠ (s.group g).channel) :
    (ownEcho g (some n) (before ++ x :: after) s).group g = ownTested s.now x.level (s.group g) := by
  have own : (ownEchoGroup g (before ++ x :: after) s).group g = ownTested s.now x.level (s.group g) := by
    rw [ownEchoGroup_heard g before after x s l e p c h]
    exact group_mismatchTest_settled g s.now x.level _ _ l e ((group_heard g g _ s l).trans (if_pos rfl))
  exact (group_foldl_pollEchoEntry_except n g _ _ (by rw [own]; exact e) (by rw [own]; exact nofun)).trans own

/-- R114: the group as an expiry leaves it. -/
def expired (gr : Group) : Group := { gr with phase := .idle, resend := true, misses := min 255 (gr.misses + 1) }

theorem group_commandExpiry (g : Nat) (s : State) (l : g < 48) (e : (s.group g).enable = true)
    (p : (s.group g).phase = .sent) (quiet : (s.zone (s.group g).zone).evalPending = false) :
    (commandExpiry g s).group g = expired (s.group g) := by
  have judged : Reported (s.modGroup g fun _ => expired (s.group g))
      (changeJudged g (fun gr => { gr with phase := .idle, resend := true, misses := satAdd 255 gr.misses 1 }) s) := by
    rw [changeJudged_eq g _ s l rfl]
    exact reported_follow ..
  rw [commandExpiry, if_pos ((stillSent_iff s g).mpr ⟨e, p⟩), rejudgeZone_quiet]
  · rw [judged.group, group_modGroup_self _ _ _ l]
  · exact .inl ((congrArg Zone.evalPending (judged.zone _)).trans quiet)

theorem foldl_pollEchoEntry_unnamed (n : Nat) (x : Option Nat) (entries : List EchoEntry) (s : State)
    (h : ∀ y ∈ entries, groupOnChannel s n y.channel = none) : entries.foldl (pollEchoEntry n x) s = s := by
  induction entries with
  | nil => rfl
  | cons y entries ih =>
      rw [List.foldl_cons, pollEchoEntry_none n x s y (h y (List.mem_cons_self ..))]
      exact ih fun z hz => h z (List.mem_cons_of_mem _ hz)

theorem groupOnChannel_none (s : State) (n ch : Nat)
    (h : ∀ g < 48, (s.group g).enable = true → (s.group g).node = n → (s.group g).channel ≠ ch) :
    groupOnChannel s n ch = none := by
  cases on : groupOnChannel s n ch with
  | none => rfl
  | some g =>
      obtain ⟨l, ⟨e, node, channel⟩, -⟩ := (groupOnChannel_iff s n ch g).mp on
      exact absurd channel (h g l e node)

/-- R38: an ECHO that names none of the node's channels counts as an expiry. -/
theorem ownEcho_unnamed (g n : Nat) (entries : List EchoEntry) (s : State) (e : (s.group g).enable = true)
    (p : (s.group g).phase = .sent) (own : ∀ x ∈ entries, x.channel ≠ (s.group g).channel)
    (h : ∀ x ∈ entries, ∀ h < 48, (s.group h).enable = true → (s.group h).node = n → (s.group h).channel ≠ x.channel) :
    ownEcho g (some n) entries s = commandExpiry g s := by
  show entries.foldl (pollEchoEntry n (some g)) (ownEchoGroup g entries s) = _
  rw [ownEchoGroup_expires g entries s e p own]
  refine foldl_pollEchoEntry_unnamed n _ entries _ fun x m => ?_
  exact (groupOnChannel_congr (evaluated_commandExpiry g s).group n x.channel).trans
    (groupOnChannel_none s n x.channel (h x m))

/-! ### The ECHO that answers a forwarded LEVEL (R117) -/

theorem group_foldl_forwardedEchoGroup (level g : Nat) (l : List Nat) (s : State) (nodup : l.Nodup)
    (lt : ∀ h ∈ l, h < 48) : (l.foldl (forwardedEchoGroup level) s).group g =
      if g ∈ l then relieved level (s.group g) else s.group g := by
  induction l generalizing s with
  | nil => simp
  | cons h l ih =>
      obtain ⟨out, nodup⟩ := List.nodup_cons.mp nodup
      rw [List.foldl_cons, ih _ nodup fun k m => lt k (List.mem_cons_of_mem _ m),
        group_forwardedEchoGroup level h g s (lt h (List.mem_cons_self ..))]
      by_cases e : g = h
      · subst e
        simp [out]
      · simp [e]

/-- The groups a forwarded LEVEL's ECHO names, entry by entry: each is relieved by its own entries in their order. -/
theorem group_forwardedEcho (node : Option Nat) (src : Byte) (entries : List EchoEntry) (s : State) (g : Nat) :
    (forwardedEcho node src entries s).group g =
      (entries.filter fun x => g ∈ echoGroups s node src x.channel).foldl
        (fun gr x => relieved x.level gr) (s.group g) := by
  unfold forwardedEcho
  induction entries generalizing s with
  | nil => rfl
  | cons x entries ih =>
      have once : Evaluated s (forwardedEchoEntry node src s x) := evaluated_forwardedEcho node src [x] s
      have names (ch : Nat) : echoGroups (forwardedEchoEntry node src s x) node src ch = echoGroups s node src ch :=
        echoGroups_congr once.group (fun i => congrArg Node.address (once.node i)) node src ch
      rw [List.foldl_cons, ih]
      simp only [names]
      rw [show (forwardedEchoEntry node src s x).group g = _ from group_foldl_forwardedEchoGroup x.level g _ s
        (echoGroups_nodup s node src x.channel) (echoGroups_lt s node src x.channel)]
      by_cases m : g ∈ echoGroups s node src x.channel
      · simp [m]
      · simp [m]

/-- R117: the group once the entries of an ECHO, the last of them at `level`, have been taken. -/
def relievedBy (entries : List EchoEntry) (level : Nat) (gr : Group) : Group :=
  { gr with
    applied := some level, misses := 0
    mismatch := if ∀ x ∈ entries, farApart x.level gr.level then gr.mismatch else false }

theorem foldl_relieved (entries : List EchoEntry) (x : EchoEntry) (gr : Group) :
    (entries ++ [x]).foldl (fun gr x => relieved x.level gr) gr = relievedBy (entries ++ [x]) x.level gr := by
  induction entries generalizing gr with
  | nil => simp [relieved, relievedBy]
  | cons y entries ih =>
      rw [List.cons_append, List.foldl_cons, ih]
      unfold relievedBy relieved
      by_cases far : farApart y.level gr.level
      · simp only [far, if_true, List.forall_mem_cons, true_and]
      · simp only [far, if_false, List.forall_mem_cons, false_and, ite_self]

theorem foldl_relieved_last (entries : List EchoEntry) (x : EchoEntry) (gr : Group) (h : entries.getLast? = some x) :
    entries.foldl (fun gr x => relieved x.level gr) gr = relievedBy entries x.level gr := by
  obtain ⟨before, rfl⟩ := List.getLast?_eq_some_iff.mp h
  exact foldl_relieved before x gr

/-! ### The ECHO that answers a POLL (R116) -/

theorem heardOf_pollEchoEntry (n g : Nat) (s : State) (x : EchoEntry) :
    (groupOnChannel s n x.channel = some g →
      ((pollEchoEntry n none s x).group g).applied = some x.level ∧ ((pollEchoEntry n none s x).group g).misses = 0) ∧
    (groupOnChannel s n x.channel ≠ some g → heardOf ((pollEchoEntry n none s x).group g) = heardOf (s.group g)) := by
  cases on : groupOnChannel s n x.channel with
  | none =>
      rw [pollEchoEntry_none n none s x on]
      exact ⟨nofun, fun _ => rfl⟩
  | some h =>
      have l := ((groupOnChannel_iff s n x.channel h).mp on).1
      obtain ⟨level, misses, other⟩ := heardOf_mismatchTest g h (takeApplied h x.level s)
      have record := group_heard h g (applied x.level (s.group h)) s l
      rw [pollEchoEntry_some n h s x on]
      rw [takeApplied_eq h x.level s l] at level misses other ⊢
      refine ⟨fun e => ?_, fun ne => ?_⟩
      · obtain rfl : h = g := Option.some.inj e
        rw [level, misses, record, if_pos rfl]
        exact ⟨rfl, rfl⟩
      · have out : h ≠ g := fun e => ne (congrArg some e)
        rw [other out, record, if_neg (Ne.symm out)]

theorem heardOf_pollEcho_unnamed (n g : Nat) (entries : List EchoEntry) (s : State)
    (h : ∀ x ∈ entries, groupOnChannel s n x.channel ≠ some g) :
    heardOf ((pollEcho n entries s).group g) = heardOf (s.group g) := by
  unfold pollEcho
  induction entries generalizing s with
  | nil => rfl
  | cons x entries ih =>
      have names (ch : Nat) : groupOnChannel (pollEchoEntry n none s x) n ch = groupOnChannel s n ch :=
        groupOnChannel_congr (evaluated_pollEchoEntry n none s x).group n ch
      refine (ih _ fun y m => ?_).trans ((heardOf_pollEchoEntry n g s x).2 (h x (List.mem_cons_self ..)))
      rw [names]
      exact h y (List.mem_cons_of_mem _ m)

/-- R116: the last entry for a group is the one that stands. -/
theorem heardOf_pollEcho_last (n g : Nat) (entries : List EchoEntry) (x : EchoEntry) (s : State)
    (h : (entries.filter fun x => groupOnChannel s n x.channel = some g).getLast? = some x) :
    ((pollEcho n entries s).group g).applied = some x.level ∧ ((pollEcho n entries s).group g).misses = 0 := by
  induction entries generalizing s with
  | nil => simp at h
  | cons y entries ih =>
      have names (ch : Nat) : groupOnChannel (pollEchoEntry n none s y) n ch = groupOnChannel s n ch :=
        groupOnChannel_congr (evaluated_pollEchoEntry n none s y).group n ch
      by_cases later : entries.filter (fun x => groupOnChannel s n x.channel = some g) = []
      · have unnamed : ∀ z ∈ entries, groupOnChannel s n z.channel ≠ some g := by simpa using later
        rw [List.filter_cons, later] at h
        have here : groupOnChannel s n y.channel = some g ∧ y = x := by
          split at h
          · rename_i on
            exact ⟨by simpa using on, by simpa using h⟩
          · simp at h
        obtain ⟨on, rfl⟩ := here
        obtain ⟨level, misses⟩ := (heardOf_pollEchoEntry n g s y).1 on
        have rest := heardOf_pollEcho_unnamed n g entries (pollEchoEntry n none s y) fun z m => by
          rw [names]; exact unnamed z m
        exact ⟨(congrArg Prod.fst rest).trans level, (congrArg (fun p => p.2.1) rest).trans misses⟩
      · refine ih (pollEchoEntry n none s y) ?_
        simp only [names]
        rw [List.filter_cons] at h
        split at h
        · rwa [List.getLast?_cons_of_ne_nil later] at h
        · exact h

end Sys2Proof.Machine
end

section
/-! PROOF. Replies reach their node, their groups or the plant side (O20). -/

namespace Sys2Proof.Machine

/-! ### What a success leaves for the use of an ECHO -/

/-- The state in which a reply is used: it has been judged, and has been a success. -/
def credited (tr : Transaction) (f : Frame) (u : State) : State :=
  handSuccess tr (judgeReply f u).2 (judgeReply f u).1

theorem lights_credited (tr : Transaction) (f : Frame) (u : State) (k : f.kind ≠ kindTag) :
    (credited tr f u).groups = u.groups ∧ (credited tr f u).zones = u.zones := by
  obtain ⟨groups, zones⟩ := lights_judgeReply f u k
  obtain ⟨nds, pl, e, -⟩ := frame_handSuccess tr (judgeReply f u).2 (judgeReply f u).1
  rw [credited, e]
  exact ⟨groups, zones⟩

theorem now_credited (tr : Transaction) (f : Frame) (u : State) (free : u.line ≠ .free) :
    (credited tr f u).now = u.now := by
  obtain ⟨nds, pl, e, -⟩ := frame_handSuccess tr (judgeReply f u).2 (judgeReply f u).1
  rw [credited, e]
  exact (congrArg State.now (replied_judgeReply f u free) :)

theorem address_credited (tr : Transaction) (f : Frame) (u : State) (k : Nat) :
    ((credited tr f u).node k).address = (u.node k).address := by
  refine (address_handSuccess tr _ _ k).trans ?_
  rw [judgeReply_state]
  split
  · rename_i n src
    obtain ⟨taken, others⟩ := node_takeFrame n f u ((nodeOfSrc_iff u f.src n).mp src).1.1
    by_cases e : k = n
    · rw [e]
      exact taken.address
    · rw [others k e]
  · rfl

theorem settings_credited (tr : Transaction) (f : Frame) (u : State) (k : f.kind ≠ kindTag) (i : Nat) :
    groupSettings ((credited tr f u).group i) = groupSettings (u.group i) :=
  congrArg groupSettings (group_congr (lights_credited tr f u k).1 i)

theorem group_forwardReply (f : Frame) (j : Judgement) (s : State) (g : Nat) :
    (forwardReply f j s).group g = s.group g :=
  group_congr (tables_forwardReply f j s).2 g

/-! ### The ECHO of each transaction -/

section echo

variable (tr : Transaction) (f : Frame) (u : State) (echo : f.kind = kindEcho)
include echo

theorem kind_ne_tag : f.kind ≠ kindTag := by
  rw [echo]
  decide

section command

variable (g n : Nat) (h : tr.kind = .command g n) (src : nodeOfSrc u f.src = some n) (l : g < 48)
  (e : (u.group g).enable = true) (p : (u.group g).phase = .sent)
include h src l e p

theorem command_heard (free : u.line ≠ .free)
    (usable : (u.node n).state ≠ .displaced ∧ ¬((u.node n).state = .online ∧ f.seq = (u.node n).lastSeq))
    (before after : List EchoEntry) (x : EchoEntry) (entries : echoEntries f = before ++ x :: after)
    (c : x.channel = (u.group g).channel) (last : ∀ y ∈ after, y.channel ≠ (u.group g).channel) :
    (replyUsed tr f u).group g = ownTested u.now x.level (u.group g) := by
  have k := kind_ne_tag f echo
  have same : (credited tr f u).group g = u.group g := group_congr (lights_credited tr f u k).1 g
  show (useReply tr f (judgeReply f u).2 (credited tr f u)).group g = _
  rw [useReply_command tr f _ _ g n h, if_pos ((echoUsable_known f u n src k).mpr usable), entries,
    (judgeReply_node f u).trans src, group_ownEcho_heard g n before after x _ l (by rwa [same]) (by rwa [same])
      (by rwa [same]) (by rwa [same]), same, now_credited tr f u free]

theorem command_expires (quiet : (u.zone (u.group g).zone).evalPending = false)
    (unheard : ¬((u.node n).state ≠ .displaced ∧ ¬((u.node n).state = .online ∧ f.seq = (u.node n).lastSeq)) ∨
      ∀ x ∈ echoEntries f, x.channel ≠ (u.group g).channel ∧
        ∀ h < 48, (u.group h).enable = true → (u.group h).node = n → (u.group h).channel ≠ x.channel) :
    (replyUsed tr f u).group g = expired (u.group g) := by
  have k := kind_ne_tag f echo
  have group (i : Nat) : (credited tr f u).group i = u.group i := group_congr (lights_credited tr f u k).1 i
  have zone (i : Nat) : (credited tr f u).zone i = u.zone i := zone_congr (lights_credited tr f u k).2 i
  have expiry : (commandExpiry g (credited tr f u)).group g = expired (u.group g) := by
    rw [group_commandExpiry g _ l (by rwa [group]) (by rwa [group]) (by rwa [group, zone]), group]
  show (useReply tr f (judgeReply f u).2 (credited tr f u)).group g = _
  rw [useReply_command tr f _ _ g n h]
  split
  · rename_i use
    have named := unheard.resolve_left fun no => no ((echoUsable_known f u n src k).mp use)
    rw [(judgeReply_node f u).trans src, ownEcho_unnamed g n _ _ (by rwa [group]) (by rwa [group]), expiry]
    · exact fun x m => by rw [group]; exact (named x m).1
    · exact fun x m i => by rw [group]; exact (named x m).2 i
  · exact expiry

end command

section forward

variable (h : tr.kind = .forward) (level : tr.frame.kind = kindLevel)
  (usable : ∀ n, nodeOfSrc u f.src = some n →
    (u.node n).state ≠ .displaced ∧ ¬((u.node n).state = .online ∧ f.seq = (u.node n).lastSeq))
include h level usable

theorem forward_uses : useReply tr f (judgeReply f u).2 (credited tr f u) =
    forwardedEcho (judgeReply f u).2.node f.src (echoEntries f) (credited tr f u) := by
  have use : echoUsable (judgeReply f u).2 = true := by
    cases src : nodeOfSrc u f.src with
    | none => exact (echoUsable_iff _).mpr (judgement_unknown f u ((judgeReply_node f u).trans src))
    | some n => exact (echoUsable_known f u n src (kind_ne_tag f echo)).mpr (usable n src)
  rw [useReply_forward tr f _ _ h echo, if_pos ⟨level, use⟩]

theorem forward_heard (g : Nat) : (replyUsed tr f u).group g =
    ((echoEntries f).filter fun x => g ∈ echoGroups u (nodeOfSrc u f.src) f.src x.channel).foldl
      (fun gr x => relieved x.level gr) (u.group g) := by
  have k := kind_ne_tag f echo
  have names (ch : Nat) : echoGroups (credited tr f u) (nodeOfSrc u f.src) f.src ch =
      echoGroups u (nodeOfSrc u f.src) f.src ch :=
    echoGroups_congr (settings_credited tr f u k) (address_credited tr f u) _ _ ch
  show (useReply tr f (judgeReply f u).2 (credited tr f u)).group g = _
  rw [forward_uses tr f u echo h level usable, group_forwardedEcho, judgeReply_node]
  simp only [names]
  rw [group_congr (lights_credited tr f u k).1 g]

end forward

section poll

variable (n m : Nat) (h : tr.kind = .poll n) (src : nodeOfSrc u f.src = some m)
include h src

theorem poll_ignores
    (no : ¬((u.node m).state ≠ .displaced ∧ ¬((u.node m).state = .online ∧ f.seq = (u.node m).lastSeq))) :
    useReply tr f (judgeReply f u).2 (credited tr f u) = credited tr f u := by
  rw [useReply_poll tr f _ _ n m h echo ((judgeReply_node f u).trans src), if_neg]
  exact fun use => no ((echoUsable_known f u m src (kind_ne_tag f echo)).mp use)

theorem poll_uses
    (usable : (u.node m).state ≠ .displaced ∧ ¬((u.node m).state = .online ∧ f.seq = (u.node m).lastSeq)) :
    useReply tr f (judgeReply f u).2 (credited tr f u) = pollEcho m (echoEntries f) (credited tr f u) := by
  rw [useReply_poll tr f _ _ n m h echo ((judgeReply_node f u).trans src),
    if_pos ((echoUsable_known f u m src (kind_ne_tag f echo)).mpr usable)]

theorem poll_heard
    (usable : (u.node m).state ≠ .displaced ∧ ¬((u.node m).state = .online ∧ f.seq = (u.node m).lastSeq)) (g : Nat) :
    let mine := (echoEntries f).filter fun x => groupOnChannel u m x.channel = some g
    let t := replyUsed tr f u
    (mine = [] → heardOf (t.group g) = heardOf (u.group g)) ∧
      ∀ x, mine.getLast? = some x → (t.group g).applied = some x.level ∧ (t.group g).misses = 0 := by
  have k := kind_ne_tag f echo
  have names (ch : Nat) : groupOnChannel (credited tr f u) m ch = groupOnChannel u m ch :=
    groupOnChannel_congr (settings_credited tr f u k) m ch
  intro mine t
  have used : t = pollEcho m (echoEntries f) (credited tr f u) := poll_uses tr f u echo n m h src usable
  rw [used]
  refine ⟨fun none' => ?_, fun x last => ?_⟩
  · rw [heardOf_pollEcho_unnamed m g, group_congr (lights_credited tr f u k).1 g]
    intro x hx
    rw [names]
    simpa using List.filter_eq_nil_iff.mp none' x hx
  · refine heardOf_pollEcho_last m g _ x _ ?_
    simp only [names]
    exact last

end poll

end echo

/-! ### A reply that no node of the part's has sent -/

theorem unknown_forwarded (tr : Transaction) (f : Frame) (u : State) (h : tr.kind = .forward)
    (src : nodeOfSrc u f.src = none) (no : ¬(f.kind = kindEcho ∧ tr.frame.kind = kindLevel)) :
    forwardReply f (judgeReply f u).2 (replyUsed tr f u) = if f.dest = ownOctet u then u else offerG2p f u := by
  have judged := judgeReply_none f u src
  have unused : replyUsed tr f u = u := by
    rw [replyUsed, judged, handSuccess_forward tr _ _ h]
    by_cases echo : f.kind = kindEcho
    · exact useReply_unknown tr f _ u (by simp [h]) echo (fun _ level => no ⟨echo, level⟩) rfl
    · rw [useReply_noEcho tr f _ _ (by simp [h]) echo]
      rfl
  rw [unused, judged]
  split
  · rename_i own
    exact forwardReply_own f _ u own
  · rename_i own
    refine forwardReply_offered f _ u own rfl rfl ?_
    rintro ⟨-, -, n, node, -⟩
    exact nomatch node

end Sys2Proof.Machine
end

section
/-! PROOF. O20, part by part: the success and the use of a reply, the entries of an ECHO, the frame that waits, and the
window that a reply answers. -/

namespace Sys2Proof.Machine

/-! ### The MISMATCH test of a group that has just been heard (R116) -/

theorem mismatchTest_heard (g level : Nat) (x : Group) (s : State) (l : g < 48) (applied : x.applied = some level) :
    ((x.phase = .idle ∨ ∃ e, x.phase = .settling e) → farApart level x.level → x.mismatch = false →
      mismatchTest g (heard g x s) = requestCore x.zone (raise .levelMismatch g x.zone
        ((heard g x s).modGroup g fun r => { r with mismatch := true, resend := true }))) ∧
    ((x.phase = .idle ∨ ∃ e, x.phase = .settling e) → ¬farApart level x.level → x.mismatch = true →
      mismatchTest g (heard g x s) =
        clear .levelMismatch g ((heard g x s).modGroup g fun r => { r with mismatch := false })) ∧
    (¬(x.phase = .idle ∨ ∃ e, x.phase = .settling e) ∨ (farApart level x.level ↔ x.mismatch = true) →
      mismatchTest g (heard g x s) = heard g x s) := by
  have record : (heard g x s).group g = x := (group_heard g g x s l).trans (if_pos rfl)
  have raises := mismatchTest_raises g (heard g x s) level (by rw [record, applied])
  have clears := mismatchTest_clears g (heard g x s) level (by rw [record, applied])
  have keeps := mismatchTest_keeps g (heard g x s) level (by rw [record, applied])
  rw [record] at raises clears keeps
  exact ⟨raises, clears, keeps⟩

theorem modGroup_heard (g : Nat) (x : Group) (f : Group → Group) (s : State) (l : g < 48) :
    (heard g x s).modGroup g f = (heard g x s).modGroup g fun _ => f x := by
  have record : (heard g x s).group g = x := (group_heard g g x s l).trans (if_pos rfl)
  rw [modGroup_at, record]

/-- R116: an entry of the ECHO that answers a POLL, for a group of the node. -/
theorem pollEchoEntry_heard (n g : Nat) (x : EchoEntry) (s : State) (on : groupOnChannel s n x.channel = some g) :
    pollEchoEntry n none s x = mismatchTest g (heard g (applied x.level (s.group g)) s) := by
  rw [pollEchoEntry_some n g s x on, takeApplied_eq g x.level s ((groupOnChannel_iff s n x.channel g).mp on).1]

/-! ### The success and the use of a reply -/

theorem useSample_eq (f : Frame) (j : Judgement) (s : State) : useSample f j s = match j.node with
    | some n => if f.kind = kindSample ∧ j.readingsUsed = true then applySample n f.payload s else s
    | none => s := by
  cases h : j.node <;> simp only [useSample, h]

/-! ### A frame that waits in the handed list (R34, R35) -/

theorem exec_unnoted (f : Frame) (s : State) (good : frameGood .gallery (ownOctet s) f = true)
    (waits : .galleryFrame f ∈ s.handed) (h : ∀ tr e, s.line = .busy tr → tr.phase = .window e → f ∉ tr.answers) :
    exec (.galleryFrame f) s = .next (count .galleryStrays (taken (.galleryFrame f) s)) := by
  have waited : s.handed.contains (.galleryFrame f) = true := by simpa using waits
  rw [exec_galleryFrame f s good, waited]
  exact congrArg Host.Outcome.next (galleryFrame_unnoted f (taken (.galleryFrame f) s) h)

theorem exec_deaf (f : Frame) (s : State) (good : frameGood .gallery (ownOctet s) f = true)
    (fresh : .galleryFrame f ∉ s.handed) (h : s.line = .off ∨ ∃ tr e, s.line = .busy tr ∧ tr.phase = .sending e) :
    exec (.galleryFrame f) s = .next (taken (.galleryFrame f) s) := by
  have waited : s.handed.contains (.galleryFrame f) = false := by simpa using fresh
  rw [exec_galleryFrame f s good, waited]
  exact congrArg Host.Outcome.next (galleryFrame_deaf f (taken (.galleryFrame f) s) h)

/-- Settles O20: a reply is judged for its node, is a success or a miss, is used for the points or the groups, and
passes to the plant side, each by the rule of its step. -/
theorem repliesReachNodeOrPlant : Obligations.RepliesReachNodeOrPlant := by
  unfold Obligations.RepliesReachNodeOrPlant
  refine ⟨fun tr f j s => ?_, fun g entries s => ?_, fun g node entries s => ?_,
    fun n g s x => pollEchoEntry_except n g s x, fun f s => ?_, fun f s good => ?_, fun n ch src s => ?_,
    fun n g x s => ?_, fun f s tr e good hl hp ha waits => ?_⟩
  case refine_1 =>
    refine ⟨nodeOfSrc_iff s f.src, (judgeReply_state f s).trans ?_, readingsUsed_iff f s, fun n h => ?_,
      fun g n h => handSuccess_command tr j s g n h, fun h => (handSuccess_forward tr j s h).trans ?_,
      fun c => ⟨fun k => ?_, useReply_unknown tr f j s c, fun k h level => ?_⟩⟩
    · cases nodeOfSrc s f.src <;> rfl
    · rw [handSuccess_poll tr j s n h]
      exact polledAgain_nodeSuccess n s
    · cases j.node <;> rfl
    · refine ((useReply_noEcho tr f j s c k).trans (useSample_eq f j s)).trans ?_
      cases j.node <;> rfl
    · exact (useReply_forward tr f j s h k).trans (if_neg fun b => level b.1)
  case refine_2 =>
    refine ⟨ownEchoGroup_kept g entries s, fun l e p => ⟨ownEchoGroup_expires g entries s e p, ?_⟩⟩
    rintro before x after rfl c last
    obtain ⟨raises, clears, keeps⟩ := mismatchTest_heard g x.level (settled s.now x.level (s.group g)) s l rfl
    have run := ownEchoGroup_heard g before after x s l e p c last
    rw [modGroup_heard g _ _ s l] at raises clears
    have tested : (settled s.now x.level (s.group g)).phase = .idle ∨
      ∃ e, (settled s.now x.level (s.group g)).phase = .settling e := .inr ⟨_, rfl⟩
    exact ⟨fun far m => run.trans (raises tested far m), fun near m => run.trans (clears tested near m),
      fun same => run.trans (keeps (.inr same))⟩
  case refine_3 => cases node <;> rfl
  case refine_4 => exact ⟨rfl, noteAnswer_window f s, noteAnswer_kept f s⟩
  case refine_5 => exact ⟨exec_unnoted f s good, exec_deaf f s good⟩
  case refine_6 => exact ⟨groupOnChannel_iff s n ch, rfl, mem_groupsReached_iff s src ch⟩
  case refine_7 =>
    refine ⟨pollEchoEntry_none n none s x, fun on => ?_, forwardedEchoGroup_eq x.level g s⟩
    have l := ((groupOnChannel_iff s n x.channel g).mp on).1
    obtain ⟨raises, clears, keeps⟩ := mismatchTest_heard g x.level (applied x.level (s.group g)) s l rfl
    have run := pollEchoEntry_heard n g x s on
    exact ⟨fun t far m => run.trans (raises t far m), fun t near m => run.trans (clears t near m),
      fun same => run.trans (keeps same)⟩
  case refine_8 =>
    have free : (windowClosed f s).line ≠ .free := nofun
    have accepted := exec_accepted f s tr e good hl hp ha waits
    have only {k : Byte} (a : tr.accepts = some k) (b : f.kind = k) : ∀ k, tr.accepts = some k → f.kind = k :=
      fun k' a' => b.trans (Option.some.inj (a.symm.trans a'))
    have any (a : tr.accepts = none) : ∀ k, tr.accepts = some k → f.kind = k :=
      fun k a' => nomatch a.symm.trans a'
    refine ⟨fun n own acc l src known => ?_, fun k acc other => ?_, fun g n h acc echo src l en p => ⟨?_, ?_⟩,
      fun g n h => ?_, fun h acc src no => ?_, fun h acc level echo usable => ⟨?_, ?_⟩,
      fun n m h acc echo src => ⟨fun no => ⟨?_, ?_⟩, fun usable => ⟨?_, ?_⟩⟩, fun acc => ⟨⟨?_, ?_⟩, ?_, ?_⟩⟩
    · exact ⟨_, accepted (only acc rfl), reply_succeeds tr f _ n free own src known⟩
    · have run := exec_otherKind f s tr e good hl hp ha waits k acc other
      refine ⟨run.trans (congrArg Host.Outcome.next ?_), fun n own l en => ⟨_, run, miss_frame tr _ n own en⟩⟩
      exact (replyWindowExpiry_window (taken (.galleryFrame f) s) tr e hl hp).symm
    · intro before x after use entries c last
      exact ⟨_, accepted (only acc echo), (group_forwardReply f _ _ g).trans
        (command_heard tr f (windowClosed f s) echo g n h src l en p free use before after x entries c last)⟩
    · intro unheard quiet
      exact ⟨_, accepted (only acc echo), (group_forwardReply f _ _ g).trans
        (command_expires tr f (windowClosed f s) echo g n h src l en p quiet unheard)⟩
    · exact (useReply_command tr f _ _ g n h).trans (if_congr (echoUsable_iff _) rfl rfl)
    · exact (accepted (any acc)).trans
        (congrArg Host.Outcome.next (unknown_forwarded tr f (windowClosed f s) h src no))
    · exact forward_uses tr f (windowClosed f s) echo h level usable
    · refine ⟨_, accepted (any acc), fun g _ => ?_⟩
      have heard := (group_forwardReply f (judgeReply f (windowClosed f s)).2 _ g).trans
        (forward_heard tr f (windowClosed f s) echo h level usable g)
      exact ⟨fun none' => heard.trans (congrArg (List.foldl _ _) none'),
        fun x last => heard.trans (foldl_relieved_last _ x _ last)⟩
    · exact poll_ignores tr f (windowClosed f s) echo n m h src no
    · have unused := poll_ignores tr f (windowClosed f s) echo n m h src no
      refine ⟨_, accepted (only acc echo), (tables_forwardReply f _ _).2.trans ?_⟩
      exact (congrArg State.groups unused).trans (lights_credited tr f (windowClosed f s) (kind_ne_tag f echo)).1
    · exact poll_uses tr f (windowClosed f s) echo n m h src usable
    · refine ⟨_, accepted (only acc echo), fun g _ => ?_⟩
      obtain ⟨unnamed, last⟩ := poll_heard tr f (windowClosed f s) echo n m h src usable g
      rw [group_forwardReply]
      refine ⟨fun none' => ?_, last⟩
      have kept := unnamed none'
      exact ⟨congrArg Prod.fst kept, congrArg (fun x => x.2.1) kept, congrArg (fun x => x.2.2) kept⟩
    · exact judgeReply_node f (windowClosed f s)
    · exact judgement_facts f (windowClosed f s)
    · exact judgement_unknown f (windowClosed f s)
    · obtain ⟨own, displaced, held, offered⟩ := reply_passes tr f (windowClosed f s) free
      rw [accepted acc]
      exact ⟨fun o => congrArg Host.Outcome.next (own o), fun o d => congrArg Host.Outcome.next (displaced o d),
        fun o d c => congrArg Host.Outcome.next (held o d c),
        fun o d n c => congrArg Host.Outcome.next (offered o d n c)⟩

end Sys2Proof.Machine
end

section
/-! PROOF. The class that a grant chooses (O14). -/

namespace Sys2Proof.Machine

theorem classReady_command (s : State) : classReady s .command = true ↔ s.galleryOrigin ≠ [] := by
  simp [classReady]

theorem classReady_forward (s : State) : classReady s .forward = true ↔ s.p2g ≠ [] := by
  simp [classReady]

theorem classReady_poll (s : State) :
    classReady s .poll = true ↔ ∃ e rest, s.pollList = e :: rest ∧ e.due ≤ runningMs s := by
  show pollHeadDue s = true ↔ _
  unfold pollHeadDue
  split
  · rename_i empty
    simp [empty]
  · rename_i e rest head
    simp [head]

/-- The three classes, as the cycle meets them from any one of them. -/
theorem class_from (p c : GrantClass) : c = p ∨ c = classAfter p ∨ c = classAfter (classAfter p) := by
  cases p <;> cases c <;> decide

theorem classAfter_classAfter_ne (p : GrantClass) : classAfter (classAfter p) ≠ p := by
  cases p <;> decide

/-- R24: nothing is chosen exactly if every class is empty. -/
theorem chosenClass_none_iff (s : State) : chosenClass s = none ↔ ∀ c, classReady s c ≠ true := by
  simp only [chosenClass, List.find?_eq_none, List.mem_cons, List.not_mem_nil, or_false]
  exact ⟨fun h c => h c (class_from s.pointer c), fun h c _ => h c⟩

/-- R24: the class chosen is the first that is ready, in the cycle from the pointer. -/
theorem chosenClass_some_iff (s : State) (c : GrantClass) : chosenClass s = some c ↔ classReady s c = true ∧
    (c = s.pointer ∨ classReady s s.pointer ≠ true ∧
      (c = classAfter s.pointer ∨ c ≠ s.pointer ∧ classReady s (classAfter s.pointer) ≠ true)) := by
  unfold chosenClass
  by_cases r1 : classReady s s.pointer = true
  · rw [List.find?_cons_of_pos r1, Option.some.injEq]
    exact ⟨fun e => e ▸ ⟨r1, .inl rfl⟩, fun ⟨_, h⟩ => h.elim Eq.symm fun n => absurd r1 n.1⟩
  · rw [List.find?_cons_of_neg r1]
    by_cases r2 : classReady s (classAfter s.pointer) = true
    · rw [List.find?_cons_of_pos r2, Option.some.injEq]
      refine ⟨fun e => e ▸ ⟨r2, .inr ⟨r1, .inl rfl⟩⟩, fun ⟨r, h⟩ => ?_⟩
      rcases h with rfl | ⟨_, rfl | n⟩
      · exact absurd r r1
      · rfl
      · exact absurd r2 n.2
    · rw [List.find?_cons_of_neg r2, List.find?_singleton]
      refine ⟨fun e => ?_, fun ⟨r, _⟩ => ?_⟩
      · split at e
        · rename_i r3
          cases e
          exact ⟨r3, .inr ⟨r1, .inr ⟨classAfter_classAfter_ne _, r2⟩⟩⟩
        · cases e
      · rcases class_from s.pointer c with rfl | rfl | rfl
        · exact absurd r r1
        · exact absurd r r2
        · rw [if_pos r]

/-- Settles O14: the choice is `chosenClass_some_iff`, and a grant that finds nothing to choose changes nothing
(`grant_of_none`). -/
theorem grantFollowsTheCycle : Obligations.GrantFollowsTheCycle := by
  unfold Obligations.GrantFollowsTheCycle
  refine ⟨fun s => ?_, fun c s u makes none' => ?_⟩
  · intro ready
    have is : ∀ c, ready c ↔ classReady s c = true
      | .command => (classReady_command s).symm
      | .forward => (classReady_forward s).symm
      | .poll => (classReady_poll s).symm
    simp only [is]
    refine ⟨(chosenClass_none_iff s).trans ⟨fun h => ⟨h _, h _, h _⟩, fun ⟨h1, h2, h3⟩ c => ?_⟩, chosenClass_some_iff s⟩
    cases c
    · exact h1
    · exact h2
    · exact h3
  · obtain ⟨run, _⟩ := makesGrant_exec makes
    rw [run, grant_of_none u none']

end Sys2Proof.Machine
end

section
/-! PROOF. The grant to FORWARD: the frame as presented, or a void grant (O17). -/

namespace Sys2Proof.Machine

/-- R118 to R121: what a presentation leaves of the schedule and of the Condition Table. -/
theorem presentLevel_frame (f : Frame) (s : State) :
    let w := (presentLevel f s).1
    w.pointer = s.pointer ∧ w.gallerySeq = s.gallerySeq ∧ w.p2g = s.p2g ∧ w.galleryOrigin = s.galleryOrigin ∧
      w.conditions = s.conditions := by
  unfold presentLevel
  split
  · exact ⟨rfl, rfl, rfl, rfl, rfl⟩
  · rename_i p _
    dsimp only
    split
    · split <;> exact ⟨rfl, rfl, rfl, rfl, rfl⟩
    · split
      · exact ⟨rfl, rfl, rfl, rfl, rfl⟩
      · split
        · exact ⟨rfl, rfl, rfl, rfl, rfl⟩
        · let reached := groupsReached s f.dest p.channel
          have caps : ∀ v : State, v.groups = s.groups →
              let w := reached.foldl (capGroup p.level (forwardedLevel s reached p.level)) v
              w.pointer = v.pointer ∧ w.gallerySeq = v.gallerySeq ∧ w.p2g = v.p2g ∧
                w.galleryOrigin = v.galleryOrigin ∧ w.conditions = v.conditions := fun v same => by
            obtain ⟨most, own, -⟩ := forwardedLevel_le s reached p.level
            have e := evaluated_capGroups p.level _ most own reached v
            obtain ⟨-, -, origin, conds, -⟩ := capGroups_frame p.level (forwardedLevel s reached p.level) reached
              (nodup_groupsReached _ _ _) v fun g m => group_congr same g ▸ mem_groupsReached s _ _ g m
            exact ⟨e.pointer, e.gallerySeq, e.p2g, origin, conds⟩
          split
          · exact caps s rfl
          · exact caps (count .clampedCommands s) rfl

/-- R118: a LEVEL that reaches no group is presented as it arrived. -/
theorem presentLevel_unbound (f : Frame) (s : State) (p : LevelPayload) (h : levelOf f.payload = some p)
    (none' : if f.dest = broadcast then channelBound s p.channel = false else groupsReached s f.dest p.channel = []) :
    presentLevel f s = (s, some f) := by
  split at none'
  · rename_i b
    simp [presentLevel, h, b, none']
  · rename_i b
    simp [presentLevel, h, b, none']

theorem presentForward_plain (f : Frame) (s : State) (k : f.kind ≠ kindLevel) :
    presentForward f s = sendForward f s := by rw [presentForward, if_neg k]

theorem presentForward_sent (f x : Frame) (s w : State) (k : f.kind = kindLevel)
    (h : presentLevel f s = (w, some x)) : presentForward f s = sendForward x w := by
  rw [presentForward, if_pos k, h]

theorem presentForward_void (f : Frame) (s w : State) (k : f.kind = kindLevel) (h : presentLevel f s = (w, none)) :
    presentForward f s = w := by rw [presentForward, if_pos k, h]

theorem grantOnce_forward (s : State) (f : Frame) (rest : List Frame) (h : s.p2g = f :: rest) :
    grantOnce .forward s = presentForward f { s with pointer := .poll, p2g := rest } := by
  show grantForward { s with pointer := .poll } = _
  unfold grantForward
  split
  · rename_i n
    exact absurd (h.symm.trans n) (by simp)
  · rename_i f' rest' h'
    cases h.symm.trans h'
    rfl

/-- R29: the line is SENDING the frame, awaiting its destination unless that is broadcast. -/
theorem sendForward_frame (x : Frame) (s : State) : ∃ cs : Vector Counter 17, sendForward x s =
    { s with
      galleryAsm := .hunt, counters := cs
      line := .busy
        { kind := .forward
          frame := x
          awaited := if x.dest = broadcast then none else some x.dest
          accepts := none
          phase := .sending (s.now + (7 + x.payload.length) * charUnits s .gallery)
          answers := [] } } ∧
      ∀ (i : Nat) (h : i < 17), i ≠ 2 → cs[i] = s.counters[i] := by
  obtain ⟨cs, e, same⟩ := abandonForDrive_frame s
  refine ⟨cs, ?_, same⟩
  simp only [sendForward, startSending, e]
  rfl

/-- R29: what stands after a grant to FORWARD that sends, from the state `w` of the frame's presentation. -/
theorem grant_forwards (u w : State) (x : Frame) (free : u.line = .free) (chosen : chosenClass u = some .forward)
    (once : grantOnce .forward u = sendForward x w) (now : w.now = u.now) (device : w.device = u.device) :
    (grant u).line = .busy
      { kind := .forward
        frame := x
        awaited := if x.dest = broadcast then none else some x.dest
        accepts := none
        phase := .sending (u.now + (7 + x.payload.length) * charUnits u .gallery)
        answers := [] } ∧
    (grant u).pointer = w.pointer ∧ (grant u).gallerySeq = w.gallerySeq ∧ (grant u).p2g = w.p2g ∧
    (grant u).galleryOrigin = w.galleryOrigin ∧ (grant u).groups = w.groups ∧ (grant u).zones = w.zones ∧
    (grant u).conditions = w.conditions ∧ (grant u).counters[13] = w.counters[13] := by
  obtain ⟨cs, sent, same⟩ := sendForward_frame x w
  have granted : grant u = sendForward x w := once ▸ grant_of_sent u .forward free chosen
    fun f => absurd ((congrArg State.line (once.trans sent)).symm.trans f) (by simp)
  rw [granted, sent]
  refine ⟨?_, rfl, rfl, rfl, rfl, rfl, rfl, rfl, same 13 (by decide) (by decide)⟩
  rw [now, show charUnits w .gallery = charUnits u .gallery by simp only [charUnits, device]]

/-- Settles O17: the grant is `presentForward` on the head of P2G, which sends (`grant_forwards`) or is void
(`grant_after_void`). -/
theorem forwardGrantSendsFrame : Obligations.ForwardGrantSendsFrame := by
  unfold Obligations.ForwardGrantSendsFrame
  intro c s u makes chosen f rest head sending
  obtain ⟨run, hd, rfl⟩ := makesGrant_exec makes
  let u : State := { s with handed := hd, line := .free }
  let v : State := { u with pointer := .poll, p2g := rest }
  have once : grantOnce .forward u = presentForward f v := grantOnce_forward u f rest head
  have frame : exceptLight (grant u) = exceptLight u := (lit_grant u).frame
  refine ⟨fun unbound => ⟨_, run, ?_⟩, fun k => ⟨fun w x present => ⟨_, run, ?_⟩, fun w present => ?_⟩⟩
  · have sent : presentForward f v = sendForward f v := by
      by_cases k : f.kind = kindLevel
      · obtain ⟨p, payload, none'⟩ := unbound k
        exact presentForward_sent f f v v k (presentLevel_unbound f v p payload none')
      · exact presentForward_plain f v k
    obtain ⟨line, pointer, seq, p2g, origin, groups, zones, conds, -⟩ :=
      grant_forwards u v f rfl chosen (once.trans sent) rfl rfl
    exact ⟨line, pointer, seq, p2g, origin, groups, zones, conds, frame⟩
  · have lit := lit_presentLevel f v
    obtain ⟨pointer', seq', p2g', origin', conds'⟩ := presentLevel_frame f v
    rw [present] at lit pointer' seq' p2g' origin' conds'
    obtain ⟨line, pointer, seq, p2g, origin, groups, zones, conds, clamped⟩ :=
      grant_forwards u w x rfl chosen (once.trans (presentForward_sent f x v w k present)) lit.now lit.device
    exact ⟨line, pointer.trans pointer', seq.trans seq', p2g.trans p2g', origin.trans origin', groups, zones,
      conds.trans conds', clamped, frame⟩
  · have void : grantOnce .forward u = w := once.trans (presentForward_void f v w k present)
    obtain ⟨-, -, p2g, origin, -⟩ := presentLevel_frame f v
    rw [present] at p2g origin
    rw [run, ← void]
    refine congrArg Host.Outcome.next (grant_after_void u .forward rfl chosen ?_)
    rw [void, p2g, origin, show u.p2g = f :: rest from head]
    rfl

end Sys2Proof.Machine
end

section
/-! PROOF. The end of a reply window: the miss of a node and of a group (O18). -/

namespace Sys2Proof.Machine

/-! ### The miss of a node (R48) -/

/-- R48, R56: the node has missed once more, and an ONLINE one at the silence threshold is SILENT, its points LOST. -/
def nodeMissed (n : Nat) (v : State) : State :=
  let nd := v.node n
  let misses := min 255 (nd.misses + 1)
  let silent := { v.modNode n fun _ => { nd with misses := misses, state := .silent, recheckDue := false } with
    points := v.points.map fun p => if p.enable && p.node == n then { p with state := .lost, pending := none } else p }
  if nd.enable = false then v
  else if nd.state = .online ∧ v.device.silenceThreshold ≤ misses then raise .nodeSilent n nd.address silent
  else v.modNode n fun _ => { nd with misses := misses }

/-- R48, R56: an ONLINE node that becomes SILENT takes its points out of use, and is reported. -/
theorem becomeSilent_eq (n : Nat) (s : State) (l : n < 64) (h : (s.node n).state = .online) : becomeSilent n s =
    raise .nodeSilent n (s.node n).address
      { s.modNode n fun _ => { s.node n with state := .silent, recheckDue := false } with
        points := s.points.map fun p =>
          if p.enable && p.node == n then { p with state := .lost, pending := none } else p } := by
  unfold becomeSilent
  dsimp only
  rw [changeNode_leaves n _ s l h (by simp)]
  congr 1
  show ((s.modNode n fun _ => _).node n).address = _
  rw [node_modNode_self _ _ _ l]

theorem nodeMiss_eq (n : Nat) (v : State) : nodeMiss n v = nodeMissed n v := by
  unfold nodeMissed
  dsimp only
  by_cases e : (v.node n).enable = true
  · have l := enabled_node v n e
    let m := v.modNode n fun nd => { nd with misses := satAdd 255 nd.misses 1 }
    have own : m.node n = { v.node n with misses := min 255 ((v.node n).misses + 1) } := node_modNode_self _ _ _ l
    rw [nodeMiss, if_pos e, if_neg (show ¬(v.node n).enable = false by simp [e])]
    show (if (online m n && decide (m.device.silenceThreshold ≤ (m.node n).misses)) = true then becomeSilent n m else m)
      = _
    by_cases c : (v.node n).state = .online ∧ v.device.silenceThreshold ≤ min 255 ((v.node n).misses + 1)
    · rw [if_pos c, if_pos (by simp [online, own, show (m.device) = v.device from rfl, c.1, c.2])]
      rw [becomeSilent_eq n m l (by rw [own]; exact c.1), own]
      have twice : m.modNode n (fun _ => { v.node n with
          misses := min 255 ((v.node n).misses + 1), state := .silent, recheckDue := false }) =
          v.modNode n fun _ => { v.node n with
            misses := min 255 ((v.node n).misses + 1), state := .silent, recheckDue := false } :=
        modNode_twice v n _ _
      rw [twice]
      rfl
    · rw [if_neg c, if_neg]
      · exact modNode_at v n _
      · rw [Bool.and_eq_true, decide_eq_true_eq, online, own, beq_iff_eq]
        exact c
  · rw [nodeMiss, if_neg e, if_pos (by simpa using e)]

/-- R48: what a miss leaves alone, and what it makes of its node. -/
theorem nodeMiss_reported (n : Nat) (v : State) : ∃ (nd : Node) (pts : Vector Point 192),
    Reported { v.modNode n fun _ => nd with points := pts } (nodeMiss n v) ∧
    nd.pollPeriod = (v.node n).pollPeriod ∧
    ((v.node n).enable = true → nd.misses = min 255 ((v.node n).misses + 1) ∧
      nd.state = if (v.node n).state = .online ∧ v.device.silenceThreshold ≤ nd.misses then .silent
        else (v.node n).state) := by
  rw [nodeMiss_eq]
  unfold nodeMissed
  dsimp only
  split
  · rename_i off
    refine ⟨v.node n, v.points, ?_, rfl, fun on => absurd (off.symm.trans on) (by simp)⟩
    rw [modNode_same v n _ rfl]
    exact .refl v
  · split
    · rename_i c
      exact ⟨_, _, reported_raise _ _ _ _, rfl, fun _ => ⟨rfl, (if_pos c).symm⟩⟩
    · rename_i c
      exact ⟨_, v.points, .refl _, rfl, fun _ => ⟨rfl, (if_neg c).symm⟩⟩

/-! ### The miss of a group (R102, R111, R114) -/

/-- R102: the zone of a group that has become IDLE is re-judged: a pending evaluation runs where every other group is at
rest. -/
theorem rejudgeZone_of_idle (s t : State) (g : Nat) (idle : (t.group g).phase = .idle)
    (other : ∀ h, h ≠ g → t.group h = s.group h) (zone : ∀ z, t.zone z = s.zone z) :
    let z := (s.group g).zone
    ((s.zone z).evalPending = false ∨ ¬restOfZoneIdle s g → rejudgeZone z t = t) ∧
    ((s.zone z).evalPending = true → restOfZoneIdle s g →
      rejudgeZone z t = evaluate z (t.modZone z fun zn => { zn with evalPending := false })) := by
  have rest := zoneAtRest_of_idle s t g idle other
  refine ⟨fun q => rejudgeZone_quiet _ t (q.imp (fun p => ?_) fun n => ?_),
    fun p r => rejudgeZone_runs _ t ?_ (rest.mpr r)⟩
  · rw [zone]
    exact p
  · rw [Bool.eq_false_iff]
    exact fun r => n (rest.mp r)
  · rw [zone]
    exact p

/-- R111, R114: what the expiry of a COMMAND leaves, before its zone is re-judged. -/
def expiredState (g : Nat) (s : State) : State :=
  let gr := s.group g
  let idle := s.modGroup g fun _ => expired gr
  if gr.unavailable = false ∧ gr.misses = 2 then raise .actuatorSilent g gr.zone idle else idle

theorem reported_expiredState (g : Nat) (s : State) :
    Reported (s.modGroup g fun _ => expired (s.group g)) (expiredState g s) := by
  unfold expiredState
  dsimp only
  split
  · exact reported_raise ..
  · exact .refl _

theorem group_expiredState (g h : Nat) (s : State) (l : g < 48) :
    (expiredState g s).group h = if h = g then expired (s.group g) else s.group h := by
  rw [(reported_expiredState g s).group, group_modGroup]
  by_cases e : h = g
  · subst e; simp [l]
  · simp [Ne.symm e, e]

theorem commandExpiry_kept (g : Nat) (s : State) (h : (s.group g).enable = false ∨ (s.group g).phase ≠ .sent) :
    commandExpiry g s = s := by
  rw [commandExpiry, if_neg]
  rw [stillSent_iff]
  rintro ⟨e, p⟩
  rcases h with h | h
  · exact absurd (h.symm.trans e) (by simp)
  · exact h p

theorem commandExpiry_sent (g : Nat) (s : State) (e : (s.group g).enable = true) (p : (s.group g).phase = .sent) :
    commandExpiry g s = rejudgeZone (s.group g).zone (expiredState g s) := by
  have changed : changeJudged g
      (fun gr => { gr with phase := .idle, resend := true, misses := satAdd 255 gr.misses 1 }) s =
        expiredState g s := by
    rw [changeJudged_eq g _ s (enabled_group s g e) rfl, follow_eq, expiredState]
    have third : (groupSilent (expired (s.group g)) = true ∧ groupSilent (s.group g) = false) ↔
        (s.group g).unavailable = false ∧ (s.group g).misses = 2 := by
      rw [groupSilent_true, groupSilent_false, expired]
      dsimp only
      constructor
      · rintro ⟨yes | many, no, few⟩
        · exact absurd (yes.symm.trans no) (by simp)
        · exact ⟨no, by omega⟩
      · rintro ⟨no, two⟩
        exact ⟨.inr (by omega), no, by omega⟩
    have kept : ¬(groupSilent (s.group g) = true ∧ groupSilent (expired (s.group g)) = false) := by
      rw [groupSilent_true, groupSilent_false, expired]
      dsimp only
      rintro ⟨yes | many, no, few⟩
      · exact absurd (yes.symm.trans no) (by simp)
      · omega
    exact if_congr third rfl (if_neg kept)
  rw [commandExpiry, if_pos ((stillSent_iff s g).mpr ⟨e, p⟩), changed]

/-- R102, R114: the pending evaluation of the zone waits, or runs, after an expiry. -/
theorem commandExpiry_rejudged (g : Nat) (s : State) (e : (s.group g).enable = true) (p : (s.group g).phase = .sent) :
    let z := (s.group g).zone
    ((s.zone z).evalPending = false ∨ ¬restOfZoneIdle s g → commandExpiry g s = expiredState g s) ∧
    ((s.zone z).evalPending = true → restOfZoneIdle s g → commandExpiry g s =
      evaluate z ((expiredState g s).modZone z fun zn => { zn with evalPending := false })) := by
  have l := enabled_group s g e
  rw [commandExpiry_sent g s e p]
  refine rejudgeZone_of_idle s _ g ?_ (fun h ne => ?_) (reported_expiredState g s).zone
  · rw [group_expiredState g g s l, if_pos rfl, expired]
  · rw [group_expiredState g h s l, if_neg ne]

/-! ### The end of the window (R37) -/

/-- R23: the state at the end of a window, before the miss is counted. -/
def windowEnded (s : State) : State :=
  { taken .replyWindowExpiry s with line := .turnaround (s.now + 2 * charUnits s .gallery) }

theorem exec_replyWindowExpiry (s : State) (tr : Transaction) (e : Nat) (hl : s.line = .busy tr)
    (hp : tr.phase = .window e) : exec .replyWindowExpiry s = .next (missTransaction tr (windowEnded s)) :=
  congrArg Host.Outcome.next (replyWindowExpiry_window (taken .replyWindowExpiry s) tr e hl hp)

theorem missTransaction_poll (tr : Transaction) (n : Nat) (s : State) (h : tr.kind = .poll n) :
    missTransaction tr s = reschedule n (nodeMiss n (count .galleryMisses s)) := by simp only [missTransaction, h]

theorem missTransaction_command (tr : Transaction) (g n : Nat) (s : State) (h : tr.kind = .command g n) :
    missTransaction tr s = nodeMiss n (commandExpiry g (count .galleryMisses s)) := by
  simp only [missTransaction, h]

theorem missTransaction_forward (tr : Transaction) (s : State) (h : tr.kind = .forward) :
    missTransaction tr s = s := by simp only [missTransaction, h]

/-- R32, R48: the miss of a POLL puts its node back into the poll due list. -/
theorem polledAgain_nodeMiss (n : Nat) (s v : State) (list : v.pollList = s.pollList) (now : v.now = s.now)
    (node : v.node n = s.node n) : polledAgain n s (reschedule n (nodeMiss n v)) ∧
      { reschedule n (nodeMiss n v) with pollList := s.pollList } = nodeMiss n v := by
  obtain ⟨nd, pts, r, period, -⟩ := nodeMiss_reported n v
  have same : (nodeMiss n v).pollList = s.pollList := r.pollList.trans list
  refine ⟨polledAgain_reschedule n s _ same (r.now.trans now) ?_, ?_⟩
  · rw [r.node, node_congr (t := { v.modNode n fun _ => nd with points := pts }) (s := v.modNode n fun _ => nd) rfl,
      node_modNode]
    split
    · rw [period, node]
    · rw [node]
  · rw [← same]
    exact reschedule_pollList n _

/-- R36, R48: what the miss of an enabled node leaves, whatever came before it in the same event. -/
theorem nodeMiss_record (n : Nat) (s v : State) (lit : Lit s v) (e : (s.node n).enable = true) :
    let t := nodeMiss n v
    (t.node n).state = (if (s.node n).state = .online ∧ s.device.silenceThreshold ≤ (t.node n).misses then .silent
      else (s.node n).state) ∧
    (∀ k, k ≠ n → t.node k = s.node k) ∧ t.objects = s.objects ∧ t.device = s.device ∧ t.calendar = s.calendar ∧
    t.store = s.store := by
  intro t
  obtain ⟨nd, pts, r, -, record⟩ := nodeMiss_reported n v
  have same := lit.node n
  obtain ⟨-, state⟩ := record (by rw [same]; exact e)
  have node : ∀ k, t.node k = if k = n then nd else s.node k := fun k => by
    rw [r.node, node_congr (t := { v.modNode n fun _ => nd with points := pts }) (s := v.modNode n fun _ => nd) rfl,
      node_modNode]
    by_cases c : k = n
    · subst c; simp [enabled_node s k e]
    · simp [c, Ne.symm c, lit.node k]
  refine ⟨?_, fun k ne => (node k).trans (if_neg ne), r.objects.trans lit.objects, r.device.trans lit.device,
    r.calendar.trans lit.calendar, r.store.trans lit.store⟩
  rw [node n, if_pos rfl, state, same, lit.device]

/-- Settles O18: the miss of the transaction is `nodeMiss_eq` for the node and `commandExpiry_rejudged` for the group,
and a polled node is put back (`polledAgain_nodeMiss`). -/
theorem windowExpiryIsAMiss : Obligations.WindowExpiryIsAMiss := by
  unfold Obligations.WindowExpiryIsAMiss
  refine ⟨fun s tr e hl hp => ?_, fun g s => ?_, fun s tr e hl hp => ?_⟩
  · intro counted missed
    have run := exec_replyWindowExpiry s tr e hl hp
    have polled : ∀ n, polledAgain n s (reschedule n (nodeMiss n counted)) ∧
        { reschedule n (nodeMiss n counted) with pollList := s.pollList } = nodeMiss n counted := fun n =>
      polledAgain_nodeMiss n s counted rfl rfl rfl
    refine ⟨fun n k => ⟨_, run, ?_⟩, fun g n k => ?_⟩
    · rw [missTransaction_poll tr n _ k]
      exact ⟨(polled n).1, (polled n).2.trans (nodeMiss_eq n counted)⟩
    · rw [run, missTransaction_command tr g n _ k]
      exact congrArg Host.Outcome.next (nodeMiss_eq n _)
  · intro gr idle judged atRest
    exact ⟨commandExpiry_kept g s, fun _ on p => commandExpiry_rejudged g s on p⟩
  · have run := exec_replyWindowExpiry s tr e hl hp
    let counted := count .galleryMisses (windowEnded s)
    refine ⟨fun k => ?_, fun n own l on => ⟨_, run, ?_⟩, fun g n k l on p quiet => ⟨_, run, ?_⟩,
      fun n k => ⟨_, run, ?_⟩⟩
    · rw [run, missTransaction_forward tr _ k]
      rfl
    · obtain ⟨line, counter, misses⟩ := miss_frame tr (windowEnded s) n own on
      refine ⟨line, counter, misses, ?_⟩
      rcases own with k | ⟨g, k⟩
      · obtain ⟨pl, put⟩ := frame_reschedule n (nodeMiss n counted)
        rw [missTransaction_poll tr n _ k, put]
        exact nodeMiss_record n counted _ (.refl counted) on
      · rw [missTransaction_command tr g n _ k]
        exact nodeMiss_record n counted _ (evaluated_commandExpiry g counted).lit on
    · have expiry : commandExpiry g counted =
          expiredState g counted :=
        (commandExpiry_rejudged g counted on p).1 (.inl quiet)
      obtain ⟨nd, pts, r, -, -⟩ := nodeMiss_reported n (expiredState g counted)
      have group : ∀ h, (nodeMiss n (expiredState g counted)).group h =
          if h = g then expired (s.group g) else s.group h := fun h =>
        (r.group h).trans (group_expiredState g h counted l)
      rw [missTransaction_command tr g n _ k, expiry]
      exact ⟨(group g).trans (if_pos rfl), fun h ne => (group h).trans (if_neg ne),
        r.pollList.trans (reported_expiredState g counted).pollList⟩
    · rw [missTransaction_poll tr n _ k]
      exact (polledAgain_nodeMiss n s counted rfl rfl rfl).1

end Sys2Proof.Machine
end

section
/-! PROOF. The end of settling (O32). -/

namespace Sys2Proof.Machine

theorem settling_iff (g : Group) : settling g = true ↔ ∃ e, g.phase = .settling e := by
  unfold settling
  cases g.phase <;> simp

/-- R115: the group that has settled is IDLE. -/
def settledIdle (g : Nat) (s : State) : State := s.modGroup g fun gr => { gr with phase := .idle }

/-- R102, R115: the zone of a group that has settled is re-judged, and the grant follows (R25). -/
theorem settleExpiry_settling (g e : Nat) (s : State) (l : g < 48) (p : (s.group g).phase = .settling e) :
    let z := (s.group g).zone
    ((s.zone z).evalPending = true → restOfZoneIdle s g → settleExpiry g s =
      grantJoined (evaluate z ((settledIdle g s).modZone z fun zn => { zn with evalPending := false }))) ∧
    ((s.zone z).evalPending = false ∨ ¬restOfZoneIdle s g → settleExpiry g s = grantJoined (settledIdle g s)) := by
  obtain ⟨waits, runs⟩ := rejudgeZone_of_idle s (settledIdle g s) g
    (congrArg Group.phase (group_modGroup_self s g (fun gr => { gr with phase := .idle }) l))
    (fun h ne => group_modGroup_other s g h _ (Ne.symm ne)) fun _ => rfl
  have run : settleExpiry g s = grantJoined (rejudgeZone (s.group g).zone (settledIdle g s)) := by
    rw [settleExpiry, if_pos ((settling_iff _).mpr ⟨e, p⟩)]
    rfl
  rw [run]
  exact ⟨fun pending rest => congrArg grantJoined (runs pending rest), fun quiet => congrArg grantJoined (waits quiet)⟩

/-- Settles O32: `settleExpiry_settling` at the state in which the event has been taken. -/
theorem settleExpiryEndsSettling : Obligations.SettleExpiryEndsSettling := by
  unfold Obligations.SettleExpiryEndsSettling
  intro g e s l u z idle atRest
  have run : exec (.settleExpiry g) s = .next (settleExpiry g u) := rfl
  rw [run]
  refine ⟨fun p pending rest => ?_, fun p quiet => ?_, fun none' => ?_⟩
  · exact congrArg Host.Outcome.next ((settleExpiry_settling g e u l p).1 pending rest)
  · exact congrArg Host.Outcome.next ((settleExpiry_settling g e u l p).2 quiet)
  · rw [settleExpiry, if_neg]
    rw [settling_iff]
    exact fun ⟨e', p⟩ => none' e' p

end Sys2Proof.Machine
end

section
/-! PROOF. A request of one WRITE element (O39). -/

namespace Sys2Proof.Machine

/-- R25: what makes a class of the grant cycle ready. -/
theorem asksGrant_iff (s t : State) : asksGrant s t = true ↔ (∃ g ∈ t.galleryOrigin, g ∉ s.galleryOrigin) ∨
    (∃ n < 64, (s.node n).enable = false ∧ (t.node n).enable = true) ∨
    portOn s .gallery = false ∧ portOn t .gallery = true := by
  simp only [asksGrant, Bool.or_eq_true, List.any_eq_true, Bool.not_eq_true', List.contains_eq_mem,
    decide_eq_false_iff_not, List.mem_range, Bool.and_eq_true, or_assoc]

/-- R161: the values are written one after another, and the first status that is not OK stands. -/
theorem writeValues_cons (t : TableId) (m : StepMode) (v : Half) (vs : List Half) (s : State) :
    writeValues t m (v :: vs) s =
      let r := writeValue t (cursorOf s t) v s
      let w := writeValues t m vs (stepCursor t m r.1)
      ⟨w.state, firstBad r.2 w.status, asksGrant s r.1 || w.grantAsked⟩ := rfl

/-- R156, R161: a WRITE of 1 to 16 values. -/
theorem exec_write (rq : Requester) (t : TableId) (c : Option Cursor) (m : StepMode) (values : List Half) (s : State)
    (h : countOk values.length = true) :
    exec (.write rq t c m values) s =
      .next (let w := writeValues t m values (loadCursor t c (supervisionRestart s))
        grantAfter w.grantAsked (answer rq w.status w.state)) := by
  have element : writeElement t c m values = some (.write t c m values) := if_pos h
  show request rq (writeElement t c m values) s = _
  rw [element, request, serviceRequest_one rq _ s _ _ _ rfl]
  rfl

/-- R157: a WRITE of any other count. -/
theorem exec_write_format (rq : Requester) (t : TableId) (c : Option Cursor) (m : StepMode) (values : List Half)
    (s : State) (h : countOk values.length ≠ true) :
    exec (.write rq t c m values) s =
      .next (answer rq .format (count .serviceFormatErrors (supervisionRestart s))) := by
  have element : writeElement t c m values = none := if_neg h
  show request rq (writeElement t c m values) s = _
  rw [element]
  exact request_format rq s

/-- Settles O39: `exec_write` and `exec_write_format`, by the count of the values. -/
theorem writeAnswersItsStatus : Obligations.WriteAnswersItsStatus := by
  unfold Obligations.WriteAnswersItsStatus
  refine ⟨rfl, fun table m s => ⟨rfl, fun v vs => writeValues_cons table m v vs s⟩,
    fun s t => ⟨asksGrant_iff s t, rfl, rfl⟩, fun rq table c m values s => ?_⟩
  intro u
  refine ⟨fun low high => ?_, fun other => ?_, fun v one => ?_⟩
  · exact exec_write rq table c m values s ((countOk_iff _).mpr ⟨low, high⟩)
  · exact exec_write_format rq table c m values s (mt (countOk_iff _).mp other)
  · subst one
    rw [exec_write rq table c m [v] s rfl, writeValues_cons]
    simp only [writeValues, firstBad_ok, Bool.or_false]
    rfl

end Sys2Proof.Machine
end

section
/-! PROOF. Ratios and targets of an evaluation (O33). -/

namespace Sys2Proof.Machine

/-! ### The named shade, and what is at rest (R102, log entry 22) -/

theorem namedShade_iff (s : State) (z g : Nat) : namedShade s z = some g ↔
    (s.zone z).shade = some g ∧ (s.group g).enable = true ∧ (s.group g).zone = z ∧ (s.group g).kind = .shade := by
  simp only [namedShade, Option.filter_eq_some_iff, Bool.and_eq_true, beq_iff_eq, and_assoc]

theorem requestEvaluation_eq (z : Nat) (s : State) : requestEvaluation z s =
    if (requestCore z s).galleryOrigin = [] then requestCore z s else grant (requestCore z s) := by
  rw [requestEvaluation, grantJoined]
  exact if_congr List.isEmpty_iff rfl rfl

/-! ### Ratios (R104, R105) -/

theorem countsFresh_iff (p : Point) : countsFresh p = true ↔ p.state = .fresh ∨ p.state = .held := by
  unfold countsFresh
  cases p.state <;> simp

/-- The least of the ratios of the objects that a test picks. -/
theorem min?_ratios (s : State) (l : List Nat) (f : Nat → Option Nat) (of : Nat → Prop)
    (picks : ∀ i q, i ∈ l ∧ f i = some q ↔ of i ∧ objectRatio s (s.object i) = some q) (q : Nat) :
    (l.filterMap f).min? = some q ↔ (∃ i, of i ∧ objectRatio s (s.object i) = some q) ∧
      ∀ i, of i → ∀ x, objectRatio s (s.object i) = some x → q ≤ x := by
  rw [List.min?_eq_some_iff]
  simp only [List.mem_filterMap, picks]
  exact and_congr Iff.rfl ⟨fun h i o x r => h x ⟨i, o, r⟩, fun h x ⟨i, o, r⟩ => h i o x r⟩

theorem zoneRatio_iff (s : State) (z q : Nat) : zoneRatio s z = some q ↔
    (∃ i, (i < 256 ∧ (s.object i).enable = true ∧ (s.object i).zone = z) ∧ objectRatio s (s.object i) = some q) ∧
      ∀ i, (i < 256 ∧ (s.object i).enable = true ∧ (s.object i).zone = z) →
        ∀ x, objectRatio s (s.object i) = some x → q ≤ x := by
  refine min?_ratios s (zoneObjects s z) (fun i => objectRatio s (s.object i)) _ (fun i q => ?_) q
  simp only [zoneObjects, indicesWhere, List.mem_filter, List.mem_range, Bool.and_eq_true, beq_iff_eq]

theorem mem_members (s : State) (g i : Nat) :
    i ∈ members s g ↔ i < 256 ∧ (s.object i).enable = true ∧ (s.object i).lampGroup = some g := by
  simp only [members, indicesWhere, List.mem_filter, List.mem_range, Bool.and_eq_true, beq_iff_eq]

/-- R105: a lamp group without members has the zone's ratio. -/
theorem lampRatio_alone (s : State) (z g : Nat) (h : ∀ i, i ∉ members s g) : lampRatio s z g = zoneRatio s z := by
  rw [lampRatio, if_pos (List.isEmpty_iff.mpr (List.eq_nil_iff_forall_not_mem.mpr h))]

theorem members_isEmpty (s : State) (g : Nat) : (members s g).isEmpty = false ↔ ∃ i, i ∈ members s g := by
  rw [Bool.eq_false_iff, ne_eq, List.isEmpty_iff, List.eq_nil_iff_forall_not_mem, not_forall_not]

theorem lampRatio_iff (s : State) (z g q : Nat) (h : ∃ i, i ∈ members s g) : lampRatio s z g = some q ↔
    (∃ i, (i ∈ members s g ∧ (s.object i).zone = z) ∧ objectRatio s (s.object i) = some q) ∧
      ∀ i, (i ∈ members s g ∧ (s.object i).zone = z) → ∀ x, objectRatio s (s.object i) = some x → q ≤ x := by
  rw [lampRatio, (members_isEmpty s g).mpr h, if_neg Bool.false_ne_true]
  refine min?_ratios s _ _ _ (fun i q => ?_) q
  by_cases c : (s.object i).zone = z <;> simp [c]

theorem lampBlind_iff (s : State) (z g : Nat) :
    lampBlind s z g = true ↔ (∃ i, i ∈ members s g) ∧ lampRatio s z g = none := by
  rw [lampBlind, Bool.and_eq_true, Bool.not_eq_true', members_isEmpty, Option.isNone_iff_eq_none]

/-! ### Targets (R106 to R109) -/

theorem shadeMovesDown_iff (s : State) (z : Nat) : shadeMovesDown s z = true ↔
    ∃ h, namedShade s z = some h ∧ nodeReachable s (s.group h).node = true ∧ (s.group h).misses < 3 ∧
      (s.group h).lo < (s.group h).level := by
  unfold shadeMovesDown
  split
  · rename_i g named
    simp [named, shadeAble, and_assoc]
  · rename_i none'
    simp [none']

theorem lampsAtTop_iff (s : State) (z : Nat) : lampsAtTop s z = true ↔
    ∀ h < 48, (s.group h).enable = true → (s.group h).zone = z → (s.group h).kind = .lamp →
      (s.group h).level = effHi (s.group h) := by
  simp only [lampsAtTop, List.all_eq_true, mem_zoneGroups, Bool.or_eq_true, bne_iff_ne, beq_iff_eq]
  exact ⟨fun h i _ e z k => (h i ⟨e, z⟩).resolve_left (fun n => n k),
    fun h i ⟨e, z⟩ => (em ((s.group i).kind = .lamp)).symm.imp id fun k => h i (enabled_group s i e) e z k⟩

/-- A SHADE group that the zone does not name is held. -/
theorem target_unnamed (s : State) (z g : Nat) (k : (s.group g).kind = .shade) (n : namedShade s z ≠ some g) :
    target s z g = (s.group g).level := if_pos ⟨k, n⟩

/-- The groups that an evaluation moves: the LAMP groups, and the shade that the zone names. -/
def movable (s : State) (z g : Nat) : Prop := (s.group g).kind = .lamp ∨ namedShade s z = some g

theorem not_unnamed (s : State) (z g : Nat) (m : movable s z g) :
    ¬((s.group g).kind = .shade ∧ namedShade s z ≠ some g) := by
  rintro ⟨k, n⟩
  rcases m with m | m
  · exact absurd (k.symm.trans m) (by simp)
  · exact n m

theorem target_opened (s : State) (z g : Nat) (m : movable s z g) (h : (s.zone z).mode = .opened) :
    target s z g = min (openTarget s z g) (effHi (s.group g)) := by
  rw [target, if_neg (not_unnamed s z g m), h]

theorem target_closed (s : State) (z g : Nat) (m : movable s z g) (h : (s.zone z).mode = .closed) :
    target s z g = capLimit (s.group g) (closedTarget (s.group g) false) := by
  rw [target, if_neg (not_unnamed s z g m), h]

theorem target_dark (s : State) (z g : Nat) (m : movable s z g) (h : (s.zone z).mode = .dark) :
    target s z g = capLimit (s.group g) (closedTarget (s.group g) true) := by
  rw [target, if_neg (not_unnamed s z g m), h]

theorem closedTarget_shade (g : Group) (d : Bool) (h : g.kind = .shade) : closedTarget g d = g.lo := by
  simp only [closedTarget, h]

theorem closedTarget_lamp (g : Group) (d : Bool) (h : g.kind = .lamp) :
    closedTarget g d = if d then 0 else g.cleaning := by
  simp only [closedTarget, h]

theorem target_shade_down (s : State) (z g : Nat) (k : (s.group g).kind = .shade) (n : namedShade s z = some g)
    (h : (s.zone z).mode ≠ .opened) : target s z g = capLimit (s.group g) (s.group g).lo := by
  cases m : (s.zone z).mode with
  | opened => exact absurd m h
  | closed => rw [target_closed s z g (.inr n) m, closedTarget_shade _ _ k]
  | dark => rw [target_dark s z g (.inr n) m, closedTarget_shade _ _ k]

theorem openTarget_none (s : State) (z g : Nat) (h : zoneRatio s z = none) : openTarget s z g = (s.group g).level := by
  rw [openTarget, h]

theorem openTarget_lamp (s : State) (z g qz : Nat) (h : zoneRatio s z = some qz) (k : (s.group g).kind = .lamp) :
    openTarget s z g = openLampTarget s z g qz := by
  simp only [openTarget, h, k]

theorem openTarget_shade (s : State) (z g qz : Nat) (h : zoneRatio s z = some qz) (k : (s.group g).kind = .shade) :
    openTarget s z g = openShadeTarget s z g qz := by
  simp only [openTarget, h, k]

theorem openLampTarget_none (s : State) (z g qz : Nat) (h : lampRatio s z g = none) :
    openLampTarget s z g qz = (s.group g).level := by
  simp only [openLampTarget, h]

/-- R107, R108: a LAMP group with a ratio, in the OPEN mode. -/
theorem openLampTarget_some (s : State) (z g qz q : Nat) (h : lampRatio s z g = some q) :
    openLampTarget s z g qz =
      if qz < 1000 then
        if shadeMovesDown s z = false ∧ q < 1000 ∧ (s.group g).lo < (s.group g).level then loweredTarget (s.group g) q
        else (s.group g).level
      else if 1000 + (s.group g).hold ≤ q ∧ (s.group g).level < effHi (s.group g) then raisedTarget (s.group g)
      else (s.group g).level := by
  simp only [openLampTarget, h, Bool.and_eq_true, Bool.not_eq_true', decide_eq_true_eq]

theorem raisedTarget_le (gr : Group) : raisedTarget gr ≤ effHi gr := Nat.min_le_left _ _

end Sys2Proof.Machine
end

section
/-! PROOF. Targets in the OPEN mode, case by case (O33). -/

namespace Sys2Proof.Machine

/-- R107, R108: a LAMP group with a ratio in the OPEN mode. -/
theorem target_open_lamp (s : State) (z g qz q : Nat) (m : (s.zone z).mode = .opened) (k : (s.group g).kind = .lamp)
    (hz : zoneRatio s z = some qz) (hg : lampRatio s z g = some q) :
    let gr := s.group g
    let held := min gr.level (effHi gr)
    (qz < 1000 → ¬shadeMovesDown s z = true → q < 1000 → gr.lo < gr.level →
      target s z g = min (loweredTarget gr q) (effHi gr)) ∧
    (qz < 1000 → (shadeMovesDown s z = true ∨ 1000 ≤ q ∨ gr.level ≤ gr.lo) → target s z g = held) ∧
    (1000 ≤ qz → 1000 + gr.hold ≤ q → gr.level < effHi gr → target s z g = raisedTarget gr) ∧
    (1000 ≤ qz → (q < 1000 + gr.hold ∨ effHi gr ≤ gr.level) → target s z g = held) := by
  intro gr held
  rw [target_opened s z g (.inl k) m, openTarget_lamp s z g qz hz k, openLampTarget_some s z g qz q hg]
  refine ⟨fun a b c d => ?_, fun a h => ?_, fun a b c => ?_, fun a h => ?_⟩
  · rw [if_pos a, if_pos ⟨by simpa using b, c, d⟩]
  · rw [if_pos a, if_neg]
    rintro ⟨b, c, d⟩
    rcases h with h | h | h
    · exact absurd (b.symm.trans h) (by simp)
    · omega
    · exact absurd d (Nat.not_lt.mpr h)
  · rw [if_neg (by omega), if_pos ⟨b, c⟩, Nat.min_eq_left (raisedTarget_le _)]
  · rw [if_neg (by omega), if_neg]
    rintro ⟨b, c⟩
    rcases h with h | h
    · exact absurd b (Nat.not_le.mpr h)
    · exact absurd c (Nat.not_lt.mpr h)

/-- R107, R108: the named shade in the OPEN mode. -/
theorem target_open_shade (s : State) (z g qz : Nat) (m : (s.zone z).mode = .opened) (k : (s.group g).kind = .shade)
    (n : namedShade s z = some g) (hz : zoneRatio s z = some qz) :
    let gr := s.group g
    let held := min gr.level (effHi gr)
    (qz < 1000 → shadeMovesDown s z = true → target s z g = min (loweredTarget gr qz) (effHi gr)) ∧
    (qz < 1000 → ¬shadeMovesDown s z = true → target s z g = held) ∧
    (1000 ≤ qz → gr.level < effHi gr → 1000 + gr.hold ≤ qz → lampsAtTop s z = true → target s z g = raisedTarget gr) ∧
    (1000 ≤ qz → (effHi gr ≤ gr.level ∨ qz < 1000 + gr.hold ∨ ¬lampsAtTop s z = true) → target s z g = held) := by
  intro gr held
  rw [target_opened s z g (.inr n) m, openTarget_shade s z g qz hz k, openShadeTarget]
  refine ⟨fun a b => ?_, fun a b => ?_, fun a b c d => ?_, fun a h => ?_⟩
  · rw [if_pos a, if_pos b]
  · rw [if_pos a, if_neg b]
  · rw [if_neg (by omega), if_pos ⟨b, c, d⟩, Nat.min_eq_left (raisedTarget_le _)]
  · rw [if_neg (by omega), if_neg]
    rintro ⟨b, c, d⟩
    rcases h with h | h | h
    · exact absurd b (Nat.not_lt.mpr h)
    · exact absurd c (Nat.not_le.mpr h)
    · exact h d

theorem target_open_held (s : State) (z g : Nat) (m : (s.zone z).mode = .opened) (v : movable s z g)
    (h : openTarget s z g = (s.group g).level) : target s z g = min (s.group g).level (effHi (s.group g)) := by
  rw [target_opened s z g v m, h]

end Sys2Proof.Machine
end

section
/-! PROOF. What an evaluation stores and commands, group by group (O33). -/

namespace Sys2Proof.Machine

/-! ### The ratios judged (R103 to R105) -/

/-- R105: a LAMP group as the judgement of the ratios leaves it. -/
def lampJudged (s : State) (z g : Nat) : Group :=
  if (s.group g).kind = .lamp then
    { s.group g with blind := lampBlind s z g, ratio := (lampRatio s z g).getD (s.group g).ratio }
  else s.group g

theorem judgeLamp_shade (z g : Nat) (s : State) (k : (s.group g).kind = .shade) : judgeLamp z g s = s := by
  rw [judgeLamp, if_neg (by simp [k])]

theorem judgeLamp_lamp (z g : Nat) (s : State) (k : (s.group g).kind = .lamp) : judgeLamp z g s =
    follow .groupBlind g (s.group g).zone (s.group g).blind (lampBlind s z g)
      (s.modGroup g fun _ => { s.group g with
        blind := lampBlind s z g, ratio := (lampRatio s z g).getD (s.group g).ratio }) := by
  rw [judgeLamp, if_pos k]
  exact congrArg (follow _ _ _ _ _) (modGroup_at s g _)

/-- The judgement of one LAMP group changes its record, and reports. -/
theorem reported_judgeLamp (z g : Nat) (s : State) :
    Reported (s.modGroup g fun _ => lampJudged s z g) (judgeLamp z g s) := by
  unfold lampJudged
  split
  · rename_i k
    rw [judgeLamp_lamp z g s k]
    exact reported_follow ..
  · rename_i k
    rw [judgeLamp, if_neg k, modGroup_same s g _ rfl]
    exact .refl s

theorem lampRatio_congr {s t : State} (o : t.objects = s.objects) (p : t.points = s.points) (z g : Nat) :
    lampRatio t z g = lampRatio s z g := by
  have object : t.object = s.object := funext (object_congr o)
  have point : t.point = s.point := funext (point_congr p)
  unfold lampRatio members zoneRatio zoneObjects objectRatio
  rw [object, point]

theorem zoneRatio_congr {s t : State} (o : t.objects = s.objects) (p : t.points = s.points) (z : Nat) :
    zoneRatio t z = zoneRatio s z := by
  simp only [zoneRatio, zoneObjects, objectRatio, object_congr o, point_congr p]

theorem lampJudged_congr {s t : State} (o : t.objects = s.objects) (p : t.points = s.points) (z g : Nat)
    (h : t.group g = s.group g) : lampJudged t z g = lampJudged s z g := by
  simp only [lampJudged, h, lampBlind, lampRatio_congr o p, members, object_congr o]

/-- R105: what the judgement of a list of groups leaves. -/
theorem judgeLamps_frame (z : Nat) (l : List Nat) (nodup : l.Nodup) (small : ∀ g ∈ l, g < 48) (s : State) :
    let t := l.foldl (fun u g => judgeLamp z g u) s
    (∀ h, t.group h = if h ∈ l then lampJudged s z h else s.group h) ∧ t.galleryOrigin = s.galleryOrigin ∧
      t.zones = s.zones := by
  induction l generalizing s with
  | nil => exact ⟨fun h => by simp, rfl, rfl⟩
  | cons a l ih =>
      obtain ⟨fresh, nodup'⟩ := List.nodup_cons.mp nodup
      have r := reported_judgeLamp z a s
      have first : ∀ h, (judgeLamp z a s).group h = if h = a then lampJudged s z a else s.group h := fun h => by
        rw [r.group, group_modGroup]
        by_cases e : h = a
        · subst e; simp [small h (List.mem_cons_self ..)]
        · simp [e, Ne.symm e]
      obtain ⟨group, origin, zones⟩ := ih nodup' (fun g m => small g (List.mem_cons_of_mem _ m)) (judgeLamp z a s)
      refine ⟨fun h => (group h).trans ?_, origin.trans r.galleryOrigin, zones.trans r.zones⟩
      by_cases m : h ∈ l
      · have ne : h ≠ a := ne_of_mem_of_not_mem m fresh
        rw [if_pos m, if_pos (List.mem_cons_of_mem _ m)]
        refine lampJudged_congr (s := s) r.objects r.points z h ?_
        rw [first h, if_neg ne]
      · rw [if_neg m, first h]
        by_cases e : h = a
        · subst e; simp
        · simp [e, m]

theorem nodup_zoneGroups (s : State) (z : Nat) : (zoneGroups s z).Nodup := List.Nodup.filter _ List.nodup_range

theorem zoneGroups_lt (s : State) (z g : Nat) (m : g ∈ zoneGroups s z) : g < 48 :=
  enabled_group s g ((mem_zoneGroups s z g).mp m).1

/-- R103 to R105: a group of the zone as the judgement of the ratios leaves it. -/
def judgedGroup (s : State) (z g : Nat) : Group :=
  let gr := s.group g
  { gr with
    blind := if gr.kind = .lamp then lampBlind s z g else gr.blind
    ratio :=
      if gr.kind = .lamp then (lampRatio s z g).getD gr.ratio
      else if namedShade s z = some g then (zoneRatio s z).getD gr.ratio
      else gr.ratio }

theorem storeShadeRatio_frame (z : Nat) (s : State) : ∃ gs : Vector Group 48,
    storeShadeRatio z s = { s with groups := gs } ∧ ∀ g, (storeShadeRatio z s).group g =
      if namedShade s z = some g then { s.group g with ratio := (zoneRatio s z).getD (s.group g).ratio }
      else s.group g := by
  unfold storeShadeRatio
  split
  · rename_i a q named ratio
    obtain ⟨-, on, -⟩ := (namedShade_iff s z a).mp named
    refine ⟨_, rfl, fun g => ?_⟩
    rw [group_modGroup, named, ratio]
    by_cases e : a = g
    · subst e; simp [enabled_group s a on]
    · simp [e]
  · rename_i none'
    refine ⟨s.groups, rfl, fun g => ?_⟩
    by_cases n : namedShade s z = some g
    · cases q : zoneRatio s z with
      | none => simp
      | some q => exact absurd q (none' g _ n)
    · rw [if_neg n]

theorem judgeRatios_frame (z : Nat) (s : State) :
    let t := judgeRatios z s
    (∀ g ∈ zoneGroups s z, t.group g = judgedGroup s z g) ∧ (∀ g, g ∉ zoneGroups s z → t.group g = s.group g) ∧
      t.galleryOrigin = s.galleryOrigin ∧ t.zones = s.zones := by
  obtain ⟨gs, plain, stored⟩ := storeShadeRatio_frame z s
  obtain ⟨group, origin, zones⟩ := judgeLamps_frame z (zoneGroups s z) (nodup_zoneGroups s z) (zoneGroups_lt s z)
    (storeShadeRatio z s)
  have objects : (storeShadeRatio z s).objects = s.objects := by rw [plain]
  have points : (storeShadeRatio z s).points = s.points := by rw [plain]
  refine ⟨fun g m => (group g).trans ?_, fun g m => (group g).trans ?_, origin.trans (by rw [plain]),
    zones.trans (by rw [plain])⟩
  · rw [if_pos m]
    by_cases k : (s.group g).kind = .lamp
    · have n : namedShade s z ≠ some g := fun n => by
        obtain ⟨-, -, -, shade⟩ := (namedShade_iff s z g).mp n
        exact absurd (k.symm.trans shade) (by simp)
      rw [lampJudged_congr objects points z g ((stored g).trans (if_neg n)), lampJudged, if_pos k]
      simp only [judgedGroup, if_pos k]
    · have kind : ((storeShadeRatio z s).group g).kind = (s.group g).kind := by
        rw [stored g]
        split <;> rfl
      rw [lampJudged, if_neg (by rw [kind]; exact k), stored g]
      by_cases n : namedShade s z = some g
      · simp only [judgedGroup, if_neg k, if_pos n]
      · simp only [judgedGroup, if_neg k, if_neg n]
  · rw [if_neg m, stored g, if_neg]
    intro n
    obtain ⟨-, on, here, -⟩ := (namedShade_iff s z g).mp n
    exact m ((mem_zoneGroups s z g).mpr ⟨on, here⟩)

/-! ### The targets are those of the state before (R103) -/

/-- A group but for what the judgement of the ratios stores. -/
def planned (g : Group) : Group := { g with ratio := 0, blind := false }

/-- The targets read nothing that the judgement of the ratios stores. -/
theorem target_congr {s t : State} (n : t.nodes = s.nodes) (o : t.objects = s.objects) (p : t.points = s.points)
    (zn : t.zones = s.zones) (gr : ∀ h, planned (t.group h) = planned (s.group h)) (z g : Nat) :
    target t z g = target s z g := by
  have enable : ∀ h, (t.group h).enable = (s.group h).enable := fun h => (congrArg Group.enable (gr h) :)
  have kind : ∀ h, (t.group h).kind = (s.group h).kind := fun h => (congrArg Group.kind (gr h) :)
  have zone : ∀ h, (t.group h).zone = (s.group h).zone := fun h => (congrArg Group.zone (gr h) :)
  have node : ∀ h, (t.group h).node = (s.group h).node := fun h => (congrArg Group.node (gr h) :)
  have lo : ∀ h, (t.group h).lo = (s.group h).lo := fun h => (congrArg Group.lo (gr h) :)
  have hold : ∀ h, (t.group h).hold = (s.group h).hold := fun h => (congrArg Group.hold (gr h) :)
  have level : ∀ h, (t.group h).level = (s.group h).level := fun h => (congrArg Group.level (gr h) :)
  have misses : ∀ h, (t.group h).misses = (s.group h).misses := fun h => (congrArg Group.misses (gr h) :)
  have top : ∀ h, effHi (t.group h) = effHi (s.group h) := fun h => (congrArg effHi (gr h) :)
  have raised : ∀ h, raisedTarget (t.group h) = raisedTarget (s.group h) := fun h => (congrArg raisedTarget (gr h) :)
  have lowered : ∀ h q, loweredTarget (t.group h) q = loweredTarget (s.group h) q := fun h q =>
    (congrArg (loweredTarget · q) (gr h) :)
  have closed : ∀ h d, closedTarget (t.group h) d = closedTarget (s.group h) d := fun h d =>
    (congrArg (closedTarget · d) (gr h) :)
  have limit : ∀ h n, capLimit (t.group h) n = capLimit (s.group h) n := fun h n =>
    (congrArg (capLimit · n) (gr h) :)
  have named : namedShade t z = namedShade s z := by simp only [namedShade, zone_congr zn, enable, zone, kind]
  have moves : shadeMovesDown t z = shadeMovesDown s z := by
    simp only [shadeMovesDown, named, shadeAble, nodeReachable, node_congr n, node, misses, lo, level]
  have tops : lampsAtTop t z = lampsAtTop s z := by
    simp only [lampsAtTop, zoneGroups, enable, zone, kind, level, top]
  have opened : openTarget t z g = openTarget s z g := by
    simp only [openTarget, openLampTarget, openShadeTarget, zoneRatio_congr o p, lampRatio_congr o p, kind, level, lo,
      hold, top, raised, lowered, moves, tops]
  simp only [target, kind, named, level, zone_congr zn, opened, top, limit, closed]

theorem target_judgeRatios (z g : Nat) (s : State) : target (judgeRatios z s) z g = target s z g := by
  obtain ⟨inside, outside, -, zones⟩ := judgeRatios_frame z s
  have e := evaluated_judgeRatios z s
  refine target_congr e.nodes e.objects e.points zones (fun h => ?_) z g
  by_cases m : h ∈ zoneGroups s z
  · rw [inside h m]
    rfl
  · rw [outside h m]

/-! ### The commands (R110, R111) -/

/-- R110: whether a target asks for a command. -/
def asksCommand (s : State) (g t : Nat) : Bool := t != (s.group g).level || (s.group g).resend

theorem asksCommand_iff (s : State) (g t : Nat) :
    asksCommand s g t = true ↔ t ≠ (s.group g).level ∨ (s.group g).resend = true := by
  simp [asksCommand]

/-- R110: the group as its command leaves it. -/
def commandedGroup (s : State) (g t : Nat) : Group :=
  if asksCommand s g t then
    if nodeReachable s (s.group g).node then { s.group g with level := t, phase := .queued }
    else { s.group g with resend := true, unavailable := true }
  else s.group g

theorem commandGroup_kept (g t : Nat) (s : State) (h : ¬asksCommand s g t = true) : commandGroup g t s = s := by
  rw [asksCommand_iff, not_or, not_not, Bool.not_eq_true] at h
  rw [commandGroup, if_pos h]

theorem commandGroup_asked (g t : Nat) (s : State) (h : asksCommand s g t = true) : commandGroup g t s =
    if nodeReachable s (s.group g).node then
      { s.modGroup g fun _ => { s.group g with level := t, phase := .queued } with
        galleryOrigin := s.galleryOrigin ++ [g] }
    else changeJudged g (fun gr => { gr with resend := true, unavailable := true }) s := by
  have asked : ¬(t = (s.group g).level ∧ (s.group g).resend = false) := fun ⟨same, no⟩ =>
    ((asksCommand_iff s g t).mp h).elim (fun ne => ne same) fun yes => absurd (no.symm.trans yes) (by simp)
  rw [commandGroup, if_neg asked, modGroup_at]
  rfl

/-- R111: a group whose node cannot be reached raises ACTUATOR_SILENT where it becomes active. -/
theorem changeJudged_barred (g : Nat) (s : State) (l : g < 48) :
    changeJudged g (fun gr => { gr with resend := true, unavailable := true }) s =
      let barred := s.modGroup g fun _ => { s.group g with resend := true, unavailable := true }
      if (s.group g).unavailable = false ∧ (s.group g).misses < 3 then
        raise .actuatorSilent g (s.group g).zone barred
      else barred := by
  rw [changeJudged_eq g _ s l rfl, follow_eq]
  have after : groupSilent { s.group g with resend := true, unavailable := true } = true := by simp [groupSilent]
  simp only [after, groupSilent_false, true_and, Bool.true_eq_false, and_false, if_false]

theorem commandGroup_record (g t : Nat) (s : State) (l : g < 48) :
    let u := commandGroup g t s
    (∀ h, u.group h = if h = g then commandedGroup s g t else s.group h) ∧
    u.galleryOrigin = s.galleryOrigin ++
      (if asksCommand s g t && nodeReachable s (s.group g).node then [g] else []) ∧
    u.zones = s.zones ∧ u.nodes = s.nodes := by
  have changed : ∀ (x : Group) h, (s.modGroup g fun _ => x).group h = if h = g then x else s.group h := fun x h => by
    rw [group_modGroup]
    by_cases e : h = g
    · subst e; simp [l]
    · simp [e, Ne.symm e]
  intro u
  by_cases a : asksCommand s g t = true
  · have run : u = _ := commandGroup_asked g t s a
    by_cases n : nodeReachable s (s.group g).node = true
    · rw [if_pos n] at run
      rw [run, commandedGroup, if_pos a, if_pos n, a, n]
      exact ⟨changed _, rfl, rfl, rfl⟩
    · rw [if_neg n, changeJudged_eq g _ s l rfl] at run
      have r := reported_follow .actuatorSilent g (s.group g).zone (groupSilent (s.group g))
        (groupSilent { s.group g with resend := true, unavailable := true })
        (s.modGroup g fun _ => { s.group g with resend := true, unavailable := true })
      rw [run, commandedGroup, if_pos a, if_neg n, a, Bool.true_and, if_neg n, List.append_nil]
      exact ⟨fun h => (r.group h).trans (changed _ h), r.galleryOrigin, r.zones, r.nodes⟩
  · rw [show u = s from commandGroup_kept g t s a, commandedGroup, if_neg a, Bool.eq_false_iff.mpr a, Bool.false_and,
      if_neg Bool.false_ne_true, List.append_nil]
    refine ⟨fun h => ?_, rfl, rfl, rfl⟩
    split
    · rename_i e
      rw [e]
    · rfl

/-- R110: what the commands of a list of groups leave, each to its target. -/
theorem commandGroups_frame (f : Nat → Nat) (l : List Nat) (nodup : l.Nodup) (small : ∀ g ∈ l, g < 48) (s : State) :
    let t := l.foldl (fun u g => commandGroup g (f g) u) s
    (∀ h, t.group h = if h ∈ l then commandedGroup s h (f h) else s.group h) ∧
    t.galleryOrigin = s.galleryOrigin ++
      l.filter (fun g => asksCommand s g (f g) && nodeReachable s (s.group g).node) ∧
    t.zones = s.zones := by
  induction l generalizing s with
  | nil => exact ⟨fun h => by simp, by simp, rfl⟩
  | cons a l ih =>
      obtain ⟨fresh, nodup'⟩ := List.nodup_cons.mp nodup
      obtain ⟨first, joined, zones, nodes⟩ := commandGroup_record a (f a) s (small a (List.mem_cons_self ..))
      obtain ⟨group, origin, zones'⟩ := ih nodup' (fun g m => small g (List.mem_cons_of_mem _ m))
        (commandGroup a (f a) s)
      have other : ∀ g ∈ l, (commandGroup a (f a) s).group g = s.group g := fun g m =>
        (first g).trans (if_neg (ne_of_mem_of_not_mem m fresh))
      have reach : ∀ n, nodeReachable (commandGroup a (f a) s) n = nodeReachable s n := fun n => by
        simp only [nodeReachable, node_congr nodes]
      refine ⟨fun h => (group h).trans ?_, origin.trans ?_, zones'.trans zones⟩
      · by_cases m : h ∈ l
        · rw [if_pos m, if_pos (List.mem_cons_of_mem _ m)]
          simp only [commandedGroup, asksCommand, other h m, reach]
        · rw [if_neg m, first h]
          by_cases e : h = a
          · subst e; simp
          · simp [e, m]
      · have same : l.filter (fun g => asksCommand (commandGroup a (f a) s) g (f g) &&
            nodeReachable (commandGroup a (f a) s) ((commandGroup a (f a) s).group g).node) =
            l.filter fun g => asksCommand s g (f g) && nodeReachable s (s.group g).node :=
          List.filter_congr fun g m => by simp only [asksCommand, other g m, reach]
        rw [same, joined, List.append_assoc]
        congr 1
        rw [List.filter_cons]
        split <;> rfl

/-- R103: an evaluation judges the ratios, and then commands each group of the zone to its target. -/
theorem evaluate_eq (z : Nat) (s : State) : evaluate z s =
    (zoneGroups s z).foldl (fun u g => commandGroup g (target (judgeRatios z s) z g) u) (judgeRatios z s) := by
  rw [evaluate, List.foldl_map, zoneGroups_evaluated (evaluated_judgeRatios z s)]

/-- R103, R110: what an evaluation leaves: the groups of the zone judged and commanded, and the entries that joined the
gallery origin queue. -/
theorem evaluate_frame (z : Nat) (s : State) :
    let t := evaluate z s
    let asked := fun g => asksCommand s g (target s z g)
    (∀ g ∈ zoneGroups s z, t.group g =
      if asked g then
        if nodeReachable s (s.group g).node then { judgedGroup s z g with level := target s z g, phase := .queued }
        else { judgedGroup s z g with resend := true, unavailable := true }
      else judgedGroup s z g) ∧
    (∀ g, g ∉ zoneGroups s z → t.group g = s.group g) ∧
    t.galleryOrigin = s.galleryOrigin ++
      (zoneGroups s z).filter (fun g => asked g && nodeReachable s (s.group g).node) ∧
    t.zones = s.zones := by
  intro t asked
  obtain ⟨inside, outside, origin, zones⟩ := judgeRatios_frame z s
  obtain ⟨group, joined, zones'⟩ := commandGroups_frame (target (judgeRatios z s) z) (zoneGroups s z)
    (nodup_zoneGroups s z) (zoneGroups_lt s z) (judgeRatios z s)
  rw [← evaluate_eq] at group joined zones'
  have reach : ∀ n, nodeReachable (judgeRatios z s) n = nodeReachable s n := fun n => by
    simp only [nodeReachable, (evaluated_judgeRatios z s).node]
  have asks : ∀ g ∈ zoneGroups s z, asksCommand (judgeRatios z s) g (target (judgeRatios z s) z g) = asked g :=
    fun g m => by
      simp only [asksCommand, asked, inside g m, target_judgeRatios]
      rfl
  refine ⟨fun g m => (group g).trans ?_, fun g m => (group g).trans ?_, joined.trans ?_, zones'.trans zones⟩
  · rw [if_pos m, commandedGroup, asks g m, inside g m, target_judgeRatios, reach]
    rfl
  · rw [if_neg m]
    exact outside g m
  · rw [origin]
    congr 1
    refine List.filter_congr fun g m => ?_
    rw [asks g m, inside g m, reach]
    rfl

end Sys2Proof.Machine
end

section
/-! PROOF. Requests, ratios, targets and commands, part by part (O33). -/

namespace Sys2Proof.Machine

theorem requestCore_atRest (z : Nat) (s : State)
    (h : ∀ h < 48, (s.group h).enable = true → (s.group h).zone = z → (s.group h).phase = .idle) :
    requestCore z s = evaluate z s := by
  rw [requestCore, if_pos ((zoneAtRest_iff s z).mpr h)]

theorem requestCore_waits (z : Nat) (s : State)
    (h : ¬∀ h < 48, (s.group h).enable = true → (s.group h).zone = z → (s.group h).phase = .idle) :
    requestCore z s = s.modZone z fun zn => { zn with evalPending := true } := by
  rw [requestCore, if_neg (mt (zoneAtRest_iff s z).mp h)]

/-- R104: an object has a ratio while its light point is FRESH or HELD. -/
theorem objectRatio_cases (s : State) (o : Obj) :
    let p := s.point o.lightPoint
    ((p.state = .fresh ∨ p.state = .held) → objectRatio s o = some (ratioOf o.ceiling p.value.toNat)) ∧
    (p.state ≠ .fresh → p.state ≠ .held → objectRatio s o = none) := by
  intro p
  refine ⟨fun h => ?_, fun f h => ?_⟩
  · rw [objectRatio, if_pos ((countsFresh_iff _).mpr h)]
  · rw [objectRatio, if_neg]
    rw [countsFresh_iff]
    exact fun c => c.elim f h

/-- R110, R111: the commands of one group, by what its target asks for. -/
theorem commandGroup_cases (g t : Nat) (s : State) (l : g < 48) :
    let gr := s.group g
    let asked := t ≠ gr.level ∨ gr.resend = true
    let barred := s.modGroup g fun _ => { gr with resend := true, unavailable := true }
    (¬asked → commandGroup g t s = s) ∧
    (asked → nodeReachable s gr.node = true → commandGroup g t s =
      { s.modGroup g fun _ => { gr with level := t, phase := .queued } with galleryOrigin := s.galleryOrigin ++ [g] }) ∧
    (asked → nodeReachable s gr.node = false → commandGroup g t s =
      if gr.unavailable = false ∧ gr.misses < 3 then raise .actuatorSilent g gr.zone barred else barred) := by
  intro gr asked barred
  refine ⟨fun h => commandGroup_kept g t s (mt (asksCommand_iff s g t).mp h), fun h n => ?_, fun h n => ?_⟩
  · rw [commandGroup_asked g t s ((asksCommand_iff s g t).mpr h), if_pos n]
  · rw [commandGroup_asked g t s ((asksCommand_iff s g t).mpr h), if_neg (by rw [n]; exact Bool.false_ne_true)]
    exact changeJudged_barred g s l

/-- R110: the record of a group of the zone after an evaluation, field by field. -/
theorem evaluated_record (z g : Nat) (s : State) (m : g ∈ zoneGroups s z) :
    let asked := asksCommand s g (target s z g)
    let commanded := asked && nodeReachable s (s.group g).node
    (evaluate z s).group g = { judgedGroup s z g with
      level := if commanded then target s z g else (s.group g).level
      phase := if commanded then .queued else (s.group g).phase
      resend := (s.group g).resend || asked && !commanded
      unavailable := (s.group g).unavailable || asked && !commanded } := by
  intro asked commanded
  rw [(evaluate_frame z s).1 g m]
  cases a : asksCommand s g (target s z g) <;> cases n : nodeReachable s (s.group g).node <;>
    simp [asked, commanded, a, n, judgedGroup]

theorem mem_zoneGroups_eq (s : State) (z g : Nat) :
    ((s.group g).enable && (s.group g).zone == z) = true ↔ g ∈ zoneGroups s z := by
  rw [mem_zoneGroups, Bool.and_eq_true, beq_iff_eq]

/-- Settles O33: requests and ratios by the rules above, targets mode by mode (`target_open_lamp`, `target_open_shade`),
and the evaluation by `evaluate_frame`. -/
theorem evaluationCommandsTheGroups : Obligations.EvaluationCommandsTheGroups := by
  unfold Obligations.EvaluationCommandsTheGroups
  refine ⟨namedShade_iff, fun z g s l => ?_, fun z s => ?_, fun z s => ?_, objectRatio_cases, fun s z g => ?_,
    fun s z g => ?_, fun z s => ?_⟩
  · intro gr blind
    exact ⟨judgeLamp_shade z g s, judgeLamp_lamp z g s, fun t => commandGroup_cases g t s l⟩
  · exact evaluate_eq z s
  · exact ⟨requestCore_atRest z s, requestCore_waits z s, requestEvaluation_eq z s⟩
  · intro inZone member least
    have members' : ∀ i, member i ↔ i ∈ members s g := fun i => (mem_members s g i).symm
    simp only [members']
    refine ⟨zoneRatio_iff s z, lampRatio_alone s z g, fun some' q => ?_, lampBlind_iff s z g⟩
    exact lampRatio_iff s z g q some'
  · intro gr named highest capped lowered raised held shadeDown lampsTop
    have down : shadeDown ↔ shadeMovesDown s z = true := (shadeMovesDown_iff s z).symm
    have top : lampsTop ↔ lampsAtTop s z = true := (lampsAtTop_iff s z).symm
    simp only [down, top]
    refine ⟨target_unnamed s z g, target_shade_down s z g, fun k m => ?_, fun k m => ?_, fun m v => ⟨fun q => ?_,
      fun qz hz k => ⟨fun q => ?_, fun q hg => target_open_lamp s z g qz q m k hz hg⟩, fun qz hz k => ?_⟩⟩
    · rw [target_closed s z g (.inl k) m, closedTarget_lamp _ _ k]
      rfl
    · rw [target_dark s z g (.inl k) m, closedTarget_lamp _ _ k]
      rfl
    · exact target_open_held s z g m v (openTarget_none s z g q)
    · exact target_open_held s z g m v ((openTarget_lamp s z g qz hz k).trans (openLampTarget_none s z g qz q))
    · exact target_open_shade s z g qz m k (v.resolve_left (by rw [k]; exact nofun)) hz
  · intro t inZone asked commanded lamp
    obtain ⟨-, outside, joined, zones⟩ := evaluate_frame z s
    refine ⟨joined.trans ?_, fun g l m => ?_, fun g _ m => outside g ?_, zones, (evaluated_evaluate z s).frame⟩
    · refine congrArg (s.galleryOrigin ++ ·) ((List.filter_filter ..).trans (List.filter_congr fun g _ => ?_))
      exact (Bool.and_comm _ _).trans (Bool.and_assoc (inZone g) _ _).symm
    · have asks : asked g = asksCommand s g (target s z g) := by
        show (inZone g && _) = _
        rw [m]
        rfl
      rw [evaluated_record z g s ((mem_zoneGroups_eq s z g).mp m), ← asks]
      rfl
    · rw [← mem_zoneGroups_eq]
      exact Bool.eq_false_iff.mp m

end Sys2Proof.Machine
end

section
/-! PROOF. The checks of an enable and of a disable (R42, R54, R74, R76, R97, R98, R124, R125; O41). -/

namespace Sys2Proof.Machine

/-! ### A test on every entry of a table -/

theorem vector_any_iff {α : Type} {n : Nat} (v : Vector α n) (d : α) (p : α → Bool) :
    v.any p = true ↔ ∃ i < n, p (v[i]?.getD d) = true := by
  rw [Vector.any_eq_true]
  constructor
  · rintro ⟨i, l, h⟩
    exact ⟨i, l, by simpa [Vector.getElem?_eq_getElem l] using h⟩
  · rintro ⟨i, l, h⟩
    exact ⟨i, l, by simpa [Vector.getElem?_eq_getElem l] using h⟩

theorem points_none_iff (s : State) (p : Point → Bool) :
    (!s.points.any p) = true ↔ ∀ i < 192, p (s.point i) ≠ true := by
  rw [Bool.not_eq_true', Bool.eq_false_iff, ne_eq, vector_any_iff s.points factoryPoint]
  simp only [not_exists, not_and, State.point, ne_eq]

theorem objects_none_iff (s : State) (p : Obj → Bool) :
    (!s.objects.any p) = true ↔ ∀ i < 256, p (s.object i) ≠ true := by
  rw [Bool.not_eq_true', Bool.eq_false_iff, ne_eq, vector_any_iff s.objects factoryObject]
  simp only [not_exists, not_and, State.object, ne_eq]

theorem groups_none_iff (s : State) (p : Group → Bool) :
    (!s.groups.any p) = true ↔ ∀ i < 48, p (s.group i) ≠ true := by
  rw [Bool.not_eq_true', Bool.eq_false_iff, ne_eq, vector_any_iff s.groups factoryGroup]
  simp only [not_exists, not_and, State.group, ne_eq]

theorem zones_none_iff (s : State) (p : Zone → Bool) :
    (!s.zones.any p) = true ↔ ∀ i < 24, p (s.zone i) ≠ true := by
  rw [Bool.not_eq_true', Bool.eq_false_iff, ne_eq, vector_any_iff s.zones factoryZone]
  simp only [not_exists, not_and, State.zone, ne_eq]

theorem range_none_iff (n : Nat) (p : Nat → Bool) : (!(List.range n).any p) = true ↔ ∀ i < n, p i ≠ true := by
  simp only [Bool.not_eq_true', List.any_eq_false, List.mem_range, ne_eq]

/-! ### The enable checks -/

theorem nodeEnableAllowed_iff (s : State) (i : Nat) : nodeEnableAllowed s i = true ↔
    (s.node i).address ≠ s.device.ownAddress ∧
      ∀ m < 64, m ≠ i → (s.node m).enable = true → (s.node m).address ≠ (s.node i).address := by
  simp only [nodeEnableAllowed, Bool.and_eq_true, bne_iff_ne, range_none_iff, beq_iff_eq, not_and, ne_eq, and_imp]

theorem pointEnableAllowed_iff (s : State) (i : Nat) :
    let p := s.point i
    pointEnableAllowed s i = true ↔
      (s.node p.node).enable = true ∧ (s.node p.node).role = .sensor ∧ (s.zone p.zone).enable = true ∧
      ∀ j < 192, j ≠ i → (s.point j).enable = true → (s.point j).node = p.node → (s.point j).channel ≠ p.channel := by
  simp only [pointEnableAllowed, Bool.and_eq_true, bne_iff_ne, range_none_iff, beq_iff_eq, not_and, ne_eq,
    and_assoc]

theorem pointServes_iff (s : State) (z : Nat) (q : Quantity) (j : Nat) : pointServes s z q j = true ↔
    (s.point j).enable = true ∧ (s.point j).quantity = q ∧ (s.point j).zone = z := by
  simp only [pointServes, Bool.and_eq_true, beq_iff_eq, and_assoc]

theorem lampServes_iff (s : State) (z g : Nat) : lampServes s z g = true ↔
    (s.group g).enable = true ∧ (s.group g).kind = .lamp ∧ (s.group g).zone = z := by
  simp only [lampServes, Bool.and_eq_true, beq_iff_eq, and_assoc]

theorem objectEnableAllowed_iff (s : State) (i : Nat) :
    let o := s.object i
    let serves := fun j q => (s.point j).enable = true ∧ (s.point j).quantity = q ∧ (s.point j).zone = o.zone
    objectEnableAllowed s i = true ↔
      (s.zone o.zone).enable = true ∧ serves o.lightPoint .illum ∧ (∀ u, o.uvPoint = some u → serves u .uvr) ∧
      ∀ g, o.lampGroup = some g →
        (s.group g).enable = true ∧ (s.group g).kind = .lamp ∧ (s.group g).zone = o.zone := by
  simp only [objectEnableAllowed, Bool.and_eq_true, Option.all_eq_true, pointServes_iff, lampServes_iff, and_assoc]

theorem groupEnableAllowed_iff (s : State) (i : Nat) :
    let gr := s.group i
    groupEnableAllowed s i = true ↔
      (s.zone gr.zone).enable = true ∧ (s.node gr.node).enable = true ∧ (s.node gr.node).role = .actuator ∧
      ∀ h < 48, h ≠ i → (s.group h).enable = true → (s.group h).node = gr.node →
        (s.group h).channel ≠ gr.channel := by
  simp only [groupEnableAllowed, Bool.and_eq_true, bne_iff_ne, range_none_iff, beq_iff_eq, not_and, ne_eq,
    and_assoc]

/-! ### The disable checks -/

theorem nodeDisableAllowed_iff (s : State) (i : Nat) : nodeDisableAllowed s i = true ↔
    (∀ j < 192, (s.point j).enable = true → (s.point j).node ≠ i) ∧
      ∀ g < 48, (s.group g).enable = true → (s.group g).node ≠ i := by
  simp only [nodeDisableAllowed, Bool.and_eq_true, points_none_iff, groups_none_iff, beq_iff_eq, not_and, ne_eq]

theorem pointDisableAllowed_iff (s : State) (i : Nat) : pointDisableAllowed s i = true ↔
    ∀ j < 256, (s.object j).enable = true → (s.object j).lightPoint ≠ i ∧ (s.object j).uvPoint ≠ some i := by
  simp only [pointDisableAllowed, objects_none_iff, Bool.and_eq_true, Bool.or_eq_true, beq_iff_eq, not_and, not_or,
    ne_eq]

theorem groupDisableAllowed_iff (s : State) (i : Nat) : groupDisableAllowed s i = true ↔
    (∀ j < 256, (s.object j).enable = true → (s.object j).lampGroup ≠ some i) ∧
      ∀ z < 24, (s.zone z).enable = true → (s.zone z).shade ≠ some i := by
  simp only [groupDisableAllowed, Bool.and_eq_true, objects_none_iff, zones_none_iff, beq_iff_eq, not_and, ne_eq]

theorem zoneDisableAllowed_iff (s : State) (i : Nat) : zoneDisableAllowed s i = true ↔
    (∀ j < 192, (s.point j).enable = true → (s.point j).zone ≠ i) ∧
      (∀ j < 256, (s.object j).enable = true → (s.object j).zone ≠ i) ∧
      ∀ g < 48, (s.group g).enable = true → (s.group g).zone ≠ i := by
  simp only [zoneDisableAllowed, Bool.and_eq_true, points_none_iff, objects_none_iff, groups_none_iff, beq_iff_eq,
    not_and, ne_eq, and_assoc]

/-! ### The checks before and after the cursor is loaded -/

theorem allowed_congr {s t : State} (d : t.device = s.device) (n : t.nodes = s.nodes) (p : t.points = s.points)
    (o : t.objects = s.objects) (g : t.groups = s.groups) (z : t.zones = s.zones) (table : TableId) (i : Nat) :
    enableAllowed t table i = enableAllowed s table i ∧ disableAllowed t table i = disableAllowed s table i ∧
      entryEnabled t table i = entryEnabled s table i := by
  have serves : ∀ y q, pointServes t y q = pointServes s y q := fun y q => funext fun j => by
    simp only [pointServes, point_congr p]
  have lamps : ∀ y, lampServes t y = lampServes s y := fun y => funext fun j => by
    simp only [lampServes, group_congr g]
  cases table <;>
    simp only [enableAllowed, disableAllowed, entryEnabled, nodeEnableAllowed, pointEnableAllowed, objectEnableAllowed,
      groupEnableAllowed, zoneEnableAllowed, nodeDisableAllowed, pointDisableAllowed, groupDisableAllowed,
      zoneDisableAllowed, serves, lamps, node_congr n, point_congr p, object_congr o, group_congr g, zone_congr z, d, p,
      o, g, z, and_self]

end Sys2Proof.Machine
end

section
/-! PROOF. A request of one enable write: the entry, the check, the answer (R162; O41). -/

namespace Sys2Proof.Machine

/-- R41, R54, R75, R97, R124: the enable of an entry. -/
def enableEntry (t : TableId) (i : Nat) : State → State :=
  match t with
  | .node => enableNode i
  | .point => enablePoint i
  | .object => enableObject i
  | .group => enableGroup i
  | .zone => enableZone i
  | .device => id
  | .condition => id
  | .counter => id

/-- R41, R54, R76, R98, R125: the disable of an entry. -/
def disableEntry (t : TableId) (i : Nat) : State → State :=
  match t with
  | .node => disableNode i
  | .point => disablePoint i
  | .object => disableObject i
  | .group => disableGroup i
  | .zone => disableZone i
  | .device => id
  | .condition => id
  | .counter => id

theorem writeOwned_enable (t : TableId) (i : Nat) (v : Half) (s : State) (h : hasEnable t = true) :
    writeOwned t ⟨i, 0⟩ v s = writeEnable (entryEnabled s t i) v (enableAllowed s t i) (disableAllowed s t i)
      (enableEntry t i) (disableEntry t i) s := by
  cases t with
  | node | point | object | group | zone => rfl
  | device | condition | counter => cases h

/-- R161, R162: the value of an enable field is judged, and then its check is made. -/
theorem writeValue_enable (t : TableId) (i : Nat) (v : Half) (s : State) (h : hasEnable t = true) :
    writeValue t ⟨i, 0⟩ v s =
      if i < entryCount t ∧ v.toNat ≤ 1 then
        writeEnable (entryEnabled s t i) v (enableAllowed s t i) (disableAllowed s t i) (enableEntry t i)
          (disableEntry t i) s
      else (s, .range) := by
  have inside : inTable t ⟨i, 0⟩ = decide (i < entryCount t) := by
    cases t with
    | node | point | object | group | zone => simp [inTable, fieldCount]
    | device | condition | counter => cases h
  have config : access t ⟨i, 0⟩ = .config := by
    cases t with
    | node | point | object | group | zone => rfl
    | device | condition | counter => cases h
  have code : codeAccepted t ⟨i, 0⟩ v = decide (v.toNat ≤ 1) := by
    cases t with
    | node | point | object | group | zone => rfl
    | device | condition | counter => cases h
  simp only [writeValue, inside, config, code, writeOwned_enable t i v s h, reduceCtorEq, false_and, if_false,
    Bool.not_eq_true', decide_eq_false_iff_not]
  by_cases l : i < entryCount t <;> by_cases b : v.toNat ≤ 1 <;> simp [l, b]

theorem exec_enableWrite (rq : Requester) (t : TableId) (entry v : Half) (s : State) :
    exec (.enableWrite rq t entry v) s =
      .next (answered rq (writeValue t ⟨entry.toNat, 0⟩ v (fieldReached t entry 0 s)).2 (fieldReached t entry 0 s)
        (writeValue t ⟨entry.toNat, 0⟩ v (fieldReached t entry 0 s)).1) :=
  request_field rq t entry 0 v s (by decide)

/-- An enable write that leaves the state as it is answers, and makes no grant. -/
theorem exec_enableWrite_kept (rq : Requester) (t : TableId) (entry v : Half) (s : State) (st : Status)
    (w : writeValue t ⟨entry.toNat, 0⟩ v (fieldReached t entry 0 s) = (fieldReached t entry 0 s, st)) :
    exec (.enableWrite rq t entry v) s = .next (answer rq st (fieldReached t entry 0 s)) := by
  rw [exec_enableWrite, w]
  exact congrArg Host.Outcome.next (answered_self rq st _)

section judged

variable (rq : Requester) (t : TableId) (entry : Half) (s : State) (h : hasEnable t = true)

theorem allowed_fieldReached (table : TableId) (i : Nat) :
    enableAllowed (fieldReached t entry 0 s) table i = enableAllowed s table i ∧
      disableAllowed (fieldReached t entry 0 s) table i = disableAllowed s table i ∧
      entryEnabled (fieldReached t entry 0 s) table i = entryEnabled s table i :=
  allowed_congr (device_fieldReached ..) (nodes_fieldReached ..) (points_fieldReached ..) (objects_fieldReached ..)
    (groups_fieldReached ..) (zones_fieldReached ..) table i

theorem disableAllowed_fieldReached (table : TableId) (i : Nat) :
    disableAllowed (fieldReached t entry 0 s) table i = disableAllowed s table i := by
  obtain ⟨-, same, -⟩ := allowed_fieldReached t entry s table i
  exact same

theorem entryEnabled_fieldReached (table : TableId) (i : Nat) :
    entryEnabled (fieldReached t entry 0 s) table i = entryEnabled s table i := by
  obtain ⟨-, -, same⟩ := allowed_fieldReached t entry s table i
  exact same

include h

theorem enableWrite_range (v : Half) (r : entryCount t ≤ entry.toNat ∨ 1 < v.toNat) :
    exec (.enableWrite rq t entry v) s = .next (answer rq .range (fieldReached t entry 0 s)) := by
  refine exec_enableWrite_kept rq t entry v s .range ?_
  rw [writeValue_enable t _ v _ h, if_neg (by omega)]

variable (l : entry.toNat < entryCount t)
include l

theorem writeValue_on :
    writeValue t ⟨entry.toNat, 0⟩ 1 (fieldReached t entry 0 s) =
      if entryEnabled s t entry.toNat then (fieldReached t entry 0 s, .ok)
      else if enableAllowed s t entry.toNat then (enableEntry t entry.toNat (fieldReached t entry 0 s), .ok)
      else (fieldReached t entry 0 s, .refError) := by
  obtain ⟨on, -, enabled⟩ := allowed_fieldReached t entry s t entry.toNat
  rw [writeValue_enable t _ 1 _ h, if_pos ⟨l, by decide⟩, on, enabled]
  rfl

theorem writeValue_off :
    writeValue t ⟨entry.toNat, 0⟩ 0 (fieldReached t entry 0 s) =
      if entryEnabled s t entry.toNat then
        if disableAllowed s t entry.toNat then (disableEntry t entry.toNat (fieldReached t entry 0 s), .ok)
        else (fieldReached t entry 0 s, .refError)
      else (fieldReached t entry 0 s, .ok) := by
  obtain ⟨-, off, enabled⟩ := allowed_fieldReached t entry s t entry.toNat
  rw [writeValue_enable t _ 0 _ h, if_pos ⟨l, by decide⟩, off, enabled]
  rfl

/-- R162: an enable that its check passes. -/
theorem enableWrite_on (e : entryEnabled s t entry.toNat = false) (a : enableAllowed s t entry.toNat = true) :
    exec (.enableWrite rq t entry 1) s = .next (answered rq .ok (fieldReached t entry 0 s)
      (enableEntry t entry.toNat (fieldReached t entry 0 s))) := by
  rw [exec_enableWrite, writeValue_on t entry s h l, e, a]
  rfl

/-- R162: a disable that its check passes. -/
theorem enableWrite_off (e : entryEnabled s t entry.toNat = true) (a : disableAllowed s t entry.toNat = true) :
    exec (.enableWrite rq t entry 0) s = .next (answered rq .ok (fieldReached t entry 0 s)
      (disableEntry t entry.toNat (fieldReached t entry 0 s))) := by
  rw [exec_enableWrite, writeValue_off t entry s h l, e, a]
  rfl

/-- R162: a write of the present value, and one that its check refuses. -/
theorem enableWrite_refused :
    (entryEnabled s t entry.toNat = true →
      exec (.enableWrite rq t entry 1) s = .next (answer rq .ok (fieldReached t entry 0 s))) ∧
    (entryEnabled s t entry.toNat = false →
      exec (.enableWrite rq t entry 0) s = .next (answer rq .ok (fieldReached t entry 0 s))) ∧
    (entryEnabled s t entry.toNat = false → enableAllowed s t entry.toNat = false →
      exec (.enableWrite rq t entry 1) s = .next (answer rq .refError (fieldReached t entry 0 s))) ∧
    (entryEnabled s t entry.toNat = true → disableAllowed s t entry.toNat = false →
      exec (.enableWrite rq t entry 0) s = .next (answer rq .refError (fieldReached t entry 0 s))) := by
  refine ⟨fun e => ?_, fun e => ?_, fun e a => ?_, fun e a => ?_⟩
  · refine exec_enableWrite_kept rq t entry 1 s .ok ?_
    rw [writeValue_on t entry s h l, e]
    rfl
  · refine exec_enableWrite_kept rq t entry 0 s .ok ?_
    rw [writeValue_off t entry s h l, e]
    rfl
  · refine exec_enableWrite_kept rq t entry 1 s .refError ?_
    rw [writeValue_on t entry s h l, e, a]
    rfl
  · refine exec_enableWrite_kept rq t entry 0 s .refError ?_
    rw [writeValue_off t entry s h l, e, a]
    rfl

end judged

end Sys2Proof.Machine
end

section
/-! PROOF. What the enable and the disable of each entry do, written out (O41). -/

namespace Sys2Proof.Machine

/-! ### Nodes (R41) -/

theorem enableNode_eq (i : Nat) (u : State) (nd : Node) (own : u.node i = nd) : enableNode i u =
    nodeBack i { u.modNode i fun _ =>
        { nd with enable := true, state := .hunting, runLength := 0, misses := 0, recheckDue := false } with
      pollList := insertPoll ⟨i, runningMs u⟩ (removePoll i u.pollList) } := by
  subst own
  rw [enableNode, modNode_at]
  rfl

/-- A change of the points of a node that has none enabled changes nothing. -/
theorem points_map_none (n : Nat) (s : State) (f : Point → Point)
    (h : ∀ j < 192, (s.point j).enable = true → (s.point j).node ≠ n) :
    (s.points.map fun p => if p.enable && p.node == n then f p else p) = s.points := by
  ext j l : 1
  rw [Vector.getElem_map, if_neg]
  rw [getElem_points s j l, Bool.and_eq_true, beq_iff_eq]
  exact fun ⟨e, m⟩ => h j l e m

theorem changeNode_pointless (n : Nat) (f : Node → Node) (s : State) (l : n < 64)
    (h : ∀ j < 192, (s.point j).enable = true → (s.point j).node ≠ n) (k : (f (s.node n)).state ≠ .online) :
    changeNode n f s = s.modNode n fun _ => f (s.node n) := by
  by_cases o : (s.node n).state = .online
  · rw [changeNode_leaves n f s l o k, points_map_none n s _ h]
    rfl
  · exact changeNode_stays n f s l (iff_of_false k o)

/-- R41: the conditions of a node that are active by its state. -/
theorem clearNodeConditions_eq (n : Nat) (st : NodeState) (s : State) : clearNodeConditions n st s =
    if st = .silent then clear .nodeSilent n s else if st = .displaced then clear .nodeDisplaced n s else s := by
  cases st <;> rfl

theorem disableNode_eq (i : Nat) (u : State) (nd : Node) (pl : List PollEntry) (l : i < 64) (own : u.node i = nd)
    (list : u.pollList = pl) (free : nodeDisableAllowed u i = true) : disableNode i u =
    let off := { u.modNode i fun _ =>
        { nd with enable := false, state := .absent, misses := 0, recheckDue := false } with
      pollList := pl.filter fun e => e.node != i }
    if nd.state = .silent then clear .nodeSilent i off
    else if nd.state = .displaced then clear .nodeDisplaced i off else off := by
  subst own list
  rw [disableNode]
  dsimp only
  rw [changeNode_pointless i _ u l ((nodeDisableAllowed_iff u i).mp free).1 (by simp), clearNodeConditions_eq]
  rfl

/-! ### Points (R54) -/

theorem enablePoint_eq (i : Nat) (u : State) (p : Point) (own : u.point i = p) :
    enablePoint i u = u.modPoint i fun _ => { p with
      enable := true, value := 0, state := .lost, age := 65535, pending := none, clamps := 0, accepted := false,
      fault := false } := by
  subst own
  exact modPoint_at u i _

theorem disablePoint_eq (i : Nat) (u : State) (p : Point) (own : u.point i = p) : disablePoint i u =
    let off := u.modPoint i fun _ => { p with enable := false, state := .lost, pending := none, fault := false }
    if p.fault then clear .pointFault i off else off := by
  subst own
  rw [disablePoint, modPoint_at]
  rfl

/-! ### Objects (R75, R76) -/

theorem enableObject_eq (i : Nat) (u : State) (o : Obj) (l : i < 256) (own : u.object i = o) : enableObject i u =
    let on := u.modObject i fun _ => { o with enable := true }
    ceilingCore i (if o.unknown then raise .doseUnknown i o.zone on else on) := by
  subst own
  have stands := object_modObject_self u i (fun _ => { u.object i with enable := true }) l
  rw [enableObject, modObject_at]
  dsimp only
  rw [stands]

theorem disableObject_eq (i : Nat) (u : State) (o : Obj) (own : u.object i = o) : disableObject i u =
    clearObjectConditions i o (u.modObject i fun _ => { o with
      enable := false, exhausted := false, paceShort := false, degraded := false, overMarker := false }) := by
  subst own
  rw [disableObject, modObject_at]

/-! ### Zones (R124, R125) -/

theorem offerTrim_enabled (z : Nat) (s : State) (zn : Zone) (own : s.zone z = zn) (e : zn.enable = true) :
    offerTrim z s = if zn.airAddress = 0 then s else offerOrigin (trimFrame z zn) s := by
  subst own
  rw [offerTrim, e, Bool.true_and]
  by_cases a : (s.zone z).airAddress = 0 <;> simp [a]

/-- R124: the zone that an enable leaves. -/
def zoneStarted (zn : Zone) : Zone := { zn with
  enable := true, rh := startClimate zn.rh, temp := startClimate zn.temp, hourSum := 0, hourCount := 0, ring := [],
  span := 0, blind := false, drift := false }

theorem enableZone_eq (z : Nat) (u : State) (zn : Zone) (l : z < 24) (own : u.zone z = zn) : enableZone z u =
    let on := u.modZone z fun _ => zoneStarted zn
    judgeModeCore z (if zn.airAddress = 0 then on else offerOrigin (trimFrame z (zoneStarted zn)) on) := by
  subst own
  rw [enableZone, modZone_at]
  dsimp only
  exact congrArg (judgeModeCore z)
    (offerTrim_enabled z (u.modZone z fun _ => zoneStarted (u.zone z)) _ (zone_modZone_self _ _ _ l) rfl)

theorem excursionActive_iff (b : BandState) : excursionActive b = true ↔
    b = .high ∨ b = .low ∨ b = .returningHigh ∨ b = .returningLow := by
  cases b <;> simp [excursionActive]

theorem disableZone_eq (z : Nat) (u : State) (zn : Zone) (own : u.zone z = zn) : disableZone z u =
    let off := u.modZone z fun _ => { zn with
      enable := false, rh := stopClimate zn.rh, temp := stopClimate zn.temp, blind := false, drift := false }
    let excursion := fun c : Climate =>
      c.band = .high ∨ c.band = .low ∨ c.band = .returningHigh ∨ c.band = .returningLow
    let c1 := if excursion zn.rh then clear .rhExcursion z off else off
    let c2 := if excursion zn.temp then clear .tExcursion z c1 else c1
    let c3 := if zn.drift then clear .rhDrift z c2 else c2
    if zn.blind then clear .zoneBlind z c3 else c3 := by
  subst own
  rw [disableZone, modZone_at]
  simp only [clearIf, excursionActive_iff]

/-! ### Groups (R97, R98) -/

/-- R98: what a disable leaves, before its conditions are cleared. -/
def groupOff (g : Nat) (u : State) : State :=
  { u with galleryOrigin := u.galleryOrigin.filter fun h => h != g }.modGroup g fun x => { x with
    enable := false, cap := none, phase := .idle, misses := 0, resend := true,
    unavailable := false, blind := false, mismatch := false }

/-- R98: the conditions that a disable clears. -/
def groupCleared (g : Nat) (gr : Group) (rest : State) : State :=
  let c1 := if gr.blind then clear .groupBlind g rest else rest
  let c2 := if gr.unavailable ∨ 3 ≤ gr.misses then clear .actuatorSilent g c1 else c1
  if gr.mismatch then clear .levelMismatch g c2 else c2

theorem clearGroupConditions_eq (g : Nat) (gr : Group) (s : State) :
    clearGroupConditions g gr s = groupCleared g gr s := by
  simp only [clearGroupConditions, groupCleared, clearIf, groupSilent_true]

theorem reported_clearGroupConditions (g : Nat) (gr : Group) (s : State) :
    Reported s (clearGroupConditions g gr s) :=
  ((reported_clearIf ..).trans (reported_clearIf ..)).trans (reported_clearIf ..)

theorem group_groupOff (g h : Nat) (u : State) (ne : h ≠ g) : (groupOff g u).group h = u.group h :=
  group_modGroup_other { u with galleryOrigin := u.galleryOrigin.filter fun h => h != g } g h _ (Ne.symm ne)

/-- R98, R102: the disable, with the pending evaluation of the zone. -/
theorem disableGroup_eq (g : Nat) (u : State) (gr : Group) (l : g < 48) (own : u.group g = gr) :
    ((u.zone gr.zone).evalPending = true → restOfZoneIdle u g → disableGroup g u =
      evaluate gr.zone
        ((groupCleared g gr (groupOff g u)).modZone gr.zone fun zn => { zn with evalPending := false })) ∧
    ((u.zone gr.zone).evalPending = false ∨ ¬restOfZoneIdle u g →
      disableGroup g u = groupCleared g gr (groupOff g u)) := by
  subst own
  have r := reported_clearGroupConditions g (u.group g) (groupOff g u)
  have run : disableGroup g u = rejudgeZone (u.group g).zone (groupCleared g (u.group g) (groupOff g u)) := by
    rw [← clearGroupConditions_eq]
    rfl
  rw [clearGroupConditions_eq] at r
  obtain ⟨waits, runs⟩ := rejudgeZone_of_idle u (groupCleared g (u.group g) (groupOff g u)) g
    (by rw [r.group, groupOff, group_modGroup_self _ _ _ l])
    (fun h ne => (r.group h).trans (group_groupOff g h u ne)) fun z => r.zone z
  rw [run]
  exact ⟨runs, waits⟩

end Sys2Proof.Machine
end

section
/-! PROOF. The enable of one entry alone changes, and what the entry holds then (R41, R54, R74 to R76, R97, R98, R124,
R125; O41). -/

namespace Sys2Proof.Machine

/-! ### What leaves every enable as it is -/

/-- From `s` to `t` no entry's enable has changed, and the settings, the Calendar and the store are kept. -/
structure KeepsEnables (s t : State) : Prop where
  entries : ∀ table j, entryEnabled t table j = entryEnabled s table j
  device : t.device = s.device
  calendar : t.calendar = s.calendar
  store : t.store = s.store

theorem KeepsEnables.trans {s t u : State} (a : KeepsEnables s t) (b : KeepsEnables t u) : KeepsEnables s u where
  entries table j := (b.entries table j).trans (a.entries table j)
  device := b.device.trans a.device
  calendar := b.calendar.trans a.calendar
  store := b.store.trans a.store

theorem entryEnabled_of {s t : State} (nodes : ∀ j, (t.node j).enable = (s.node j).enable)
    (points : ∀ j, (t.point j).enable = (s.point j).enable) (objects : ∀ j, (t.object j).enable = (s.object j).enable)
    (groups : ∀ j, (t.group j).enable = (s.group j).enable) (zones : ∀ j, (t.zone j).enable = (s.zone j).enable)
    (table : TableId) (j : Nat) : entryEnabled t table j = entryEnabled s table j := by
  cases table with
  | node => exact nodes j
  | point => exact points j
  | object => exact objects j
  | group => exact groups j
  | zone => exact zones j
  | device | condition | counter => rfl

theorem keepsEnables_pollList (s : State) (l : List PollEntry) : KeepsEnables s { s with pollList := l } :=
  ⟨entryEnabled_of (fun _ => rfl) (fun _ => rfl) (fun _ => rfl) (fun _ => rfl) fun _ => rfl, rfl, rfl, rfl⟩

theorem enable_of_groupsCore {s t : State} (h : t.groups.map groupSettings = s.groups.map groupSettings) (i : Nat) :
    (t.group i).enable = (s.group i).enable := by
  have e := congrArg (fun v : Vector Group 48 => (v[i]?.getD factoryGroup).enable) h
  simp only [Vector.getElem?_map] at e
  unfold State.group
  cases ht : t.groups[i]? <;> cases hs : s.groups[i]? <;> simp_all [groupSettings]

theorem Lit.keepsEnables {s t : State} (h : Lit s t) : KeepsEnables s t where
  entries := entryEnabled_of (fun j => by rw [h.node]) (fun j => by rw [h.point]) (fun j => by rw [h.object])
    (enable_of_groupsCore h.groupsCore) fun j => (congrArg Zone.enable (h.zone j) :)
  device := h.device
  calendar := h.calendar
  store := h.store

theorem keepsEnables_ceilingCore (i : Nat) (s : State) : KeepsEnables s (ceilingCore i s) := by
  have rest := exceptObjects_ceilingCore i s
  obtain ⟨calendar, -, nodes, points, device, store⟩ := fields_exceptObjects rest
  refine ⟨entryEnabled_of (fun j => by rw [node_congr nodes]) (fun j => by rw [point_congr points]) (fun j => ?_)
    (enable_of_groupsCore (congrArg State.groups rest :)) fun j => (congrArg Zone.enable (zone_exceptObjects rest j) :),
    device, calendar, store⟩
  rw [object_ceilingCore]
  split
  · obtain ⟨c, e, p, paced⟩ := pacedCeiling_frame (s.object j)
    rw [paced]
  · rfl

theorem exceptModes_judgeModeCore (z : Nat) (s : State) : exceptModes (judgeModeCore z s) = exceptModes s := by
  unfold judgeModeCore
  split
  · exact (evaluated_requestCore _ _).lit.exceptModes.trans (exceptModes_modZone s z _ fun _ => rfl)
  · rfl

theorem keepsEnables_judgeModeCore (z : Nat) (s : State) : KeepsEnables s (judgeModeCore z s) := by
  have rest := exceptModes_judgeModeCore z s
  obtain ⟨calendar, -, nodes, points, device, store, objects⟩ := fields_exceptModes rest
  exact ⟨entryEnabled_of (fun j => by rw [node_congr nodes]) (fun j => by rw [point_congr points])
    (fun j => by rw [object_congr objects]) (enable_of_groupsCore (congrArg State.groups rest :))
    fun j => (congrArg Zone.enable (zoneOfMode_eq rest j) :), device, calendar, store⟩

/-! ### The enable of one entry -/

/-- From `s` to `t` the enable of one entry has become `b`, and what `KeepsEnables` says holds of all else. -/
structure SetsEnable (table : TableId) (i : Nat) (b : Bool) (s t : State) : Prop where
  entries : ∀ table' j, entryEnabled t table' j = if table' = table ∧ j = i then b else entryEnabled s table' j
  device : t.device = s.device
  calendar : t.calendar = s.calendar
  store : t.store = s.store

theorem SetsEnable.keeps {table : TableId} {i : Nat} {b : Bool} {s t u : State} (h : SetsEnable table i b s t)
    (k : KeepsEnables t u) : SetsEnable table i b s u where
  entries table' j := (k.entries table' j).trans (h.entries table' j)
  device := k.device.trans h.device
  calendar := k.calendar.trans h.calendar
  store := k.store.trans h.store

theorem KeepsEnables.sets {table : TableId} {i : Nat} {b : Bool} {s t u : State} (k : KeepsEnables s t)
    (h : SetsEnable table i b t u) : SetsEnable table i b s u where
  entries table' j := by rw [h.entries, k.entries]
  device := h.device.trans k.device
  calendar := h.calendar.trans k.calendar
  store := h.store.trans k.store

theorem setsEnable_of {table : TableId} {i : Nat} {b : Bool} {s t : State} (own : entryEnabled t table i = b)
    (other : ∀ table' j, table' ≠ table ∨ j ≠ i → entryEnabled t table' j = entryEnabled s table' j)
    (device : t.device = s.device) (calendar : t.calendar = s.calendar) (store : t.store = s.store) :
    SetsEnable table i b s t where
  entries table' j := by
    by_cases c : table' = table ∧ j = i
    · obtain ⟨rfl, rfl⟩ := c
      rw [if_pos ⟨rfl, rfl⟩, own]
    · rw [if_neg c]
      exact other table' j (Decidable.not_and_iff_or_not.mp c)
  device := device
  calendar := calendar
  store := store

theorem setsEnable_modNode (s : State) (i : Nat) (f : Node → Node) {b : Bool} (l : i < 64)
    (h : ∀ x, (f x).enable = b) : SetsEnable .node i b s (s.modNode i f) := by
  have own := congrArg Node.enable (node_modNode_self s i f l)
  refine setsEnable_of (own.trans (h _)) (fun table' j n => ?_) rfl rfl rfl
  cases table' with
  | node => exact congrArg Node.enable (node_modNode_other s i j _ (Ne.symm (n.resolve_left fun c => c rfl)))
  | point | object | group | zone | device | condition | counter => rfl

theorem setsEnable_modPoint (s : State) (i : Nat) (f : Point → Point) {b : Bool} (l : i < 192)
    (h : ∀ x, (f x).enable = b) : SetsEnable .point i b s (s.modPoint i f) := by
  have own := congrArg Point.enable (point_modPoint_self s i f l)
  refine setsEnable_of (own.trans (h _)) (fun table' j n => ?_) rfl rfl rfl
  cases table' with
  | point => exact congrArg Point.enable (point_modPoint_other s i j _ (Ne.symm (n.resolve_left fun c => c rfl)))
  | node | object | group | zone | device | condition | counter => rfl

theorem setsEnable_modObject (s : State) (i : Nat) (f : Obj → Obj) {b : Bool} (l : i < 256)
    (h : ∀ x, (f x).enable = b) : SetsEnable .object i b s (s.modObject i f) := by
  have own := congrArg Obj.enable (object_modObject_self s i f l)
  refine setsEnable_of (own.trans (h _)) (fun table' j n => ?_) rfl rfl rfl
  cases table' with
  | object => exact congrArg Obj.enable (object_modObject_other s i j _ (Ne.symm (n.resolve_left fun c => c rfl)))
  | node | point | group | zone | device | condition | counter => rfl

theorem setsEnable_modGroup (s : State) (i : Nat) (f : Group → Group) {b : Bool} (l : i < 48)
    (h : ∀ x, (f x).enable = b) : SetsEnable .group i b s (s.modGroup i f) := by
  have own := congrArg Group.enable (group_modGroup_self s i f l)
  refine setsEnable_of (own.trans (h _)) (fun table' j n => ?_) rfl rfl rfl
  cases table' with
  | group => exact congrArg Group.enable (group_modGroup_other s i j _ (Ne.symm (n.resolve_left fun c => c rfl)))
  | node | point | object | zone | device | condition | counter => rfl

theorem setsEnable_modZone (s : State) (i : Nat) (f : Zone → Zone) {b : Bool} (l : i < 24)
    (h : ∀ x, (f x).enable = b) : SetsEnable .zone i b s (s.modZone i f) := by
  have own := congrArg Zone.enable (zone_modZone_self s i f l)
  refine setsEnable_of (own.trans (h _)) (fun table' j n => ?_) rfl rfl rfl
  cases table' with
  | zone => exact congrArg Zone.enable (zone_modZone_other s i j _ (Ne.symm (n.resolve_left fun c => c rfl)))
  | node | point | object | group | device | condition | counter => rfl

/-! ### What the entry holds then -/

/-- R124, R125: a zone without values, both bands in band. -/
def Blank (z : Zone) : Prop :=
  z.rh.value = none ∧ z.temp.value = none ∧ z.rh.band = .inBand ∧ z.temp.band = .inBand

/-- R41, R54, R75, R76, R124, R125: what the entry whose enable has become `b` holds in `t`. -/
structure HoldsAfter (table : TableId) (i : Nat) (b : Bool) (s t : State) : Prop where
  hunting : table = .node → b = true →
    (t.node i).state = .hunting ∧ (t.node i).runLength = 0 ∧ (t.node i).misses = 0
  absent : table = .node → b = false → (t.node i).state = .absent ∧ ∀ e ∈ t.pollList, e.node ≠ i
  lost : table = .point → (t.point i).state = .lost ∧ (t.point i).pending = none
  dosed : table = .object → (t.object i).dose = (s.object i).dose ∧ (t.object i).remaining = (s.object i).remaining
  blank : table = .zone → Blank (t.zone i)

/-- R156: the reply and its grant leave what the entry holds. -/
theorem HoldsAfter.lit {table : TableId} {i : Nat} {b : Bool} {s t u : State} (h : HoldsAfter table i b s t)
    (k : Lit t u) : HoldsAfter table i b s u where
  hunting c e := by rw [k.node]; exact h.hunting c e
  absent c e := by rw [k.node, k.pollList]; exact h.absent c e
  lost c := by rw [k.point]; exact h.lost c
  dosed c := by rw [k.object]; exact h.dosed c
  blank c := by
    have rh : (u.zone i).rh = (t.zone i).rh := (congrArg Zone.rh (k.zone i) :)
    have temp : (u.zone i).temp = (t.zone i).temp := (congrArg Zone.temp (k.zone i) :)
    rw [Blank, rh, temp]
    exact h.blank c

/-- The entry's enable has become `b`, and the entry holds what its rule says. -/
def Switched (table : TableId) (i : Nat) (b : Bool) (s t : State) : Prop :=
  SetsEnable table i b s t ∧ HoldsAfter table i b s t

theorem switched_enableNode (i : Nat) (u : State) (l : i < 64) : Switched .node i true u (enableNode i u) := by
  rw [enableNode_eq i u _ rfl]
  let on := u.modNode i fun _ =>
    { u.node i with enable := true, state := .hunting, runLength := 0, misses := 0, recheckDue := false }
  let joined : State := { on with pollList := insertPoll ⟨i, runningMs u⟩ (removePoll i u.pollList) }
  have back := evaluated_nodeBack i joined
  have node : (nodeBack i joined).node i =
      { u.node i with enable := true, state := .hunting, runLength := 0, misses := 0, recheckDue := false } :=
    (back.node i).trans (node_modNode_self u i _ l)
  have sets : SetsEnable .node i true u joined :=
    (setsEnable_modNode u i _ l fun _ => rfl).keeps (keepsEnables_pollList on _)
  refine ⟨sets.keeps back.lit.keepsEnables, ?_, fun _ => nofun, nofun, nofun, nofun⟩
  intro _ _
  exact ⟨congrArg Node.state node, congrArg Node.runLength node, congrArg Node.misses node⟩

theorem switched_disableNode (i : Nat) (u : State) (l : i < 64) (free : nodeDisableAllowed u i = true) :
    Switched .node i false u (disableNode i u) := by
  let off := u.modNode i fun _ => { u.node i with enable := false, state := .absent, misses := 0, recheckDue := false }
  let left : State := { off with pollList := u.pollList.filter fun e => e.node != i }
  have r : Reported left (disableNode i u) := by
    rw [disableNode_eq i u _ _ l rfl rfl free]
    dsimp only
    split
    · exact reported_clear ..
    · split
      · exact reported_clear ..
      · exact .refl _
  have node : (disableNode i u).node i =
      { u.node i with enable := false, state := .absent, misses := 0, recheckDue := false } :=
    (r.node i).trans (node_modNode_self u i _ l)
  have sets : SetsEnable .node i false u left :=
    (setsEnable_modNode u i _ l fun _ => rfl).keeps (keepsEnables_pollList off _)
  refine ⟨sets.keeps r.lit.keepsEnables, fun _ => nofun, fun _ _ => ⟨congrArg Node.state node, fun e m => ?_⟩, nofun,
    nofun, nofun⟩
  rw [r.pollList] at m
  simpa using (List.mem_filter.mp m).2

theorem switched_enablePoint (i : Nat) (u : State) (l : i < 192) : Switched .point i true u (enablePoint i u) := by
  rw [enablePoint_eq i u _ rfl]
  refine ⟨setsEnable_modPoint u i _ l fun _ => rfl, nofun, nofun, fun _ => ?_, nofun, nofun⟩
  rw [point_modPoint_self _ _ _ l]
  exact ⟨rfl, rfl⟩

theorem switched_disablePoint (i : Nat) (u : State) (l : i < 192) : Switched .point i false u (disablePoint i u) := by
  let off := u.modPoint i fun _ => { u.point i with enable := false, state := .lost, pending := none, fault := false }
  have r : Reported off (disablePoint i u) := by
    rw [disablePoint_eq i u _ rfl]
    dsimp only
    split
    · exact reported_clear ..
    · exact .refl _
  have sets : SetsEnable .point i false u off := setsEnable_modPoint u i _ l fun _ => rfl
  refine ⟨sets.keeps r.lit.keepsEnables, nofun, nofun, fun _ => ?_, nofun, nofun⟩
  rw [r.point, point_modPoint_self _ _ _ l]
  exact ⟨rfl, rfl⟩

theorem switched_enableObject (i : Nat) (u : State) (l : i < 256) :
    Switched .object i true u (enableObject i u) := by
  rw [enableObject_eq i u _ l rfl]
  dsimp only
  let on := u.modObject i fun _ => { u.object i with enable := true }
  have r : Reported on (if (u.object i).unknown then raise .doseUnknown i (u.object i).zone on else on) := by
    split
    · exact reported_raise ..
    · exact .refl _
  generalize (if (u.object i).unknown then raise .doseUnknown i (u.object i).zone on else on) = m at r
  have object : (ceilingCore i m).object i = pacedCeiling { u.object i with enable := true } := by
    have own : m.object i = { u.object i with enable := true } := (r.object i).trans (object_modObject_self u i _ l)
    rw [object_ceilingCore, own, if_pos ⟨rfl, rfl⟩]
  have sets : SetsEnable .object i true u on := setsEnable_modObject u i _ l fun _ => rfl
  refine ⟨(sets.keeps r.lit.keepsEnables).keeps (keepsEnables_ceilingCore i m), nofun, nofun, nofun, fun _ => ?_, nofun⟩
  obtain ⟨c, e, p, paced⟩ := pacedCeiling_frame { u.object i with enable := true }
  rw [object, paced]
  exact ⟨rfl, rfl⟩

theorem switched_disableObject (i : Nat) (u : State) (l : i < 256) :
    Switched .object i false u (disableObject i u) := by
  let off := u.modObject i fun _ => { u.object i with
    enable := false, exhausted := false, paceShort := false, degraded := false, overMarker := false }
  have r : Reported off (disableObject i u) := by
    rw [disableObject_eq i u _ rfl]
    exact ((((reported_clearIf ..).trans (reported_clearIf ..)).trans (reported_clearIf ..)).trans
      (reported_clearIf ..)).trans (reported_clearIf ..)
  have sets : SetsEnable .object i false u off := setsEnable_modObject u i _ l fun _ => rfl
  refine ⟨sets.keeps r.lit.keepsEnables, nofun, nofun, nofun, fun _ => ?_, nofun⟩
  rw [r.object, object_modObject_self _ _ _ l]
  exact ⟨rfl, rfl⟩

theorem switched_enableGroup (g : Nat) (u : State) (l : g < 48) : Switched .group g true u (enableGroup g u) := by
  have sets : SetsEnable .group g true u
      (u.modGroup g fun gr => { restGroup gr with enable := true, level := gr.cleaning }) :=
    setsEnable_modGroup u g _ l fun _ => rfl
  exact ⟨sets.keeps (evaluated_requestCore _ _).lit.keepsEnables, nofun, nofun, nofun, nofun, nofun⟩

theorem switched_disableGroup (g : Nat) (u : State) (l : g < 48) : Switched .group g false u (disableGroup g u) := by
  let withdrawn : State := { u with galleryOrigin := u.galleryOrigin.filter fun h => h != g }
  have withdraws : Lit u withdrawn := lit_of u withdrawn rfl rfl rfl rfl rfl rfl
  have off : SetsEnable .group g false u (groupOff g u) :=
    withdraws.keepsEnables.sets (setsEnable_modGroup withdrawn g _ l fun _ => rfl)
  have cleared := (reported_clearGroupConditions g (u.group g) (groupOff g u)).lit
  have rejudged := (evaluated_rejudgeZone (u.group g).zone (clearGroupConditions g (u.group g) (groupOff g u))).lit
  exact ⟨off.keeps (cleared.trans rejudged).keepsEnables, nofun, nofun, nofun, nofun, nofun⟩

theorem switched_enableZone (z : Nat) (u : State) (l : z < 24) : Switched .zone z true u (enableZone z u) := by
  rw [enableZone_eq z u _ l rfl]
  dsimp only
  let on := u.modZone z fun _ => zoneStarted (u.zone z)
  have r : Reported on (if (u.zone z).airAddress = 0 then on
      else offerOrigin (trimFrame z (zoneStarted (u.zone z))) on) := by
    split
    · exact .refl _
    · exact reported_offerOrigin _ _ (by simp [trimFrame])
  generalize (if (u.zone z).airAddress = 0 then on
    else offerOrigin (trimFrame z (zoneStarted (u.zone z))) on) = m at r
  have own : zoneOfMode ((judgeModeCore z m).zone z) = zoneOfMode (zoneStarted (u.zone z)) := by
    rw [zoneOfMode_eq (exceptModes_judgeModeCore z m) z, r.zone, zone_modZone_self _ _ _ l]
  have rh : ((judgeModeCore z m).zone z).rh = startClimate (u.zone z).rh := (congrArg Zone.rh own :)
  have temp : ((judgeModeCore z m).zone z).temp = startClimate (u.zone z).temp := (congrArg Zone.temp own :)
  have sets : SetsEnable .zone z true u on := setsEnable_modZone u z _ l fun _ => rfl
  refine ⟨(sets.keeps r.lit.keepsEnables).keeps (keepsEnables_judgeModeCore z m), nofun, nofun, nofun, nofun,
    fun _ => ?_⟩
  rw [Blank, rh, temp]
  exact ⟨rfl, rfl, rfl, rfl⟩

theorem switched_disableZone (z : Nat) (u : State) (l : z < 24) : Switched .zone z false u (disableZone z u) := by
  let off := u.modZone z fun zn => { zn with
    enable := false, rh := stopClimate zn.rh, temp := stopClimate zn.temp, blind := false, drift := false }
  have r : Reported off (disableZone z u) :=
    (((reported_clearIf ..).trans (reported_clearIf ..)).trans (reported_clearIf ..)).trans (reported_clearIf ..)
  have sets : SetsEnable .zone z false u off := setsEnable_modZone u z _ l fun _ => rfl
  refine ⟨sets.keeps r.lit.keepsEnables, nofun, nofun, nofun, nofun, fun _ => ?_⟩
  rw [r.zone, zone_modZone_self _ _ _ l]
  exact ⟨rfl, rfl, rfl, rfl⟩

/-! ### Table by table -/

theorem switched_enableEntry (t : TableId) (i : Nat) (u : State) (h : hasEnable t = true) (l : i < entryCount t) :
    Switched t i true u (enableEntry t i u) := by
  cases t with
  | node => exact switched_enableNode i u l
  | point => exact switched_enablePoint i u l
  | object => exact switched_enableObject i u l
  | group => exact switched_enableGroup i u l
  | zone => exact switched_enableZone i u l
  | device | condition | counter => cases h

theorem switched_disableEntry (t : TableId) (i : Nat) (u : State) (h : hasEnable t = true) (l : i < entryCount t)
    (a : disableAllowed u t i = true) : Switched t i false u (disableEntry t i u) := by
  cases t with
  | node => exact switched_disableNode i u l a
  | point => exact switched_disablePoint i u l
  | object => exact switched_disableObject i u l
  | group => exact switched_disableGroup i u l
  | zone => exact switched_disableZone i u l
  | device | condition | counter => cases h

theorem lit_answered (rq : Requester) (st : Status) (u t : State) : Lit t (answered rq st u t) :=
  (reported_answer rq st t).lit.trans (lit_grantAfter ..)

theorem keepsEnables_fieldReached (t : TableId) (entry : Half) (s : State) :
    KeepsEnables s (fieldReached t entry 0 s) :=
  ⟨entryEnabled_fieldReached t entry s, device_fieldReached .., calendar_fieldReached ..,
    store_fieldReached ..⟩

/-- R156, R162: the request as a whole leaves its entry switched. -/
theorem switched_request (rq : Requester) (st : Status) (t : TableId) (entry : Half) (b : Bool) (s w : State)
    (h : Switched t entry.toNat b (fieldReached t entry 0 s) w) :
    Switched t entry.toNat b s (answered rq st (fieldReached t entry 0 s) w) := by
  obtain ⟨sets, holds⟩ := h
  have lit := lit_answered rq st (fieldReached t entry 0 s) w
  have after := holds.lit lit
  refine ⟨((keepsEnables_fieldReached t entry s).sets sets).keeps lit.keepsEnables, after.hunting, after.absent,
    after.lost, fun c => ?_, after.blank⟩
  have dosed := after.dosed c
  rw [object_fieldReached] at dosed
  exact dosed

end Sys2Proof.Machine
end

section
/-! PROOF. ENABLE_WRITE, table by table (O41). -/

namespace Sys2Proof.Machine

section requests

variable (rq : Requester) (entry : Half) (s : State)

/-- R41, R42: the enable and the disable of a node. -/
theorem enableWrite_node (l : entry.toNat < 64) :
    let i := entry.toNat
    let nd := s.node i
    let u := fieldReached .node entry 0 s
    let off := { u.modNode i fun _ =>
        { nd with enable := false, state := .absent, misses := 0, recheckDue := false } with
      pollList := s.pollList.filter fun e => e.node != i }
    (nd.enable = false → enableAllowed s .node i = true →
      ∃ pl, placedInPollList i (runningMs s) s.pollList pl ∧
        exec (.enableWrite rq .node entry 1) s = .next (answered rq .ok u (nodeBack i { u.modNode i fun _ =>
          { nd with enable := true, state := .hunting, runLength := 0, misses := 0, recheckDue := false } with
          pollList := pl }))) ∧
    (nd.enable = true → disableAllowed s .node i = true →
      exec (.enableWrite rq .node entry 0) s = .next (answered rq .ok u
        (if nd.state = .silent then clear .nodeSilent i off
         else if nd.state = .displaced then clear .nodeDisplaced i off else off))) := by
  intro i nd u off
  have own : u.node i = nd := node_fieldReached ..
  have list : u.pollList = s.pollList := pollList_fieldReached ..
  have running : runningMs u = runningMs s := by rw [runningMs, runningMs, now_fieldReached]
  refine ⟨fun e a => ⟨insertPoll ⟨i, runningMs s⟩ (removePoll i s.pollList), placedInPollList_insert .., ?_⟩,
    fun e a => ?_⟩
  · rw [enableWrite_on rq .node entry s rfl l e a, enableEntry, enableNode_eq i u nd own, running, list]
  · have free : nodeDisableAllowed u i = true := (disableAllowed_fieldReached .node entry s .node i).trans a
    rw [enableWrite_off rq .node entry s rfl l e a, disableEntry, disableNode_eq i u nd s.pollList l own list free]

/-- R54: the enable and the disable of a point. -/
theorem enableWrite_point (l : entry.toNat < 192) :
    let i := entry.toNat
    let p := s.point i
    let u := fieldReached .point entry 0 s
    let off := u.modPoint i fun _ => { p with enable := false, state := .lost, pending := none, fault := false }
    (p.enable = false → enableAllowed s .point i = true →
      exec (.enableWrite rq .point entry 1) s = .next (answered rq .ok u (u.modPoint i fun _ => { p with
        enable := true, value := 0, state := .lost, age := 65535, pending := none, clamps := 0, accepted := false,
        fault := false }))) ∧
    (p.enable = true → disableAllowed s .point i = true → exec (.enableWrite rq .point entry 0) s =
      .next (answered rq .ok u (if p.fault then clear .pointFault i off else off))) := by
  intro i p u off
  have own : u.point i = p := point_fieldReached ..
  refine ⟨fun e a => ?_, fun e a => ?_⟩
  · rw [enableWrite_on rq .point entry s rfl l e a, enableEntry, enablePoint_eq i u p own]
  · rw [enableWrite_off rq .point entry s rfl l e a, disableEntry, disablePoint_eq i u p own]

/-- R74 to R76: the enable and the disable of an object. -/
theorem enableWrite_object (l : entry.toNat < 256) :
    let i := entry.toNat
    let o := s.object i
    let u := fieldReached .object entry 0 s
    let on := u.modObject i fun _ => { o with enable := true }
    let off := u.modObject i fun _ => { o with
      enable := false, exhausted := false, paceShort := false, degraded := false, overMarker := false }
    (o.enable = false → enableAllowed s .object i = true → exec (.enableWrite rq .object entry 1) s =
      .next (answered rq .ok u (ceilingCore i (if o.unknown then raise .doseUnknown i o.zone on else on)))) ∧
    (o.enable = true → exec (.enableWrite rq .object entry 0) s =
      .next (answered rq .ok u (clearObjectConditions i o off))) := by
  intro i o u on off
  have own : u.object i = o := object_fieldReached ..
  refine ⟨fun e a => ?_, fun e => ?_⟩
  · rw [enableWrite_on rq .object entry s rfl l e a, enableEntry, enableObject_eq i u o l own]
  · rw [enableWrite_off rq .object entry s rfl l e rfl, disableEntry, disableObject_eq i u o own]

/-- R124, R125: the enable and the disable of a zone. -/
theorem enableWrite_zone (l : entry.toNat < 24) :
    let i := entry.toNat
    let zn := s.zone i
    let u := fieldReached .zone entry 0 s
    (zn.enable = false → enableAllowed s .zone i = true → exec (.enableWrite rq .zone entry 1) s =
      .next (answered rq .ok u (enableZone i u))) ∧
    (zn.enable = true → disableAllowed s .zone i = true → exec (.enableWrite rq .zone entry 0) s =
      .next (answered rq .ok u (disableZone i u))) :=
  ⟨enableWrite_on rq .zone entry s rfl l, enableWrite_off rq .zone entry s rfl l⟩

end requests

/-- Settles O41: the request is judged by `writeValue_enable`, what each entry then does is written out by the
`enableWrite_…` lemmas, and that nothing else is enabled or disabled is `switched_request`. -/
theorem enableWrite : Obligations.EnableWrite := by
  unfold Obligations.EnableWrite
  refine ⟨fun rq entry s => ?_, fun s i => ?_, fun rq table entry value s h => ?_,
    fun rq table entry value s h l c => ?_, fun rq entry s l => ?_⟩
  · intro i reached takes
    refine ⟨enableWrite_node rq entry s, enableWrite_point rq entry s, enableWrite_object rq entry s, fun l => ?_⟩
    intro zn blank x on off excursion c1 c2 c3 c4
    obtain ⟨enables, disables⟩ := enableWrite_zone rq entry s l
    have own : (reached .zone).zone i = zn := zone_fieldReached ..
    refine ⟨fun e a => (enables e a).trans ?_, fun e a => (disables e a).trans ?_⟩
    · rw [enableZone_eq i _ zn l own]
      rfl
    · rw [disableZone_eq i _ zn own]
      rfl
  · exact ⟨nodeEnableAllowed_iff s i, pointEnableAllowed_iff s i, objectEnableAllowed_iff s i,
      groupEnableAllowed_iff s i, Option.isNone_iff_eq_none, nodeDisableAllowed_iff s i,
      pointDisableAllowed_iff s i, rfl, groupDisableAllowed_iff s i, zoneDisableAllowed_iff s i⟩
  · refine ⟨enableWrite_range rq table entry s h value, ?_⟩
    refine ⟨?_, ?_, ?_, ?_⟩ <;> rintro l rfl <;>
      obtain ⟨onAlready, offAlready, onRefused, offRefused⟩ := enableWrite_refused rq table entry s h l
    · exact onAlready
    · exact offAlready
    · exact onRefused
    · exact offRefused
  · obtain ⟨t, run, sets, holds⟩ : ∃ t, exec (.enableWrite rq table entry value) s = .next t ∧
        Switched table entry.toNat (value == 1) s t := by
      rcases c with ⟨rfl, e, a⟩ | ⟨rfl, e, a⟩
      · exact ⟨_, enableWrite_on rq table entry s h l e a,
          switched_request rq .ok table entry true s _ (switched_enableEntry table _ _ h l)⟩
      · have free := (disableAllowed_fieldReached table entry s table entry.toNat).trans a
        exact ⟨_, enableWrite_off rq table entry s h l e a,
          switched_request rq .ok table entry false s _ (switched_disableEntry table _ _ h l free)⟩
    exact ⟨t, run, sets.entries, fun c v => holds.hunting c (by rw [v]; rfl),
      fun c v => holds.absent c (by rw [v]; rfl), holds.lost, holds.dosed, holds.blank,
      sets.device, sets.calendar, sets.store⟩
  · intro g gr u
    have own : u.group g = gr := group_fieldReached ..
    refine ⟨fun e a => ?_, fun e a => ?_⟩
    · rw [enableWrite_on rq .group entry s rfl l e a, enableEntry, enableGroup, own]
      rfl
    · intro rest c1 c2 c3 atRest run
      obtain ⟨runs, waits⟩ := disableGroup_eq g u gr l own
      have off : run = .next (answered rq .ok u (disableGroup g u)) := enableWrite_off rq .group entry s rfl l e a
      have zone : (u.zone gr.zone).evalPending = (s.zone gr.zone).evalPending := by rw [zone_fieldReached]
      have others : restOfZoneIdle u g ↔ atRest := by
        simp only [restOfZoneIdle, u, group_fieldReached]
        rfl
      rw [zone, others] at runs waits
      refine ⟨fun p r => off.trans ?_, fun q => off.trans ?_⟩
      · rw [runs p r]
        rfl
      · rw [waits q]
        rfl

end Sys2Proof.Machine
end

section
/-! PROOF. What every step keeps (O58), the points' ages (O25) and their states (O23). -/

namespace Sys2Proof.Machine

/-- Settles O58: no step takes the own address to an enabled node, or enables a node at it. -/
theorem everyStepKeepsOwnAddressFree : Obligations.EveryStepKeepsOwnAddressFree := by
  unfold Obligations.EveryStepKeepsOwnAddressFree
  exact fun s t h run => (keeps_step s t run).ownAddress h

/-! ### The judgement of a point (R55) -/

theorem judgedPoint_eq (n : Node) (p : Point) : judgedPoint n p =
    { p with pending := (judgedPoint n p).pending, state := (judgedPoint n p).state } := by
  unfold judgedPoint
  split <;> rfl

theorem pending_judgedPoint (n : Node) (p : Point) :
    (judgedPoint n p).pending = if 3 * n.pollPeriod ≤ p.age then none else p.pending := by
  by_cases old : 3 * n.pollPeriod ≤ p.age <;> simp [judgedPoint, freshLimit, old]

theorem state_judgedPoint (n : Node) (p : Point) : (judgedPoint n p).state =
    if n.state ≠ .online ∨ p.accepted = false then .lost
    else if p.fault then .faulted
    else if ¬3 * n.pollPeriod ≤ p.age ∧ p.pending ≠ none then .held
    else if ¬3 * n.pollPeriod ≤ p.age then .fresh
    else .stale := by
  by_cases old : 3 * n.pollPeriod ≤ p.age
  · have notFresh : ¬p.age < 3 * n.pollPeriod := by omega
    simp [judgedPoint, pointStateOf, freshLimit, old, notFresh]
  · have fresh : p.age < 3 * n.pollPeriod := by omega
    cases held : p.pending <;> simp [judgedPoint, pointStateOf, freshLimit, old, fresh, held]

/-- Settles O23: the cases of R55 in their order, with the discard before them. -/
theorem pointStateIsFirstCase : Obligations.PointStateIsFirstCase := by
  unfold Obligations.PointStateIsFirstCase
  refine ⟨fun s => rfl, fun n p => ⟨pending_judgedPoint n p, ?_, ?_⟩⟩
  · exact state_judgedPoint n p
  · rw [judgedPoint_eq n p]

/-! ### The age (R57) -/

@[simp] theorem node_judgedPoint (n : Node) (p : Point) : (judgedPoint n p).node = p.node := by rw [judgedPoint_eq]
@[simp] theorem value_judgedPoint (n : Node) (p : Point) : (judgedPoint n p).value = p.value := by rw [judgedPoint_eq]
@[simp] theorem age_judgedPoint (n : Node) (p : Point) : (judgedPoint n p).age = p.age := by rw [judgedPoint_eq]
@[simp] theorem clamps_judgedPoint (n : Node) (p : Point) : (judgedPoint n p).clamps = p.clamps := by
  rw [judgedPoint_eq]

/-- A judgement of the point's entry, where the entry is known. -/
theorem judgePoint_modPoint (i : Nat) (f : Point → Point) (s : State) (l : i < 192) :
    judgePoint i (s.modPoint i f) =
      s.modPoint i fun _ => judgedPoint (s.node (f (s.point i)).node) (f (s.point i)) := by
  unfold judgePoint
  rw [modPoint_at, modPoint_twice, point_modPoint_self s i f l]
  rfl

/-! ### What an accepted value does (R61) -/

/-- R61: the record of a point that has accepted a value, before the judgement. -/
def withValue (v : Int) (p : Point) : Point := { p with value := v, age := 0, accepted := true, fault := false }

theorem acceptValue_eq (i : Nat) (v : Int) (s : State) (l : i < 192) :
    let p := s.point i
    let quiet := s.modPoint i fun _ => withValue v p
    let taken := (if p.fault then clear .pointFault i quiet else quiet).modPoint i fun _ =>
      judgedPoint (s.node p.node) (withValue v p)
    acceptValue i v s = if p.quantity = .illum then requestEvaluation p.zone taken else taken := by
  intro p quiet taken
  have stored : (s.modPoint i fun p => { p with value := v, age := 0, accepted := true, fault := false }) = quiet :=
    modPoint_at s i _
  have judged : judgePoint i (clearIf p.fault .pointFault i quiet) = taken := by
    unfold judgePoint
    rw [modPoint_at]
    simp only [point_clearIf, node_clearIf, quiet, point_modPoint_self _ _ _ l]
    rfl
  unfold acceptValue
  simp only [stored]
  rw [judged]

theorem faultReading_eq (i : Nat) (s : State) (l : i < 192) :
    let p := s.point i
    let failed := s.modPoint i fun _ => judgedPoint (s.node p.node) { p with fault := true, pending := none }
    faultReading i s = if p.fault then failed else raise .pointFault i p.zone failed := by
  unfold faultReading
  simp only [judgePoint_modPoint i _ s l]

theorem point_acceptValue (i j : Nat) (v : Int) (s : State) (l : i < 192) : (acceptValue i v s).point j =
    if i = j then judgedPoint (s.node (s.point i).node) (withValue v (s.point i)) else s.point j := by
  rw [acceptValue_eq i v s l]
  by_cases e : i = j
  · subst e
    split <;> simp [l]
  · split <;> split <;> simp [e]

theorem point_faultReading (i j : Nat) (s : State) (l : i < 192) : (faultReading i s).point j =
    if i = j then judgedPoint (s.node (s.point i).node) { s.point i with fault := true, pending := none }
    else s.point j := by
  rw [faultReading_eq i s l]
  by_cases e : i = j
  · subst e
    split <;> simp [l]
  · split <;> simp [e]

theorem point_holdValue (i : Nat) (v : Int) (s : State) (l : i < 192) : (holdValue i v s).point i =
    judgedPoint (s.node (s.point i).node) { s.point i with pending := some v } := by
  unfold holdValue
  rw [judgePoint_modPoint i _ s l, point_modPoint_self _ _ _ l]

/-- Settles O25: the age rises in `ageAll` alone, and only the record of an accepted value holds age 0. -/
theorem ageRisesEachSecond : Obligations.AgeRisesEachSecond := by
  unfold Obligations.AgeRisesEachSecond
  refine ⟨fun s => rfl, fun i v s l => ⟨?_, ?_, ?_⟩⟩
  · rw [point_acceptValue i i v s l, if_pos rfl, age_judgedPoint]
    rfl
  · rw [point_holdValue i v s l, age_judgedPoint]
  · rw [point_faultReading i i s l, if_pos rfl, age_judgedPoint]

end Sys2Proof.Machine
end

section
/-! PROOF. What a reading does at its point (O24): its value, the point that it reaches, the spike hold, the fault. -/

namespace Sys2Proof.Machine

/-! ### What a fault and an accepted value leave (R59, R61) -/

theorem acceptValue_frame (i : Nat) (v : Int) (s : State) (l : i < 192) :
    let t := acceptValue i v s
    t.nodes = s.nodes ∧ t.objects = s.objects ∧ t.device = s.device ∧ t.calendar = s.calendar ∧ t.store = s.store := by
  rw [acceptValue_eq i v s l]
  dsimp only
  split <;> split <;> simp

theorem faultReading_frame (i : Nat) (s : State) (l : i < 192) :
    let t := faultReading i s
    t.nodes = s.nodes ∧ t.objects = s.objects ∧ t.device = s.device ∧ t.calendar = s.calendar ∧ t.store = s.store := by
  rw [faultReading_eq i s l]
  dsimp only
  split <;> simp

/-! ### The value of a reading (R60) -/

theorem sentValue_eq (q : Quantity) (raw : Half) :
    sentValue q raw = if q = .temp then raw.toInt else (raw.toNat : Int) := by
  cases q <;> rfl

theorem rangeLow_eq (q : Quantity) : rangeLow q = if q = .temp then -4000 else 0 := by
  cases q <;> rfl

theorem readingValue_good (r : Reading) (h : r.quality = .good) : readingValue r =
    max (rangeLow r.quantity) (min (rangeHigh r.quantity) (sentValue r.quantity r.raw)) := by
  simp only [readingValue, h]
  rfl

theorem readingValue_over (r : Reading) (h : r.quality = .over) : readingValue r = rangeHigh r.quantity := by
  simp only [readingValue, h]

theorem readingValue_under (r : Reading) (h : r.quality = .under) : readingValue r = rangeLow r.quantity := by
  simp only [readingValue, h]

/-! ### The point that a reading reaches (R58) -/

theorem pointOnChannel_iff (s : State) (n ch i : Nat) : pointOnChannel s n ch = some i ↔
    i < 192 ∧ ((s.point i).enable = true ∧ (s.point i).node = n ∧ (s.point i).channel = ch) ∧
      ∀ j < i, ¬((s.point j).enable = true ∧ (s.point j).node = n ∧ (s.point j).channel = ch) := by
  unfold pointOnChannel
  rw [List.find?_range_eq_some]
  simp only [Bool.and_eq_true, beq_iff_eq, List.mem_range, Bool.not_eq_true', ← Bool.not_eq_true, and_assoc]
  tauto

theorem pointOnChannel_none (s : State) (n ch : Nat)
    (h : ∀ i < 192, ¬((s.point i).enable = true ∧ (s.point i).node = n ∧ (s.point i).channel = ch)) :
    pointOnChannel s n ch = none := by
  cases e : pointOnChannel s n ch with
  | none => rfl
  | some i =>
    obtain ⟨l, bound, _⟩ := (pointOnChannel_iff s n ch i).1 e
    exact absurd bound (h i l)

theorem applyReading_none (n : Nat) (s : State) (r : Reading) (h : pointOnChannel s n r.channel = none) :
    applyReading n s r = s := by
  simp only [applyReading, h]

theorem applyReading_some (n i : Nat) (s : State) (r : Reading) (h : pointOnChannel s n r.channel = some i) :
    applyReading n s r =
      if r.quantity ≠ (s.point i).quantity then
        s.modNode n fun nd => { nd with duplicates := min 65535 (nd.duplicates + 1) }
      else if r.quality = .fault then faultReading i s else valueReading i r s := by
  simp only [applyReading, h]
  rfl

/-! ### The spike hold (R60, R62, R63) -/

theorem within_iff (x a b : Int) : within x a b = true ↔ a - b ≤ x ∧ b - a ≤ x := decide_eq_true_iff

/-- R60: the clamp count after a reading. -/
def clampsAfter (r : Reading) (p : Point) : Nat :=
  if readingValue r = sentValue r.quantity r.raw then p.clamps else min 65535 (p.clamps + 1)

/-- R60: the state in which a value is judged: its clamp has been counted. -/
def clampCounted (i : Nat) (r : Reading) (s : State) : State :=
  s.modPoint i fun p => { p with clamps := clampsAfter r p }

theorem clampCounted_eq (i : Nat) (r : Reading) (s : State) : clampCounted i r s =
    if readingValue r = sentValue r.quantity r.raw then s
    else s.modPoint i fun p => { p with clamps := satAdd top16 p.clamps 1 } := by
  unfold clampCounted clampsAfter
  split
  · exact modPoint_same s i _ rfl
  · rfl

@[simp] theorem point_clampCounted (i : Nat) (r : Reading) (s : State) (l : i < 192) :
    (clampCounted i r s).point i = { s.point i with clamps := clampsAfter r (s.point i) } :=
  point_modPoint_self s i _ l

@[simp] theorem node_clampCounted (i n : Nat) (r : Reading) (s : State) :
    (clampCounted i r s).node n = s.node n := rfl

theorem spikeLimit_clampCounted (i : Nat) (r : Reading) (s : State) (l : i < 192) :
    spikeLimit (clampCounted i r s) ((clampCounted i r s).point i) = spikeLimit s (s.point i) := by
  rw [point_clampCounted i r s l]
  rfl

theorem valueReading_pending (i : Nat) (r : Reading) (q : Int) (s : State) (l : i < 192)
    (h : (s.point i).pending = some q) :
    valueReading i r s = settleReading i q (readingValue r) (clampCounted i r s) := by
  have held : ((clampCounted i r s).point i).pending = some q := by rw [point_clampCounted i r s l, h]
  unfold valueReading
  simp only [← clampCounted_eq, held]

theorem valueReading_none (i : Nat) (r : Reading) (s : State) (l : i < 192) (h : (s.point i).pending = none) :
    valueReading i r s = freshReading i (readingValue r) (clampCounted i r s) := by
  have held : ((clampCounted i r s).point i).pending = none := by rw [point_clampCounted i r s l, h]
  unfold valueReading
  simp only [← clampCounted_eq, held]

/-- R61, R63: the record of a point that has accepted a value and holds none. -/
def acceptedPoint (n : Node) (v : Int) (p : Point) : Point := judgedPoint n (withValue v { p with pending := none })

/-- The state that a point had does not enter its judgement. -/
theorem judgedPoint_withState (n : Node) (p : Point) (st : PointState) :
    judgedPoint n { p with state := st } = judgedPoint n p := by
  by_cases old : freshLimit n ≤ p.age <;> simp only [judgedPoint, old, if_true, if_false] <;> rfl

theorem acceptedPoint_twice (m n : Node) (q v : Int) (p : Point) :
    acceptedPoint n v (acceptedPoint m q p) = acceptedPoint n v p := by
  unfold acceptedPoint
  rw [judgedPoint_eq m]
  exact judgedPoint_withState n (withValue v { p with pending := none }) _

theorem point_acceptValue_clear (i : Nat) (v : Int) (s : State) (l : i < 192) (h : (s.point i).pending = none) :
    (acceptValue i v s).point i = acceptedPoint (s.node (s.point i).node) v (s.point i) := by
  have same : { s.point i with pending := none } = s.point i := by rw [← h]
  rw [point_acceptValue i i v s l, if_pos rfl, acceptedPoint, same]

theorem point_acceptValue_dropped (i : Nat) (v : Int) (s : State) (l : i < 192) :
    (acceptValue i v (dropPending i s)).point i = acceptedPoint (s.node (s.point i).node) v (s.point i) := by
  have own : (dropPending i s).point i = { s.point i with pending := none } := point_modPoint_self s i _ l
  rw [point_acceptValue_clear i v _ l (by rw [own]), own]
  rfl

/-- R63: the pending reading is accepted, and then the new one. -/
theorem point_acceptValue_twice (i : Nat) (q v : Int) (s : State) (l : i < 192) :
    (acceptValue i v (acceptValue i q (dropPending i s))).point i =
      acceptedPoint (s.node (s.point i).node) v (s.point i) := by
  have own := point_acceptValue_dropped i q s l
  have none' : (acceptedPoint (s.node (s.point i).node) q (s.point i)).pending = none := by
    rw [acceptedPoint, pending_judgedPoint]
    split <;> rfl
  have bound : (acceptedPoint (s.node (s.point i).node) q (s.point i)).node = (s.point i).node := node_judgedPoint _ _
  rw [point_acceptValue_clear i v _ l (by rw [own, none']), node_congr (nodes_acceptValue i q _), own, bound,
    acceptedPoint_twice]
  rfl

theorem settleReading_accepts (i : Nat) (q v : Int) (s : State) (l : i < 192)
    (h : spikeLimit s (s.point i) = 0 ∨ within (spikeLimit s (s.point i)) v q = true ∨
      within (spikeLimit s (s.point i)) v (s.point i).value = true) :
    (settleReading i q v s).point i = acceptedPoint (s.node (s.point i).node) v (s.point i) := by
  unfold settleReading
  dsimp only
  split
  · exact point_acceptValue_dropped i v s l
  · next limited =>
    split
    · exact point_acceptValue_twice i q v s l
    · next far =>
      rw [if_pos (h.resolve_left limited |>.resolve_left far)]
      exact point_acceptValue_dropped i v s l

theorem settleReading_holds (i : Nat) (q v : Int) (s : State) (x : spikeLimit s (s.point i) ≠ 0)
    (a : ¬within (spikeLimit s (s.point i)) v q = true)
    (b : ¬within (spikeLimit s (s.point i)) v (s.point i).value = true) : settleReading i q v s = holdValue i v s := by
  unfold settleReading
  dsimp only
  rw [if_neg x, if_neg a, if_neg b]

theorem freshReading_accepts (i : Nat) (v : Int) (s : State)
    (h : spikeLimit s (s.point i) = 0 ∨ (s.point i).accepted = false ∨
      within (spikeLimit s (s.point i)) v (s.point i).value = true) : freshReading i v s = acceptValue i v s := by
  unfold freshReading
  dsimp only
  split
  · rfl
  · next limited =>
    rw [not_or] at limited
    rw [if_pos (h.resolve_left limited.1 |>.resolve_left limited.2)]

theorem freshReading_holds (i : Nat) (v : Int) (s : State) (x : spikeLimit s (s.point i) ≠ 0)
    (a : (s.point i).accepted = true) (b : ¬within (spikeLimit s (s.point i)) v (s.point i).value = true) :
    freshReading i v s = holdValue i v s := by
  unfold freshReading
  dsimp only
  rw [if_neg (by simp [x, a]), if_neg b]

/-- When a reading is accepted: where there is no spike limit, where nothing has been accepted yet and none is held, and
where the value is near the accepted one or the one held. -/
def accepts (s : State) (p : Point) (v : Int) : Prop :=
  spikeLimit s p = 0 ∨ p.pending = none ∧ p.accepted = false ∨ within (spikeLimit s p) v p.value = true ∨
    ∃ q, p.pending = some q ∧ within (spikeLimit s p) v q = true

/-- R60, R62, R63: the record of the point after a value: accepted, or held. -/
theorem point_valueReading (i : Nat) (r : Reading) (s : State) (l : i < 192) :
    let p := { s.point i with clamps := clampsAfter r (s.point i) }
    let n := s.node p.node
    (accepts s (s.point i) (readingValue r) →
      (valueReading i r s).point i = acceptedPoint n (readingValue r) p) ∧
    (¬accepts s (s.point i) (readingValue r) →
      (valueReading i r s).point i = judgedPoint n { p with pending := some (readingValue r) }) := by
  intro p n
  have own : (clampCounted i r s).point i = p := point_clampCounted i r s l
  have limit := spikeLimit_clampCounted i r s l
  have held : (holdValue i (readingValue r) (clampCounted i r s)).point i =
      judgedPoint n { p with pending := some (readingValue r) } := by
    rw [point_holdValue i _ _ l, own, node_clampCounted]
  cases pending : (s.point i).pending with
  | some q =>
    rw [valueReading_pending i r q s l pending]
    constructor
    · intro a
      rw [settleReading_accepts i q _ _ l, own, node_clampCounted]
      rw [limit, own]
      simpa [accepts, pending, or_comm] using a
    · intro a
      simp only [accepts, pending, reduceCtorEq, false_and, false_or, Option.some.injEq, exists_eq_left', not_or] at a
      obtain ⟨x, near, nearHeld⟩ := a
      rw [settleReading_holds i q _ _ (by rwa [limit]) (by rwa [limit]) (by rwa [limit, own]), held]
  | none =>
    rw [valueReading_none i r s l pending]
    constructor
    · intro a
      rw [freshReading_accepts, point_acceptValue_clear i _ _ l (by rw [own]; exact pending), own, node_clampCounted]
      rw [limit, own]
      simpa [accepts, pending] using a
    · intro a
      simp only [accepts, pending, true_and, reduceCtorEq, false_and, exists_false, or_false, not_or] at a
      obtain ⟨x, some', near⟩ := a
      rw [freshReading_holds i _ _ (by rwa [limit]) (by rw [own]; simpa using some') (by rwa [limit, own]), held]

theorem clamps_valueReading (i : Nat) (r : Reading) (s : State) (l : i < 192) :
    ((valueReading i r s).point i).clamps = clampsAfter r (s.point i) := by
  obtain ⟨accepted, held⟩ := point_valueReading i r s l
  by_cases a : accepts s (s.point i) (readingValue r)
  · rw [accepted a, acceptedPoint, clamps_judgedPoint]
    rfl
  · rw [held a, clamps_judgedPoint]

theorem acceptedPoint_fields (n : Node) (v : Int) (p : Point) : (acceptedPoint n v p).value = v ∧
    (acceptedPoint n v p).age = 0 ∧ (acceptedPoint n v p).pending = none := by
  refine ⟨value_judgedPoint _ _, age_judgedPoint _ _, ?_⟩
  rw [acceptedPoint, pending_judgedPoint]
  split <;> rfl

theorem heldPoint_fields (n : Node) (v : Int) (p : Point) :
    let x := judgedPoint n { p with pending := some v }
    x.value = p.value ∧ x.age = p.age ∧ x.pending = if 3 * n.pollPeriod ≤ p.age then none else some v :=
  ⟨value_judgedPoint _ _, age_judgedPoint _ _, pending_judgedPoint _ _⟩

/-- Settles O24: the reading finds its point, and `point_valueReading` says what becomes of its value there. -/
theorem readingsReachTheirPoint : Obligations.ReadingsReachTheirPoint := by
  unfold Obligations.ReadingsReachTheirPoint
  refine ⟨fun n s => ⟨fun payload => rfl, fun r => ⟨fun h => ?_, fun i l h first => ?_⟩⟩, fun r => ?_,
    fun i r s l => ?_,
    fun i r s l q tempOrRh some' limit => ?_, fun i v s l => ⟨?_, ?_, ?_, fun j ne => ⟨?_, ?_⟩, ?_⟩⟩
  · exact applyReading_none n s r (pointOnChannel_none s n r.channel h)
  · have on := applyReading_some n i s r ((pointOnChannel_iff s n r.channel i).2 ⟨l, h, first⟩)
    refine ⟨fun other => ?_, fun same fault => ?_, fun same good => ?_⟩
    · rw [on, if_pos other]
    · rw [on, if_neg (not_not.2 same), if_pos fault]
    · rw [on, if_neg (not_not.2 same), if_neg good]
  · intro sent low high
    have sends : sentValue r.quantity r.raw = sent := sentValue_eq _ _
    have lowest : rangeLow r.quantity = low := rangeLow_eq _
    have highest : rangeHigh r.quantity = high := by
      simp only [high]
      cases r.quantity <;> rfl
    refine ⟨fun h => ?_, fun h => ?_, fun h => ?_, sends⟩
    · rw [readingValue_good r h, sends, lowest, highest]
    · rw [readingValue_over r h, highest]
    · rw [readingValue_under r h, lowest]
  · refine ⟨by unfold spikeLimit; cases (s.point i).quantity <;> rfl, clamps_valueReading i r s l, fun h => ?_⟩
    exact (point_valueReading i r s l).1 (h.imp id .inl)
  · intro p v x near t
    obtain ⟨accepted, held⟩ := point_valueReading i r s l
    have nearIff : ∀ a b, within x a b = true ↔ near a b := within_iff x
    have accepted' : accepts s p v → t.value = v ∧ t.age = 0 ∧ t.pending = none := fun a => by
      simp only [t]
      rw [accepted a]
      exact acceptedPoint_fields _ _ _
    have held' : ¬accepts s p v → t.value = p.value ∧ t.age = p.age ∧
        t.pending = if 3 * (s.node p.node).pollPeriod ≤ p.age then none else some v := fun a => by
      simp only [t]
      rw [held a]
      exact heldPoint_fields _ _ _
    have limited : spikeLimit s (s.point i) ≠ 0 := ne_of_gt limit
    have acceptsIff : accepts s p v ↔ near v p.value ∨ ∃ q, p.pending = some q ∧ near v q := by
      simp only [accepts, ← nearIff, p, x]
      simp [limited, some']
    refine ⟨fun none' a => accepted' (acceptsIff.2 (.inl a)), fun none' a => held' ?_,
      fun q pending => ⟨fun a => ?_, fun a b => ?_⟩⟩
    · rw [acceptsIff]
      simp [none', a]
    · exact accepted' (acceptsIff.2 (a.symm.imp id fun a => ⟨q, pending, a⟩))
    · refine held' ?_
      rw [acceptsIff]
      simp [pending, a, b]
  · rw [point_acceptValue i i v s l, if_pos rfl]
    rfl
  · rw [point_faultReading i i s l, if_pos rfl]
  · exact fun _ => ⟨acceptValue_eq i v s l, faultReading_eq i s l⟩
  · rw [point_acceptValue i j v s l, if_neg ne.symm]
  · rw [point_faultReading i j s l, if_neg ne.symm]
  · rintro t (rfl | rfl)
    · exact acceptValue_frame i v s l
    · exact faultReading_frame i s l

end Sys2Proof.Machine
end

section
/-! PROOF. What a frame taken does to its node, its points and its groups (O22). -/

namespace Sys2Proof.Machine

/-! ### A node that leaves or enters ONLINE (R55, R56) -/

/-- R56: the node takes the record `x`, and its enabled points are LOST. -/
def leftOnline (n : Nat) (x : Node) (s : State) : State :=
  { s.modNode n fun _ => x with
    points := s.points.map fun p => if p.enable && p.node == n then { p with state := .lost, pending := none } else p }

/-- R55: the node takes the record `x`, and its enabled points are judged. -/
def enteredOnline (n : Nat) (x : Node) (s : State) : State :=
  { s.modNode n fun _ => x with
    points := s.points.map fun p => if p.enable && p.node == n then judgedPoint x p else p }

theorem node_leftOnline (n : Nat) (x : Node) (s : State) (l : n < 64) : (leftOnline n x s).node n = x :=
  node_modNode_self s n (fun _ => x) l

theorem node_enteredOnline (n : Nat) (x : Node) (s : State) (l : n < 64) : (enteredOnline n x s).node n = x :=
  node_modNode_self s n (fun _ => x) l

theorem point_leftOnline (n i : Nat) (x : Node) (s : State) (e : (s.point i).enable = true)
    (b : (s.point i).node = n) :
    ((leftOnline n x s).point i).state = .lost ∧ ((leftOnline n x s).point i).pending = none := by
  have l : i < 192 := by
    by_contra c
    rw [point_beyond s i (by omega)] at e
    simp [factoryPoint] at e
  have own : (leftOnline n x s).point i = { s.point i with state := .lost, pending := none } := by
    have at' : (s.points.map fun p =>
        if p.enable && p.node == n then { p with state := PointState.lost, pending := none } else p)[i]? =
        some { s.point i with state := .lost, pending := none } := by
      rw [Vector.getElem?_map, Vector.getElem?_eq_getElem l, getElem_points s i l]
      simp [e, b]
    simp only [leftOnline, State.point] at at' ⊢
    rw [at']
    rfl
  rw [own]
  exact ⟨rfl, rfl⟩

/-! ### HUNTING (R44) -/

theorem runAfter_eq (nd : Node) (f : Frame) :
    runAfter nd f = if nd.runLength ≠ 0 ∧ gapOf nd f = 1 then nd.runLength + 1 else 1 := by
  unfold runAfter
  by_cases z : nd.runLength = 0 <;> simp [z]

section takeHunting

variable (n : Nat) (f : Frame) (s : State) (l : n < 64) (h : (s.node n).state = .hunting)
include l h

theorem takeHunting_short (r : runAfter (s.node n) f < 3) : takeHunting n f s =
    s.modNode n fun _ => { noted f (s.node n) with runLength := runAfter (s.node n) f } := by
  have same : { noted f (s.node n) with runLength := runAfter (s.node n) f, state := NodeState.hunting } =
      { noted f (s.node n) with runLength := runAfter (s.node n) f } := by
    rw [← h]
    rfl
  have short : ¬3 ≤ runAfter (s.node n) f := by omega
  unfold takeHunting
  rw [changeNode_stays n _ s l (by simp [short, h])]
  simp only [short, if_false]
  rw [same]

theorem takeHunting_checked (r : 3 ≤ runAfter (s.node n) f) (c : (s.node n).tagCheck = true) : takeHunting n f s =
    s.modNode n fun _ => { noted f (s.node n) with runLength := runAfter (s.node n) f, state := .tagcheck } := by
  unfold takeHunting
  rw [changeNode_stays n _ s l (by simp [r, c, h])]
  simp only [r, c, if_true]

theorem takeHunting_online (r : 3 ≤ runAfter (s.node n) f) (c : (s.node n).tagCheck = false) : takeHunting n f s =
    enteredOnline n { noted f (s.node n) with runLength := runAfter (s.node n) f, state := .online } s := by
  unfold takeHunting
  rw [changeNode_enters n _ s l (by simp [h]) (by simp [r, c])]
  simp only [r, c, if_true, Bool.false_eq_true, if_false]
  rfl

end takeHunting

/-! ### A TAG compared (R45, R47) -/

theorem becomeDisplaced_leaves (n : Nat) (f : Frame) (s : State) (l : n < 64) (h : (s.node n).state = .online) :
    becomeDisplaced n f s = raise .nodeDisplaced n (s.node n).address
      (leftOnline n { noted f (s.node n) with state := .displaced, recheckDue := false } s) := by
  unfold becomeDisplaced
  dsimp only
  rw [changeNode_leaves n _ s l h (by simp)]
  congr 1
  exact (congrArg Node.address (node_leftOnline n _ s l) :)

theorem becomeDisplaced_stays (n : Nat) (f : Frame) (s : State) (l : n < 64) (h : (s.node n).state ≠ .online) :
    becomeDisplaced n f s = raise .nodeDisplaced n (s.node n).address
      (s.modNode n fun _ => { noted f (s.node n) with state := .displaced, recheckDue := false }) := by
  unfold becomeDisplaced
  dsimp only
  rw [changeNode_stays n _ s l (by simp [h]), node_modNode_self _ _ _ l]
  rfl

theorem takeTagcheck_equal (n : Nat) (f : Frame) (s : State) (l : n < 64) (h : (s.node n).state = .tagcheck)
    (k : f.kind = kindTag) (e : tagOf f.payload = (s.node n).expectedTag) :
    takeTagcheck n f s = enteredOnline n { noted f (s.node n) with state := .online } s := by
  rw [takeTagcheck, if_pos k, if_pos e, changeNode_enters n _ s l (by simp [h]) rfl]
  rfl

theorem takeTagcheck_unequal (n : Nat) (f : Frame) (s : State) (l : n < 64) (h : (s.node n).state = .tagcheck)
    (k : f.kind = kindTag) (e : tagOf f.payload ≠ (s.node n).expectedTag) : takeTagcheck n f s =
      raise .nodeDisplaced n (s.node n).address
        (s.modNode n fun _ => { noted f (s.node n) with state := .displaced, recheckDue := false }) := by
  rw [takeTagcheck, if_pos k, if_neg e, becomeDisplaced_stays n f s l (by simp [h])]

theorem takeTagcheck_other (n : Nat) (f : Frame) (s : State) (k : f.kind ≠ kindTag) :
    takeTagcheck n f s = s.modNode n fun _ => noted f (s.node n) := by
  rw [takeTagcheck, if_neg k]
  exact modNode_at s n _

/-! ### ONLINE (R46, R47) -/

theorem takeOnline_duplicate (n : Nat) (f : Frame) (s : State) (g : gapOf (s.node n) f = 0) : takeOnline n f s =
    s.modNode n fun _ => { s.node n with duplicates := min 65535 ((s.node n).duplicates + 1) } := by
  rw [takeOnline, if_pos g]
  exact modNode_at s n _

theorem takeOnline_sequence (n : Nat) (f : Frame) (s : State) (g : 1 ≤ gapOf (s.node n) f)
    (h : gapOf (s.node n) f ≤ 16) : takeOnline n f s = takeInSequence n f s := by
  rw [takeOnline, if_neg (by omega), if_pos h]

theorem takeOnline_restarted (n : Nat) (f : Frame) (s : State) (l : n < 64) (o : (s.node n).state = .online)
    (g : 17 ≤ gapOf (s.node n) f) : takeOnline n f s =
      leftOnline n { noted f (s.node n) with state := .hunting, runLength := 1, recheckDue := false } s := by
  rw [takeOnline, if_neg (by omega), if_neg (by omega), takeRestarted, changeNode_leaves n _ s l o (by simp)]
  rfl

/-- R46: the record after a gap of 1 to 16: the SEQ, the tag of a TAG, and the lost replies. -/
def inSequence (f : Frame) (nd : Node) : Node :=
  { noted f nd with lostReplies := min 65535 (nd.lostReplies + (gapOf nd f - 1)) }

section takeInSequence

variable (n : Nat) (f : Frame) (s : State) (l : n < 64)

/-- The lost replies are counted before the frame is judged. -/
theorem lostCounted_node : let s' := s.modNode n fun nd => countLost (gapOf nd f) nd
    s' = (s.modNode n fun _ => countLost (gapOf (s.node n) f) (s.node n)) ∧
      (n < 64 → s'.node n = countLost (gapOf (s.node n) f) (s.node n)) :=
  ⟨modNode_at s n _, node_modNode_self s n _⟩

include l

theorem takeInSequence_plain (c : f.kind ≠ kindTag ∨ (s.node n).tagCheck = false) :
    takeInSequence n f s = s.modNode n fun _ => inSequence f (s.node n) := by
  obtain ⟨written, own⟩ := lostCounted_node n f s
  unfold takeInSequence
  dsimp only
  rw [own l, if_neg, modNode_at, own l, modNode_twice]
  · rfl
  · rintro ⟨tag, check⟩
    exact c.elim (· tag) fun off => by simp [countLost, off] at check

theorem takeInSequence_equal (k : f.kind = kindTag) (c : (s.node n).tagCheck = true)
    (e : tagOf f.payload = (s.node n).expectedTag) : takeInSequence n f s =
      s.modNode n fun _ => { inSequence f (s.node n) with recheckDue := false } := by
  obtain ⟨written, own⟩ := lostCounted_node n f s
  unfold takeInSequence
  dsimp only
  rw [own l, if_pos ⟨k, c⟩, if_pos (show _ = (countLost _ _).expectedTag from e), modNode_at, own l, modNode_twice]
  rfl

theorem takeInSequence_unequal (o : (s.node n).state = .online) (k : f.kind = kindTag)
    (c : (s.node n).tagCheck = true) (e : tagOf f.payload ≠ (s.node n).expectedTag) : takeInSequence n f s =
      raise .nodeDisplaced n (s.node n).address
        (leftOnline n { inSequence f (s.node n) with state := .displaced, recheckDue := false } s) := by
  obtain ⟨written, own⟩ := lostCounted_node n f s
  unfold takeInSequence
  dsimp only
  rw [own l, if_pos ⟨k, c⟩, if_neg (show _ ≠ (countLost _ _).expectedTag from e),
    becomeDisplaced_leaves n f _ l (by rw [own l]; exact o), own l, written]
  unfold leftOnline
  rw [modNode_twice]
  rfl

end takeInSequence

/-! ### SILENT and DISPLACED (R49, R50) -/

theorem takeSilent_eq (n : Nat) (f : Frame) (s : State) : takeSilent n f s =
    clear .nodeSilent n (s.modNode n fun _ => { noted f (s.node n) with state := .hunting, runLength := 1 }) :=
  congrArg (clear .nodeSilent n) (modNode_at s n _)

theorem takeDisplaced_returns (n : Nat) (f : Frame) (s : State) (k : f.kind = kindTag)
    (e : tagOf f.payload = (s.node n).expectedTag) : takeDisplaced n f s =
      nodeBack n (clear .nodeDisplaced n
        (s.modNode n fun _ => { noted f (s.node n) with state := .hunting, runLength := 1 })) := by
  rw [takeDisplaced, if_pos ⟨k, e⟩]
  exact congrArg (fun u => nodeBack n (clear .nodeDisplaced n u)) (modNode_at s n _)

theorem takeDisplaced_stays (n : Nat) (f : Frame) (s : State)
    (h : f.kind ≠ kindTag ∨ tagOf f.payload ≠ (s.node n).expectedTag) :
    takeDisplaced n f s = s.modNode n fun _ => noted f (s.node n) := by
  rw [takeDisplaced, if_neg fun c => h.elim (· c.1) (· c.2)]
  exact modNode_at s n _

/-! ### A node that is back (R111) -/

theorem relieveGroup_eq (n g : Nat) (u : State) :
    let gr := u.group g
    let able := u.modGroup g fun _ => { gr with unavailable := false }
    relieveGroup n g u = if gr.enable = true ∧ gr.node = n ∧ gr.unavailable = true then
      requestCore gr.zone (if gr.misses < 3 then clear .actuatorSilent g able else able) else u := by
  intro gr able
  unfold relieveGroup
  by_cases h : gr.enable = true ∧ gr.node = n ∧ gr.unavailable = true
  · obtain ⟨e, at', off⟩ := h
    have silent : groupSilent gr = true := (groupSilent_true gr).2 (.inl off)
    have after : groupSilent { gr with unavailable := false } = true ↔ 3 ≤ gr.misses := by simp [groupSilent_true]
    have judged : changeJudged g (fun gr => { gr with unavailable := false }) u =
        if gr.misses < 3 then clear .actuatorSilent g able else able := by
      rw [changeJudged_eq g _ u (enabled_group u g e) rfl, follow_eq]
      by_cases few : gr.misses < 3
      · have quiet : groupSilent { gr with unavailable := false } = false := by
          rw [← Bool.not_eq_true, after]
          omega
        rw [if_neg (by simp [gr, quiet]), if_pos ⟨silent, quiet⟩, if_pos few]
      · have still : groupSilent { gr with unavailable := false } = true := after.2 (by omega)
        rw [if_neg (by simp [gr, silent]), if_neg (by simp [gr, still]), if_neg few]
    rw [if_pos (by simp [gr, e, at', off]), if_pos ⟨e, at', off⟩, judged]
  · rw [if_neg (by simpa [gr, and_assoc] using h), if_neg h]

/-- R111: the groups of a node that is back, in index order. -/
theorem nodeBack_eq (n : Nat) (s : State) : nodeBack n s = (List.range 48).foldl (fun (u : State) (g : Nat) =>
    let gr := u.group g
    let able := u.modGroup g fun _ => { gr with unavailable := false }
    if gr.enable = true ∧ gr.node = n ∧ gr.unavailable = true then
      requestCore gr.zone (if gr.misses < 3 then clear .actuatorSilent g able else able)
    else u) s := by
  unfold nodeBack forEach
  congr 1
  funext u g
  exact relieveGroup_eq n g u

/-! ### The frame taken, by the state of its node (R43) -/

section takeFrame

variable {n : Nat} {f : Frame} {s : State}

theorem takeFrame_absent (h : (s.node n).state = .absent) : takeFrame n f s = s := by
  simp only [takeFrame, h]

theorem takeFrame_hunting (h : (s.node n).state = .hunting) : takeFrame n f s = takeHunting n f s := by
  simp only [takeFrame, h]

theorem takeFrame_tagcheck (h : (s.node n).state = .tagcheck) : takeFrame n f s = takeTagcheck n f s := by
  simp only [takeFrame, h]

theorem takeFrame_online (h : (s.node n).state = .online) : takeFrame n f s = takeOnline n f s := by
  simp only [takeFrame, h]

theorem takeFrame_silent (h : (s.node n).state = .silent) : takeFrame n f s = takeSilent n f s := by
  simp only [takeFrame, h]

theorem takeFrame_displaced (h : (s.node n).state = .displaced) : takeFrame n f s = takeDisplaced n f s := by
  simp only [takeFrame, h]

end takeFrame

/-- R44 to R50: the record of the node after a frame, in each state. -/
theorem node_takeFrame_hunting (n : Nat) (f : Frame) (s : State) (l : n < 64) (h : (s.node n).state = .hunting) :
    let nd := s.node n
    let t := (takeFrame n f s).node n
    t.runLength = runAfter nd f ∧ t.lastSeq = f.seq ∧
      t.state = if runAfter nd f < 3 then .hunting else if nd.tagCheck then .tagcheck else .online := by
  intro nd t
  simp only [t]
  rw [takeFrame_hunting h]
  by_cases r : runAfter nd f < 3
  · rw [takeHunting_short n f s l h r, node_modNode_self _ _ _ l, if_pos r]
    exact ⟨rfl, rfl, h⟩
  · rw [if_neg r]
    cases c : nd.tagCheck with
    | true =>
      rw [takeHunting_checked n f s l h (not_lt.1 r) c, node_modNode_self _ _ _ l]
      exact ⟨rfl, rfl, rfl⟩
    | false =>
      rw [takeHunting_online n f s l h (not_lt.1 r) c, node_enteredOnline _ _ _ l]
      exact ⟨rfl, rfl, rfl⟩

theorem node_takeFrame_tagcheck (n : Nat) (f : Frame) (s : State) (l : n < 64) (h : (s.node n).state = .tagcheck) :
    let t := (takeFrame n f s).node n
    t.lastSeq = f.seq ∧ t.state = if f.kind = kindTag then
      (if tagOf f.payload = (s.node n).expectedTag then .online else .displaced) else .tagcheck := by
  intro t
  simp only [t]
  rw [takeFrame_tagcheck h]
  by_cases k : f.kind = kindTag
  · by_cases e : tagOf f.payload = (s.node n).expectedTag
    · rw [takeTagcheck_equal n f s l h k e, node_enteredOnline _ _ _ l, if_pos k, if_pos e]
      exact ⟨rfl, rfl⟩
    · rw [takeTagcheck_unequal n f s l h k e, node_raise, node_modNode_self _ _ _ l, if_pos k, if_neg e]
      exact ⟨rfl, rfl⟩
  · rw [takeTagcheck_other n f s k, node_modNode_self _ _ _ l, if_neg k]
    exact ⟨rfl, h⟩

theorem node_takeFrame_compared (n : Nat) (f : Frame) (s : State) (l : n < 64) (h : (s.node n).state = .online)
    (k : f.kind = kindTag) (c : (s.node n).tagCheck = true) (a : 1 ≤ gapOf (s.node n) f)
    (b : gapOf (s.node n) f ≤ 16) :
    let t := (takeFrame n f s).node n
    t.lastSeq = f.seq ∧ t.receivedTag = tagOf f.payload ∧ t.recheckDue = false ∧
      t.state = if tagOf f.payload = (s.node n).expectedTag then .online else .displaced := by
  intro t
  have tag : (inSequence f (s.node n)).receivedTag = tagOf f.payload := if_pos k
  simp only [t]
  rw [takeFrame_online h, takeOnline_sequence n f s a b]
  by_cases e : tagOf f.payload = (s.node n).expectedTag
  · rw [takeInSequence_equal n f s l k c e, node_modNode_self _ _ _ l, if_pos e]
    exact ⟨rfl, tag, rfl, h⟩
  · rw [takeInSequence_unequal n f s l h k c e, node_raise, node_leftOnline _ _ _ l, if_neg e]
    exact ⟨rfl, tag, rfl, rfl⟩

theorem node_takeFrame_silent (n : Nat) (f : Frame) (s : State) (l : n < 64) (h : (s.node n).state = .silent) :
    let t := (takeFrame n f s).node n
    t.lastSeq = f.seq ∧ t.state = .hunting ∧ t.runLength = 1 := by
  intro t
  simp only [t]
  rw [takeFrame_silent h, takeSilent_eq, node_clear, node_modNode_self _ _ _ l]
  exact ⟨rfl, rfl, rfl⟩

theorem node_takeFrame_displaced (n : Nat) (f : Frame) (s : State) (l : n < 64) (h : (s.node n).state = .displaced) :
    let t := (takeFrame n f s).node n
    t.lastSeq = f.seq ∧ t.state = if f.kind = kindTag ∧ tagOf f.payload = (s.node n).expectedTag then .hunting
      else .displaced := by
  intro t
  simp only [t]
  rw [takeFrame_displaced h]
  by_cases e : f.kind = kindTag ∧ tagOf f.payload = (s.node n).expectedTag
  · rw [takeDisplaced_returns n f s e.1 e.2, node_nodeBack, node_clear, node_modNode_self _ _ _ l, if_pos e]
    exact ⟨rfl, rfl⟩
  · rw [takeDisplaced_stays n f s (not_and_or.1 e), node_modNode_self _ _ _ l, if_neg e]
    exact ⟨rfl, h⟩

/-- Settles O22: the frame taken, whole, in each state of its node; the groups of a node that is back; the record of
the node after it. -/
theorem framesJudgeContinuityAndState : Obligations.FramesJudgeContinuityAndState := by
  unfold Obligations.FramesJudgeContinuityAndState
  refine ⟨fun n f s l => ?_, fun n s => nodeBack_eq n s, fun n f s l o c => ?_, fun n f s l => ?_⟩
  · intro nd gap run isTag equal noted' counted becomes ofNode leaves enters displaced t
    have runs : runAfter nd f = run := runAfter_eq nd f
    refine ⟨takeFrame_absent, fun h => ?_, fun h => ?_, fun h => ?_, fun h => ?_, fun h => ?_⟩
    · have taken : t = takeHunting n f s := takeFrame_hunting h
      rw [taken]
      simp only [← runs]
      exact ⟨takeHunting_short n f s l h, takeHunting_checked n f s l h, takeHunting_online n f s l h⟩
    · have taken : t = takeTagcheck n f s := takeFrame_tagcheck h
      rw [taken]
      exact ⟨takeTagcheck_other n f s, takeTagcheck_equal n f s l h, takeTagcheck_unequal n f s l h⟩
    · have taken : t = takeOnline n f s := takeFrame_online h
      rw [taken]
      refine ⟨takeOnline_duplicate n f s, fun a b => ?_, takeOnline_restarted n f s l h⟩
      rw [takeOnline_sequence n f s a b]
      exact ⟨takeInSequence_plain n f s l, takeInSequence_equal n f s l, takeInSequence_unequal n f s l h⟩
    · exact (takeFrame_silent h).trans (takeSilent_eq n f s)
    · have taken : t = takeDisplaced n f s := takeFrame_displaced h
      rw [taken]
      exact ⟨takeDisplaced_returns n f s, takeDisplaced_stays n f s⟩
  · intro nd gap tag t
    have taken : t = takeOnline n f s := takeFrame_online o
    have plain : f.kind ≠ kindTag ∨ nd.tagCheck = false := not_or_of_imp c
    refine ⟨(node_takeFrame n f s l).2, fun g => ?_, fun a b => ?_, fun g => ?_⟩
    · rw [taken, takeOnline_duplicate n f s g]
    · rw [taken, takeOnline_sequence n f s a b, takeInSequence_plain n f s l plain]
      rfl
    · rw [taken, takeOnline_restarted n f s l o g]
      exact ⟨node_leftOnline _ _ _ l, fun i _ e b => point_leftOnline n i _ s e b⟩
  · intro nd gap run equal t
    have runs : runAfter nd f = run := runAfter_eq nd f
    rw [← runs]
    exact ⟨node_takeFrame_hunting n f s l, node_takeFrame_tagcheck n f s l, node_takeFrame_compared n f s l,
      node_takeFrame_silent n f s l, node_takeFrame_displaced n f s l⟩

end Sys2Proof.Machine
end

section
/-! PROOF. The judgement of a value that is written (O40): the fields' kinds, the codes, the order of the refusals. -/

namespace Sys2Proof.Machine

/-! ### The kinds of the fields (R161) -/

theorem mem_fieldBlock (f n k : Nat) : f ∈ (List.range n).map (· + k) ↔ k ≤ f ∧ f < n + k := by
  rw [List.mem_map]
  constructor
  · rintro ⟨a, m, rfl⟩
    rw [List.mem_range] at m
    omega
  · intro h
    exact ⟨f - k, List.mem_range.2 (by omega), by omega⟩

theorem inTable_iff (t : TableId) (p : Position) :
    inTable t p = true ↔ p.entry < entryCount t ∧ p.field < fieldCount t p.entry := by
  simp only [inTable, Bool.and_eq_true, decide_eq_true_eq]

/-- Configuration fields, table by table (11, the service tables). -/
def configField (t : TableId) (p : Position) : Prop :=
  match t with
  | .device => p.entry = 0 ∧ (3 ≤ p.field ∧ p.field ≤ 12 ∨ 23 ≤ p.field)
  | .node => p.field = 0 ∨ 3 ≤ p.field ∧ p.field ≤ 12
  | .point => p.field = 0 ∨ p.field = 5
  | .object => p.field = 0 ∨ 11 ≤ p.field ∧ p.field ≤ 23
  | .group => p.field = 0 ∨ 5 ≤ p.field ∧ p.field ≤ 10
  | .zone => p.field ≤ 5 ∨ 8 ≤ p.field ∧ p.field ≤ 23
  | .condition => False
  | .counter => p.field = 4

/-- Binding fields, table by table. -/
def bindingField (t : TableId) (f : Nat) : Prop :=
  match t with
  | .node => f = 1 ∨ f = 2
  | .point => 1 ≤ f ∧ f ≤ 4
  | .object => 1 ≤ f ∧ f ≤ 10
  | .group => 1 ≤ f ∧ f ≤ 4
  | .device => False
  | .zone => False
  | .condition => False
  | .counter => False

theorem access_config (t : TableId) (p : Position) : access t p = .config ↔ configField t p := by
  cases t with
  | condition => simp [access, configField]
  | device | zone | counter =>
    simp only [access, configField]
    split <;> simp_all
  | node | point | object | group =>
    simp only [access, configField]
    split
    · simp only [reduceCtorEq, false_iff]
      omega
    · split
      · simp only [true_iff]
        omega
      · simp only [reduceCtorEq, false_iff]
        omega

theorem access_binding (t : TableId) (p : Position) : access t p = .binding ↔ bindingField t p.field := by
  cases t with
  | condition => simp [access, bindingField]
  | device | zone | counter =>
    simp only [access, bindingField, iff_false]
    split <;> simp
  | node | point | object | group =>
    simp only [access, bindingField]
    split
    · next h => simp [h]
    · next h =>
      simp only [h, iff_false]
      split <;> simp

/-! ### The codes of the fields (R162) -/

/-- The fields that take 0 and 1, the latches of DEVICE entry 0 left out. -/
def flagField (t : TableId) (f : Nat) : Prop :=
  match t with
  | .device => f = 7 ∨ f = 8 ∨ f = 12 ∨ 23 ≤ f
  | .node => f = 0 ∨ f = 4
  | .point => f = 0 ∨ f = 5
  | .object => f = 0
  | .group => f = 0
  | .zone => f = 0 ∨ f = 4
  | .condition => False
  | .counter => False

/-- The greatest code of a field that takes codes from 1. -/
def topCode (t : TableId) (f : Nat) : Option Nat :=
  match t with
  | .node => if f = 2 then some 2 else none
  | .group => if f = 1 then some 2 else none
  | .zone => if f = 5 then some 3 else none
  | .point => if f = 3 then some 4 else none
  | .device => none
  | .object => none
  | .condition => none
  | .counter => none

theorem codeAccepted_flag (t : TableId) (p : Position) (v : Half) (h : flagField t p.field) :
    codeAccepted t p v = decide (v.toNat ≤ 1) := by
  obtain ⟨e, f⟩ := p
  cases t with
  | device =>
    rcases h with h | h | h | h
    · dsimp only at h; subst h; rfl
    · dsimp only at h; subst h; rfl
    · dsimp only at h; subst h; rfl
    · obtain ⟨k, rfl⟩ := Nat.exists_eq_add_of_le' h
      simp [codeAccepted]
  | node | point | zone =>
    rcases h with h | h
    · dsimp only at h; subst h; rfl
    · dsimp only at h; subst h; rfl
  | object | group => simp only [flagField] at h; subst h; rfl
  | condition | counter => exact h.elim

theorem codeAccepted_code (t : TableId) (p : Position) (v : Half) (n : Nat) (h : topCode t p.field = some n) :
    codeAccepted t p v = decide (1 ≤ v.toNat ∧ v.toNat ≤ n) := by
  obtain ⟨e, f⟩ := p
  cases t with
  | node | group | zone | point =>
    simp only [topCode, Option.ite_none_right_eq_some, Option.some.injEq] at h
    obtain ⟨rfl, rfl⟩ := h
    rfl
  | device | object | condition | counter => cases h

theorem codeAccepted_number (t : TableId) (p : Position) (v : Half) (a : ¬flagField t p.field)
    (b : topCode t p.field = none) : codeAccepted t p v = true := by
  unfold codeAccepted
  dsimp only
  split <;> simp_all [flagField, topCode]

/-! ### The order of the judgement (R161) -/

section writeValue

variable {t : TableId} {p : Position} {v : Half} {s : State}

theorem writeValue_beyond (i : inTable t p = false) : writeValue t p v s = (s, .range) := by
  simp [writeValue, i]

theorem writeValue_readOnly (i : inTable t p = true) (a : access t p = .readOnly) :
    writeValue t p v s = (s, .readOnly) := by
  simp [writeValue, i, a]

theorem writeValue_badCode (i : inTable t p = true) (a : access t p ≠ .readOnly) (c : codeAccepted t p v = false) :
    writeValue t p v s = (s, .range) := by
  simp [writeValue, i, a, c]

theorem writeValue_bound (i : inTable t p = true) (a : access t p = .binding) (c : codeAccepted t p v = true)
    (e : entryEnabled s t p.entry = true) : writeValue t p v s = (s, .enabled) := by
  simp [writeValue, i, a, c, e]

/-- R161: what passes the judgement goes to the owning block. -/
theorem writeValue_owned (i : inTable t p = true) (c : codeAccepted t p v = true)
    (a : configField t p ∨ bindingField t p.field ∧ entryEnabled s t p.entry = false) :
    writeValue t p v s = writeOwned t p v s := by
  unfold writeValue
  rw [← access_config, ← access_binding] at a
  rcases a with a | ⟨a, e⟩
  · simp [i, c, a]
  · simp [i, c, a, e]

end writeValue

/-- The statuses of a value that is refused. -/
def refusal (st : Status) : Prop := st = .readOnly ∨ st = .range ∨ st = .refError ∨ st = .enabled

theorem not_refusal_storedStatus (b : Bool) : ¬refusal (storedStatus b) := by
  cases b <;> simp [storedStatus, refusal]

theorem writeEnable_refused (e : Bool) (v : Half) (a b : Bool) (on off : State → State) (s : State)
    (h : refusal (writeEnable e v a b on off s).2) : (writeEnable e v a b on off s).1 = s := by
  unfold writeEnable at h ⊢
  split at h
  · split at h
    · exact absurd h (not_refusal_storedStatus false)
    · split at h
      · exact absurd h (not_refusal_storedStatus false)
      · next v1 e0 a0 => rw [if_pos v1, if_neg e0, if_neg a0]
  · split at h
    · split at h
      · exact absurd h (not_refusal_storedStatus false)
      · next v1 e1 b0 => rw [if_neg v1, if_pos e1, if_neg b0]
    · next v1 e0 => rw [if_neg v1, if_neg e0]

theorem writeDevice_refused (f : Nat) (v : Half) (s : State) (h : refusal (writeDevice f v s).2) :
    (writeDevice f v s).1 = s := by
  unfold writeDevice at h ⊢
  split at h
  · unfold writeOwnAddress at h ⊢
    dsimp only at h ⊢
    split at h
    · next taken => rw [if_pos taken]
    · exact absurd h (not_refusal_storedStatus _)
  · exact absurd h (not_refusal_storedStatus false)
  · exact absurd h (not_refusal_storedStatus false)
  · exact absurd h (not_refusal_storedStatus _)

theorem writeShade_refused (z : Nat) (v : Half) (s : State) (h : refusal (writeShade z v s).2) :
    (writeShade z v s).1 = s := by
  unfold writeShade at h ⊢
  dsimp only at h ⊢
  split at h
  · exact absurd h (not_refusal_storedStatus _)
  · next other => rw [if_neg other]

/-- A block that refuses a value leaves the state as it is: only an enable, the own address and a shade can be
refused. -/
theorem writeOwned_refused (t : TableId) (p : Position) (v : Half) (s : State) (h : refusal (writeOwned t p v s).2) :
    (writeOwned t p v s).1 = s := by
  cases t with
  | device => exact writeDevice_refused _ _ _ h
  | condition => rfl
  | counter => exact absurd h (not_refusal_storedStatus false)
  | node =>
    simp only [writeOwned, writeNode] at h ⊢
    split at h
    · next f => rw [if_pos f]; exact writeEnable_refused _ _ _ _ _ _ _ h
    · exact absurd h (not_refusal_storedStatus _)
  | point =>
    simp only [writeOwned, writePoint] at h ⊢
    split at h
    · next f => rw [if_pos f]; exact writeEnable_refused _ _ _ _ _ _ _ h
    · exact absurd h (not_refusal_storedStatus _)
  | object =>
    simp only [writeOwned, writeObject] at h ⊢
    split at h
    · next f => rw [if_pos f]; exact writeEnable_refused _ _ _ _ _ _ _ h
    · exact absurd h (not_refusal_storedStatus _)
  | group =>
    simp only [writeOwned, writeGroup] at h ⊢
    split at h
    · next f => rw [if_pos f]; exact writeEnable_refused _ _ _ _ _ _ _ h
    · exact absurd h (not_refusal_storedStatus _)
  | zone =>
    simp only [writeOwned, writeZone] at h ⊢
    split at h
    · next f => rw [if_pos f]; exact writeEnable_refused _ _ _ _ _ _ _ h
    · split at h
      · next nf f => rw [if_neg nf, if_pos f]; exact writeShade_refused _ _ _ h
      · exact absurd h (not_refusal_storedStatus _)

theorem writeValue_refused (t : TableId) (p : Position) (v : Half) (s : State) (h : refusal (writeValue t p v s).2) :
    (writeValue t p v s).1 = s := by
  unfold writeValue at h ⊢
  split at h
  · next c1 => rw [if_pos c1]
  · next c1 =>
    rw [if_neg c1]
    split at h
    · next c2 => rw [if_pos c2]
    · next c2 =>
      rw [if_neg c2]
      split at h
      · next c3 => rw [if_pos c3]
      · next c3 =>
        rw [if_neg c3]
        split at h
        · next c4 => rw [if_pos c4]
        · next c4 =>
          rw [if_neg c4]
          exact writeOwned_refused t p v s h

end Sys2Proof.Machine
end

section
/-! PROOF. The values that pass the judgement, stored field by field (O40). -/

namespace Sys2Proof.Machine

/-! ### What a value is stored as (R42, R54, R74, R99, R126, R159, R181) -/

theorem storedStatus_putInt (lo hi v : Int) :
    storedStatus (putInt lo hi v).2 = if max lo (min hi v) = v then .ok else .clamped :=
  storedStatus_iff (by simp [putInt, clampInt])

theorem putIndex_eq (top : Nat) (v : Half) :
    (putIndex top v).1 = (if v = 0xFFFF then none else some (min top v.toNat)) ∧
    storedStatus (putIndex top v).2 = if v = 0xFFFF ∨ v.toNat ≤ top then .ok else .clamped := by
  by_cases n : v = 0xFFFF
  · subst n
    exact ⟨rfl, rfl⟩
  · have put : putIndex top v = (some (min top v.toNat), decide (top < v.toNat)) := if_neg n
    rw [put, if_neg n]
    refine ⟨rfl, storedStatus_iff ?_⟩
    simp only [n, false_or, decide_eq_true_eq, Nat.not_le]

theorem quantityOfCode_eq (v : Half) (a : 1 ≤ v.toNat) (b : v.toNat ≤ 4) : (quantityOfCode v.toNat).getD .illum =
    if v = 1 then .illum else if v = 2 then .uvr else if v = 3 then .temp else .rh := by
  have code : v.toNat = 1 ∨ v.toNat = 2 ∨ v.toNat = 3 ∨ v.toNat = 4 := by omega
  rcases code with c | c | c | c
  · obtain rfl : v = 1 := BitVec.eq_of_toNat_eq c
    rfl
  · obtain rfl : v = 2 := BitVec.eq_of_toNat_eq c
    rfl
  · obtain rfl : v = 3 := BitVec.eq_of_toNat_eq c
    rfl
  · obtain rfl : v = 4 := BitVec.eq_of_toNat_eq c
    rfl

theorem putTag_eq {n : Nat} (t : Vector Half n) (k : Fin n) (v : Half) : putTag t k.val v = t.set k v := dif_pos k.isLt

/-! ### Nodes -/

theorem tagCheck_putNode (f : Nat) (v : Half) (n : Node) (h : f ≠ 4) : (putNode f v n).1.tagCheck = n.tagCheck := by
  unfold putNode
  split
  case _ => rfl
  case _ => rfl
  case _ => rfl
  case _ => rfl
  case _ => exact absurd rfl h
  case _ => rfl

/-- A field of a node that is no enable and no tag check. -/
theorem writeNode_field (i f : Nat) (v : Half) (s : State) (l : i < 64) (a : f ≠ 0) (b : f ≠ 4) : writeNode i f v s =
    (s.modNode i fun n => (putNode f v n).1, storedStatus (putNode f v (s.node i)).2) := by
  simp only [writeNode, if_neg a, node_modNode_self _ _ _ l, tagCheck_putNode f v _ b, Bool.and_not_self,
    Bool.false_eq_true, if_false]

theorem writeValue_node (i f : Nat) (v : Half) (s : State) (l : i < 64) (a : f ≠ 0) (b : f ≠ 4) (w : f ≤ 12)
    (c : codeAccepted .node ⟨i, f⟩ v = true) (e : 3 ≤ f ∨ (s.node i).enable = false) : writeValue .node ⟨i, f⟩ v s =
      (s.modNode i fun n => (putNode f v n).1, storedStatus (putNode f v (s.node i)).2) := by
  have inside : inTable .node ⟨i, f⟩ = true := (inTable_iff _ _).2 ⟨l, show f < 28 by omega⟩
  rw [writeValue_owned inside c]
  · exact writeNode_field i f v s l a b
  · by_cases low : 3 ≤ f
    · exact .inl (.inr ⟨low, w⟩)
    · exact .inr ⟨show f = 1 ∨ f = 2 by omega, e.resolve_left low⟩

/-! ### Points -/

theorem writeValue_point (i f : Nat) (v : Half) (s : State) (l : i < 192) (a : f ≠ 0) (w : f ≤ 5)
    (c : codeAccepted .point ⟨i, f⟩ v = true) (e : f = 5 ∨ (s.point i).enable = false) : writeValue .point ⟨i, f⟩ v s =
      (s.modPoint i fun p => (putPoint f v p).1, storedStatus (putPoint f v (s.point i)).2) := by
  have inside : inTable .point ⟨i, f⟩ = true := (inTable_iff _ _).2 ⟨l, show f < 11 by omega⟩
  rw [writeValue_owned inside c]
  · exact if_neg a
  · by_cases forward : f = 5
    · exact .inl (.inr forward)
    · exact .inr ⟨show 1 ≤ f ∧ f ≤ 4 by omega, e.resolve_left forward⟩

/-! ### Objects -/

theorem ceilingFollows_false (f : Nat) (o x : Obj) (h : f < 11 ∨ 15 ≤ f ∧ f ≤ 18 ∨ f = 21) :
    ceilingFollows f o x = false := by
  simp only [ceilingFollows, Bool.or_eq_false_iff, Bool.and_eq_false_iff, decide_eq_false_iff_not, beq_eq_false_iff_ne]
  omega

/-- A field of an object that the ceiling computation does not follow. -/
theorem writeValue_object (i f : Nat) (v : Half) (s : State) (l : i < 256) (a : f ≠ 0)
    (q : f < 11 ∨ 15 ≤ f ∧ f ≤ 18 ∨ f = 21) (e : 11 ≤ f ∨ (s.object i).enable = false) : writeValue .object ⟨i, f⟩ v s =
      (s.modObject i fun o => (putObject f v o).1, storedStatus (putObject f v (s.object i)).2) := by
  have inside : inTable .object ⟨i, f⟩ = true := (inTable_iff _ _).2 ⟨l, show f < 44 by omega⟩
  have code : codeAccepted .object ⟨i, f⟩ v = true := codeAccepted_number _ _ v a rfl
  rw [writeValue_owned inside code]
  · simp only [writeOwned, writeObject, if_neg a, ceilingFollows_false f _ _ q, Bool.false_eq_true, if_false]
  · by_cases config : 11 ≤ f
    · exact .inl (.inr ⟨config, show f ≤ 23 by omega⟩)
    · exact .inr ⟨show 1 ≤ f ∧ f ≤ 10 by omega, e.resolve_left config⟩

theorem putObject_tag (k : Fin 6) (v : Half) (o : Obj) :
    putObject (k.val + 1) v o = ({ o with tag := o.tag.set k v }, false) := by
  have tag : putTag o.tag k.val v = o.tag.set k v := putTag_eq o.tag k v
  rw [← tag]
  match k with
  | 0 => rfl
  | 1 => rfl
  | 2 => rfl
  | 3 => rfl
  | 4 => rfl
  | 5 => rfl

/-! ### Groups -/

/-- A field of a group that requests no evaluation. -/
theorem writeValue_group (i f : Nat) (v : Half) (s : State) (l : i < 48) (a : f ≠ 0) (q : f < 5 ∨ 7 ≤ f ∧ f ≤ 9)
    (c : codeAccepted .group ⟨i, f⟩ v = true) (e : 5 ≤ f ∨ (s.group i).enable = false) : writeValue .group ⟨i, f⟩ v s =
      (s.modGroup i fun g => (putGroup f v g).1, storedStatus (putGroup f v (s.group i)).2) := by
  have inside : inTable .group ⟨i, f⟩ = true := (inTable_iff _ _).2 ⟨l, show f < 18 by omega⟩
  have quiet : (f == 5 || f == 6 || f == 10) = false := by
    simp only [Bool.or_eq_false_iff, beq_eq_false_iff_ne]
    omega
  rw [writeValue_owned inside c]
  · simp only [writeOwned, writeGroup, if_neg a, quiet, Bool.false_and, Bool.false_eq_true, if_false]
  · by_cases config : 5 ≤ f
    · exact .inl (.inr ⟨config, show f ≤ 10 by omega⟩)
    · exact .inr ⟨show 1 ≤ f ∧ f ≤ 4 by omega, e.resolve_left config⟩

/-! ### Zones -/

/-- A field of a zone that nothing follows. -/
theorem writeValue_zone (i f : Nat) (v : Half) (s : State) (l : i < 24) (a : 14 ≤ f) (b : f ≤ 21) :
    writeValue .zone ⟨i, f⟩ v s =
      (s.modZone i fun z => (putZone f v z).1, storedStatus (putZone f v (s.zone i)).2) := by
  have inside : inTable .zone ⟨i, f⟩ = true := (inTable_iff _ _).2 ⟨l, show f < 63 by omega⟩
  have code : codeAccepted .zone ⟨i, f⟩ v = true :=
    codeAccepted_number _ _ v (show ¬(f = 0 ∨ f = 4) by omega) (if_neg (show f ≠ 5 by omega))
  rw [writeValue_owned inside code (.inl (.inr ⟨show 8 ≤ f by omega, show f ≤ 23 by omega⟩))]
  unfold writeOwned writeZone zoneStored
  dsimp only
  rw [if_neg (by omega), if_neg (by omega), if_neg (by omega), if_neg (by omega), if_neg (by omega), if_neg (by omega)]

end Sys2Proof.Machine
end

section
/-! PROOF. A write is judged in order (O40): the clauses of the statement, table by table. -/

namespace Sys2Proof.Machine

/-! ### The values that are stored, table by table -/

section stored

variable (v : Half)

/-- A write that stores, with its status in the statement's words. -/
theorem stored_of {w : State × Status} {t : State} {b : Bool} {st : Status} (h : w = (t, storedStatus b))
    (e : storedStatus b = st) : w = (t, st) := by
  rw [h, e]

theorem writeValue_device_numbers (s : State) :
    (writeValue .device ⟨0, 4⟩ v s = ({ s with device := { s.device with mgmtAddress := max 0 (min 126 v.toNat) } },
      if max 0 (min 126 v.toNat) = v.toNat then .ok else .clamped)) ∧
    (writeValue .device ⟨0, 9⟩ v s = ({ s with device := { s.device with replyWindow := max 10 (min 500 v.toNat) } },
      if max 10 (min 500 v.toNat) = v.toNat then .ok else .clamped)) ∧
    (writeValue .device ⟨0, 10⟩ v s =
      ({ s with device := { s.device with silenceThreshold := max 3 (min 15 v.toNat) } },
      if max 3 (min 15 v.toNat) = v.toNat then .ok else .clamped)) := by
  refine ⟨?_, ?_, ?_⟩
  · exact stored_of (writeValue_device 4 v s (.inl (by omega))) (storedStatus_putNat 0 126 _)
  · exact stored_of (writeValue_device 9 v s (.inl (by omega))) (storedStatus_putNat 10 500 _)
  · exact stored_of (writeValue_device 10 v s (.inl (by omega))) (storedStatus_putNat 3 15 _)

theorem writeValue_supervisionAction (s : State) (h : v.toNat ≤ 1) : writeValue .device ⟨0, 12⟩ v s =
    ({ s with device := { s.device with supervisionAction := if v = 1 then .revert else .hold } }, .ok) :=
  (writeValue_device 12 v s (.inl (by omega))).trans (if_pos (decide_eq_true h))

theorem writeValue_threshold (s : State) (i : Nat) (l : i < 17) : writeValue .counter ⟨i, 4⟩ v s =
    ({ s with counters := modifyAt s.counters i fun c => { c with threshold := v.toNat } }, .ok) :=
  writeValue_owned ((inTable_iff _ _).2 ⟨l, show 4 < 5 by omega⟩) rfl (.inl rfl)

theorem writeValue_node_fields (s : State) (i : Nat) (l : i < 64) :
    (writeValue .node ⟨i, 3⟩ v s = (s.modNode i fun n => { n with pollPeriod := max 2 (min 600 v.toNat) },
      if max 2 (min 600 v.toNat) = v.toNat then .ok else .clamped)) ∧
    (∀ k : Fin 8, writeValue .node ⟨i, k.val + 5⟩ v s =
      (s.modNode i fun n => { n with expectedTag := n.expectedTag.set k v }, .ok)) ∧
    ((s.node i).enable = false →
      (writeValue .node ⟨i, 1⟩ v s = (s.modNode i fun n => { n with address := max 1 (min 126 v.toNat) },
        if max 1 (min 126 v.toNat) = v.toNat then .ok else .clamped)) ∧
      (1 ≤ v.toNat → v.toNat ≤ 2 → writeValue .node ⟨i, 2⟩ v s =
        (s.modNode i fun n => { n with role := if v = 2 then .actuator else .sensor }, .ok))) := by
  refine ⟨?_, fun k => ?_, fun off => ⟨?_, fun low high => ?_⟩⟩
  · exact stored_of (writeValue_node i 3 v s l (by omega) (by omega) (by omega) rfl (.inl (by omega)))
      (storedStatus_putNat 2 600 _)
  · have number : codeAccepted .node ⟨i, k.val + 5⟩ v = true :=
      codeAccepted_number .node ⟨i, k.val + 5⟩ v (show ¬(k.val + 5 = 0 ∨ k.val + 5 = 4) by omega) (by simp [topCode])
    rw [writeValue_node i (k.val + 5) v s l (by omega) (by omega) (by omega) number (.inl (by omega))]
    have put : ∀ n : Node, putNode (k.val + 5) v n = ({ n with expectedTag := n.expectedTag.set k v }, false) :=
      fun n => by rw [← putTag_eq]; rfl
    simp only [put]
    rfl
  · exact stored_of (writeValue_node i 1 v s l (by omega) (by omega) (by omega) rfl (.inr off))
      (storedStatus_putNat 1 126 _)
  · exact writeValue_node i 2 v s l (by omega) (by omega) (by omega) (decide_eq_true ⟨low, high⟩) (.inr off)

theorem writeValue_point_fields (s : State) (i : Nat) (l : i < 192) :
    (v.toNat ≤ 1 → writeValue .point ⟨i, 5⟩ v s = (s.modPoint i fun p => { p with forward := v == 1 }, .ok)) ∧
    ((s.point i).enable = false →
      (writeValue .point ⟨i, 1⟩ v s = (s.modPoint i fun p => { p with node := max 0 (min 63 v.toNat) },
        if max 0 (min 63 v.toNat) = v.toNat then .ok else .clamped)) ∧
      (writeValue .point ⟨i, 2⟩ v s = (s.modPoint i fun p => { p with channel := max 0 (min 7 v.toNat) },
        if max 0 (min 7 v.toNat) = v.toNat then .ok else .clamped)) ∧
      (1 ≤ v.toNat → v.toNat ≤ 4 → writeValue .point ⟨i, 3⟩ v s =
        (s.modPoint i fun p => { p with quantity :=
          if v = 1 then .illum else if v = 2 then .uvr else if v = 3 then .temp else .rh }, .ok)) ∧
      (writeValue .point ⟨i, 4⟩ v s = (s.modPoint i fun p => { p with zone := max 0 (min 23 v.toNat) },
        if max 0 (min 23 v.toNat) = v.toNat then .ok else .clamped))) := by
  refine ⟨fun flag => ?_, fun off => ⟨?_, ?_, fun low high => ?_, ?_⟩⟩
  · exact writeValue_point i 5 v s l (by omega) (by omega) (decide_eq_true flag) (.inl rfl)
  · exact stored_of (writeValue_point i 1 v s l (by omega) (by omega) rfl (.inr off)) (storedStatus_putNat 0 63 _)
  · exact stored_of (writeValue_point i 2 v s l (by omega) (by omega) rfl (.inr off)) (storedStatus_putNat 0 7 _)
  · rw [← quantityOfCode_eq v low high]
    exact writeValue_point i 3 v s l (by omega) (by omega) (decide_eq_true ⟨low, high⟩) (.inr off)
  · exact stored_of (writeValue_point i 4 v s l (by omega) (by omega) rfl (.inr off)) (storedStatus_putNat 0 23 _)

theorem writeValue_object_numbers (s : State) (i : Nat) (l : i < 256) :
    (writeValue .object ⟨i, 15⟩ v s = (s.modObject i fun o => { o with assumed := max 0 (min 1000 v.toNat) },
      if max 0 (min 1000 v.toNat) = v.toNat then .ok else .clamped)) ∧
    (writeValue .object ⟨i, 16⟩ v s = (s.modObject i fun o => { o with uvLimit := max 0 (min 5000 v.toNat) },
      if max 0 (min 5000 v.toNat) = v.toNat then .ok else .clamped)) ∧
    (writeValue .object ⟨i, 17⟩ v s = (s.modObject i fun o => { o with uvSlope := max 0 (min 20 v.toNat) },
      if max 0 (min 20 v.toNat) = v.toNat then .ok else .clamped)) ∧
    (writeValue .object ⟨i, 18⟩ v s = (s.modObject i fun o => { o with startDay := max 1 (min 365 v.toNat) },
      if max 1 (min 365 v.toNat) = v.toNat then .ok else .clamped)) ∧
    (writeValue .object ⟨i, 21⟩ v s = (s.modObject i fun o => { o with overThreshold := max 0 (min 1440 v.toNat) },
      if max 0 (min 1440 v.toNat) = v.toNat then .ok else .clamped)) := by
  refine ⟨?_, ?_, ?_, ?_, ?_⟩
  · exact stored_of (writeValue_object i 15 v s l (by omega) (by omega) (.inl (by omega)))
      (storedStatus_putNat 0 1000 _)
  · exact stored_of (writeValue_object i 16 v s l (by omega) (by omega) (.inl (by omega)))
      (storedStatus_putNat 0 5000 _)
  · exact stored_of (writeValue_object i 17 v s l (by omega) (by omega) (.inl (by omega))) (storedStatus_putNat 0 20 _)
  · exact stored_of (writeValue_object i 18 v s l (by omega) (by omega) (.inl (by omega))) (storedStatus_putNat 1 365 _)
  · exact stored_of (writeValue_object i 21 v s l (by omega) (by omega) (.inl (by omega)))
      (storedStatus_putNat 0 1440 _)

theorem writeValue_object_bindings (s : State) (i : Nat) (l : i < 256) (off : (s.object i).enable = false) :
    (∀ k : Fin 6, writeValue .object ⟨i, k.val + 1⟩ v s =
      (s.modObject i fun o => { o with tag := o.tag.set k v }, .ok)) ∧
    (writeValue .object ⟨i, 7⟩ v s = (s.modObject i fun o => { o with zone := max 0 (min 23 v.toNat) },
      if max 0 (min 23 v.toNat) = v.toNat then .ok else .clamped)) ∧
    (writeValue .object ⟨i, 8⟩ v s = (s.modObject i fun o => { o with lightPoint := max 0 (min 191 v.toNat) },
      if max 0 (min 191 v.toNat) = v.toNat then .ok else .clamped)) ∧
    (writeValue .object ⟨i, 9⟩ v s = (s.modObject i fun o =>
        { o with uvPoint := if v = 0xFFFF then none else some (min 191 v.toNat) },
      if v = 0xFFFF ∨ v.toNat ≤ 191 then .ok else .clamped)) ∧
    (writeValue .object ⟨i, 10⟩ v s = (s.modObject i fun o =>
        { o with lampGroup := if v = 0xFFFF then none else some (min 47 v.toNat) },
      if v = 0xFFFF ∨ v.toNat ≤ 47 then .ok else .clamped)) := by
  refine ⟨fun k => ?_, ?_, ?_, ?_, ?_⟩
  · rw [writeValue_object i (k.val + 1) v s l (by omega) (by omega) (.inr off)]
    simp only [putObject_tag]
    rfl
  · exact stored_of (writeValue_object i 7 v s l (by omega) (by omega) (.inr off)) (storedStatus_putNat 0 23 _)
  · exact stored_of (writeValue_object i 8 v s l (by omega) (by omega) (.inr off)) (storedStatus_putNat 0 191 _)
  · rw [← (putIndex_eq 191 v).1]
    exact stored_of (writeValue_object i 9 v s l (by omega) (by omega) (.inr off)) (putIndex_eq 191 v).2
  · rw [← (putIndex_eq 47 v).1]
    exact stored_of (writeValue_object i 10 v s l (by omega) (by omega) (.inr off)) (putIndex_eq 47 v).2

theorem writeValue_group_fields (s : State) (i : Nat) (l : i < 48) :
    (writeValue .group ⟨i, 7⟩ v s = (s.modGroup i fun g => { g with step := max 1 (min 200 v.toNat) },
      if max 1 (min 200 v.toNat) = v.toNat then .ok else .clamped)) ∧
    (writeValue .group ⟨i, 8⟩ v s = (s.modGroup i fun g => { g with hold := max 0 (min 200 v.toNat) },
      if max 0 (min 200 v.toNat) = v.toNat then .ok else .clamped)) ∧
    (writeValue .group ⟨i, 9⟩ v s = (s.modGroup i fun g => { g with settle := max 1 (min 255 v.toNat) },
      if max 1 (min 255 v.toNat) = v.toNat then .ok else .clamped)) ∧
    ((s.group i).enable = false →
      (1 ≤ v.toNat → v.toNat ≤ 2 → writeValue .group ⟨i, 1⟩ v s =
        (s.modGroup i fun g => { g with kind := if v = 2 then .shade else .lamp }, .ok)) ∧
      (writeValue .group ⟨i, 2⟩ v s = (s.modGroup i fun g => { g with zone := max 0 (min 23 v.toNat) },
        if max 0 (min 23 v.toNat) = v.toNat then .ok else .clamped)) ∧
      (writeValue .group ⟨i, 3⟩ v s = (s.modGroup i fun g => { g with node := max 0 (min 63 v.toNat) },
        if max 0 (min 63 v.toNat) = v.toNat then .ok else .clamped)) ∧
      (writeValue .group ⟨i, 4⟩ v s = (s.modGroup i fun g => { g with channel := max 0 (min 3 v.toNat) },
        if max 0 (min 3 v.toNat) = v.toNat then .ok else .clamped))) := by
  refine ⟨?_, ?_, ?_, fun off => ⟨fun low high => ?_, ?_, ?_, ?_⟩⟩
  · exact stored_of (writeValue_group i 7 v s l (by omega) (by omega) rfl (.inl (by omega)))
      (storedStatus_putNat 1 200 _)
  · exact stored_of (writeValue_group i 8 v s l (by omega) (by omega) rfl (.inl (by omega)))
      (storedStatus_putNat 0 200 _)
  · exact stored_of (writeValue_group i 9 v s l (by omega) (by omega) rfl (.inl (by omega)))
      (storedStatus_putNat 1 255 _)
  · exact writeValue_group i 1 v s l (by omega) (by omega) (decide_eq_true ⟨low, high⟩) (.inr off)
  · exact stored_of (writeValue_group i 2 v s l (by omega) (by omega) rfl (.inr off)) (storedStatus_putNat 0 23 _)
  · exact stored_of (writeValue_group i 3 v s l (by omega) (by omega) rfl (.inr off)) (storedStatus_putNat 0 63 _)
  · exact stored_of (writeValue_group i 4 v s l (by omega) (by omega) rfl (.inr off)) (storedStatus_putNat 0 3 _)

end stored

/-! ### The statement's lists -/

/-- The configuration fields of a table, listed. -/
def configList (t : TableId) (p : Position) : List Nat :=
  match t with
  | .device => if p.entry = 0 then (List.range 10).map (· + 3) ++ (List.range 19).map (· + 23) else []
  | .node => [0] ++ (List.range 10).map (· + 3)
  | .point => [0, 5]
  | .object => [0] ++ (List.range 13).map (· + 11)
  | .group => [0] ++ (List.range 6).map (· + 5)
  | .zone => List.range 6 ++ (List.range 16).map (· + 8)
  | .condition => []
  | .counter => [4]

theorem configField_iff_mem (t : TableId) (p : Position) (inside : inTable t p = true) :
    configField t p ↔ p.field ∈ configList t p := by
  obtain ⟨_, below⟩ := (inTable_iff t p).1 inside
  cases t with
  | device =>
    by_cases first : p.entry = 0
    · have width : p.field < 42 := by simpa [fieldCount, first] using below
      simp only [configList, configField, first, if_true, true_and, List.mem_append, mem_fieldBlock]
      omega
    · simp [configList, configField, first]
  | node | object | group =>
    simp only [configList, configField, List.mem_append, List.mem_singleton, mem_fieldBlock]
    omega
  | point => simp [configList, configField]
  | zone =>
    simp only [configList, configField, List.mem_append, List.mem_range, mem_fieldBlock]
    omega
  | condition | counter => simp [configList, configField]

/-- The binding fields of a table, listed. -/
def bindingList (t : TableId) : List Nat :=
  match t with
  | .node => [1, 2]
  | .point => [1, 2, 3, 4]
  | .object => (List.range 10).map (· + 1)
  | .group => [1, 2, 3, 4]
  | _ => []

theorem bindingField_iff_mem (t : TableId) (f : Nat) : bindingField t f ↔ f ∈ bindingList t := by
  cases t with
  | node => simp [bindingList, bindingField]
  | point | group =>
    simp only [bindingList, bindingField, List.mem_cons, List.not_mem_nil, or_false]
    omega
  | object =>
    simp only [bindingList, bindingField, mem_fieldBlock]
    omega
  | device | zone | condition | counter => simp [bindingList, bindingField]

/-- The fields that take 0 and 1, listed. -/
def flagList : List (TableId × Nat) :=
  [(.device, 7), (.device, 8), (.device, 12), (.node, 0), (.node, 4), (.point, 0),
    (.point, 5), (.object, 0), (.group, 0), (.zone, 0), (.zone, 4)] ++ (List.range 19).map fun k => (.device, k + 23)

theorem mem_flagList (t : TableId) (f : Nat) :
    (t, f) ∈ flagList ↔ flagField t f ∧ (t = .device → f < 42) := by
  have block : (t, f) ∈ (List.range 19).map (fun k => (TableId.device, k + 23)) ↔ t = .device ∧ 23 ≤ f ∧ f < 42 := by
    rw [List.mem_map]
    constructor
    · rintro ⟨k, m, e⟩
      obtain ⟨rfl, rfl⟩ := Prod.mk.inj e
      rw [List.mem_range] at m
      exact ⟨rfl, by omega, by omega⟩
    · rintro ⟨rfl, low, high⟩
      exact ⟨f - 23, List.mem_range.2 (by omega), congrArg (Prod.mk _) (by omega)⟩
  rw [flagList, List.mem_append, block]
  cases t with
  | device =>
    simp only [flagField, List.mem_cons, Prod.mk.injEq, reduceCtorEq, List.not_mem_nil, true_and, false_and, or_false,
      forall_const]
    omega
  | node | point | object | group | zone | condition | counter => simp [flagField]

/-- A field's flag as the device's latches above the table's end are out of reach. -/
theorem flagField_iff_mem (t : TableId) (p : Position) (inside : inTable t p = true) :
    flagField t p.field ↔ (t, p.field) ∈ flagList := by
  obtain ⟨_, below⟩ := (inTable_iff t p).1 inside
  rw [mem_flagList, iff_self_and]
  rintro _ rfl
  refine Nat.lt_of_lt_of_le below ?_
  simp only [fieldCount]
  split <;> omega

/-- The greatest code of a field, as the statement lists it. -/
def topList (x : TableId × Nat) : Option Nat :=
  if x = (.node, 2) ∨ x = (.group, 1) then some 2
  else if x = (.zone, 5) then some 3 else if x = (.point, 3) then some 4 else none

theorem topCode_eq_topList (t : TableId) (f : Nat) : topCode t f = topList (t, f) := by
  cases t <;> simp [topCode, topList]

/-! ### O40 -/

/-- R161 to R163: the kinds and the codes of the fields within a table. -/
theorem kindsAndCodes (t : TableId) (p : Position) (v : Half) (inside : inTable t p = true) :
    (access t p = .config ↔ p.field ∈ configList t p) ∧ (access t p = .binding ↔ p.field ∈ bindingList t) ∧
    ((t, p.field) ∈ flagList → (codeAccepted t p v = true ↔ v.toNat ≤ 1)) ∧
    (∀ n, topList (t, p.field) = some n → (codeAccepted t p v = true ↔ 1 ≤ v.toNat ∧ v.toNat ≤ n)) ∧
    ((t, p.field) ∉ flagList → topList (t, p.field) = none → codeAccepted t p v = true) := by
  rw [← topCode_eq_topList, ← flagField_iff_mem t p inside]
  refine ⟨(access_config t p).trans (configField_iff_mem t p inside),
    (access_binding t p).trans (bindingField_iff_mem t p.field), fun flag => ?_, fun n code => ?_,
    codeAccepted_number t p v⟩
  · rw [codeAccepted_flag t p v flag, decide_eq_true_iff]
  · rw [codeAccepted_code t p v n code, decide_eq_true_iff]

/-- Settles O40: the kinds and codes table by table, the values that are stored, and the order of the refusals. -/
theorem writeIsJudgedInOrder : Obligations.WriteIsJudgedInOrder := by
  refine ⟨fun t p v inside => kindsAndCodes t p v inside, fun v s => ⟨?_, ?_, ?_, ?_, ?_, ?_, ?_⟩, fun t p v s => ?_⟩
  · obtain ⟨address, window, threshold⟩ := writeValue_device_numbers v s
    exact ⟨address, window, threshold, writeValue_supervisionAction v s⟩
  · exact writeValue_threshold v s
  · exact writeValue_node_fields v s
  · exact writeValue_point_fields v s
  · intro i l
    obtain ⟨assumed, limit, slope, day, minutes⟩ := writeValue_object_numbers v s i l
    exact ⟨assumed, limit, slope, day, minutes, writeValue_object_bindings v s i l⟩
  · exact writeValue_group_fields v s
  · intro i l
    refine ⟨?_, ?_, ?_, ?_, ?_, ?_, ?_, ?_⟩
    · exact stored_of (writeValue_zone i 14 v s l (by omega) (by omega)) (storedStatus_putNat 1 120 _)
    · exact stored_of (writeValue_zone i 15 v s l (by omega) (by omega)) (storedStatus_putInt 0 10000 _)
    · exact stored_of (writeValue_zone i 16 v s l (by omega) (by omega)) (storedStatus_putInt 0 12500 _)
    · exact stored_of (writeValue_zone i 17 v s l (by omega) (by omega)) (storedStatus_putInt 100 3000 _)
    · exact stored_of (writeValue_zone i 18 v s l (by omega) (by omega)) (storedStatus_putInt 0 10000 _)
    · exact stored_of (writeValue_zone i 19 v s l (by omega) (by omega)) (storedStatus_putInt 0 500 _)
    · exact stored_of (writeValue_zone i 20 v s l (by omega) (by omega)) (storedStatus_putInt (-4000) 8500 _)
    · exact stored_of (writeValue_zone i 21 v s l (by omega) (by omega)) (storedStatus_putInt 0 500 _)
  · exact ⟨writeValue_beyond, writeValue_readOnly, writeValue_badCode, writeValue_bound,
      fun st e refused => writeValue_refused t p v s (e ▸ refused)⟩

end Sys2Proof.Machine
end

section
/-! PROOF. The tag check of a node, written (O45). -/

namespace Sys2Proof.Machine

section tagCheck

variable (rq : Requester) (node v : Half) (s : State)

/-- A change of one node's record that leaves its enable asks for no grant. -/
theorem asksGrant_modNode (n : Nat) (f : Node → Node) (s t : State) (e : (f (s.node n)).enable = (s.node n).enable)
    (nodes : t.nodes = (s.modNode n f).nodes) (q : t.galleryOrigin = s.galleryOrigin)
    (l : t.loading = s.loading) (d : t.device = s.device) : asksGrant s t = false := by
  rw [← Bool.not_eq_true, asksGrant_iff, q]
  rintro (⟨g, new, old⟩ | ⟨m, _, off, on⟩ | ⟨off, on⟩)
  · exact old new
  · rw [node_congr nodes, node_modNode] at on
    split at on
    · next same => rw [← same.1, e, same.1, off] at on; exact Bool.noConfusion on
    · rw [off] at on; exact Bool.noConfusion on
  · rw [show portOn t .gallery = portOn s .gallery by simp only [portOn, l, d], off] at on
    exact Bool.noConfusion on

/-- R52: the tag check's field stands in the table where the node does, and a value of it is 0 or 1. -/
theorem tagCheckField (n : Nat) :
    (n < 64 → inTable .node ⟨n, 4⟩ = true) ∧ configField .node ⟨n, 4⟩ ∧
      codeAccepted .node ⟨n, 4⟩ v = decide (v.toNat ≤ 1) :=
  ⟨fun l => (inTable_iff .node ⟨n, 4⟩).2 ⟨l, show 4 < 28 by omega⟩,
    show 4 = 0 ∨ 3 ≤ 4 ∧ 4 ≤ 12 by omega, codeAccepted_flag _ _ _ (.inr rfl)⟩

theorem tagCheckWrite_range (h : 64 ≤ node.toNat ∨ 1 < v.toNat) :
    exec (.tagCheckWrite rq node v) s = .next (answer rq .range (fieldReached .node node 4 s)) := by
  have refused : writeValue .node ⟨node.toNat, 4⟩ v (fieldReached .node node 4 s) =
      (fieldReached .node node 4 s, .range) := by
    obtain ⟨inside, config, code⟩ := tagCheckField v node.toNat
    by_cases l : node.toNat < 64
    · refine writeValue_badCode (inside l) ?_ (code.trans (decide_eq_false (by omega)))
      rw [(access_config _ _).2 config]
      exact fun c => by cases c
    · exact writeValue_beyond (Bool.eq_false_iff.2 fun c => l ((inTable_iff _ _).1 c).1)
  have run := request_field rq .node node 4 v s (by omega)
  dsimp only at run
  rw [refused] at run
  exact run.trans (congrArg Host.Outcome.next (answered_self rq .range _))

/-- A value that is stored, with no grant asked for, is answered OK. -/
theorem tagCheckWrite_stored (t : State) (quiet : asksGrant (fieldReached .node node 4 s) t = false)
    (h : writeValue .node ⟨node.toNat, 4⟩ v (fieldReached .node node 4 s) = (t, .ok)) :
    exec (.tagCheckWrite rq node v) s = .next (answer rq .ok t) := by
  have run := request_field rq .node node 4 v s (by omega)
  dsimp only at run
  rw [h] at run
  exact run.trans (congrArg Host.Outcome.next (answered_of rq .ok quiet))

/-- R52: the value is stored, and what a tag check that goes off does follows it. -/
theorem writeValue_tagCheck (l : node.toNat < 64) (c : v.toNat ≤ 1) : writeValue .node ⟨node.toNat, 4⟩ v s =
    (if (s.node node.toNat).tagCheck && !(v == 1) then
        tagCheckOff node.toNat (s.modNode node.toNat fun nd => { nd with tagCheck := v == 1 })
      else s.modNode node.toNat fun nd => { nd with tagCheck := v == 1 }, .ok) := by
  obtain ⟨inside, config, code⟩ := tagCheckField v node.toNat
  rw [writeValue_owned (inside l) (code.trans (decide_eq_true c)) (.inl config)]
  simp only [writeOwned, writeNode, putNode, node_modNode_self _ _ _ l]
  rfl

/-! ### A tag check that goes off (R52) -/

theorem tagCheckOff_online (n : Nat) (h : (s.node n).state = .online) :
    tagCheckOff n s = s.modNode n fun nd => { nd with recheckDue := false } := by
  simp only [tagCheckOff, h]

theorem tagCheckOff_tagcheck (n : Nat) (h : (s.node n).state = .tagcheck) :
    tagCheckOff n s = changeNode n (fun nd => { nd with state := .online }) s := by
  simp only [tagCheckOff, h]

theorem tagCheckOff_other (n : Nat) (a : (s.node n).state ≠ .tagcheck) (b : (s.node n).state ≠ .online) :
    tagCheckOff n s = s := by
  unfold tagCheckOff
  split
  · next h => exact absurd h a
  · next h => exact absurd h b
  · rfl
  · rfl
  · rfl
  · rfl

/-- The tag check of a node set to `b`, alone. -/
theorem tagCheckWrite_alone (b : Bool) (l : node.toNat < 64) (c : v.toNat ≤ 1) (d : (v == 1) = b)
    (h : (s.node node.toNat).tagCheck = false ∨ b = true ∨
      (s.node node.toNat).state ≠ .tagcheck ∧ (s.node node.toNat).state ≠ .online) :
    exec (.tagCheckWrite rq node v) s = .next (answer rq .ok
      ((fieldReached .node node 4 s).modNode node.toNat fun nd => { nd with tagCheck := b })) := by
  refine tagCheckWrite_stored rq node v s _ ?_ ((writeValue_tagCheck node v _ l c).trans ?_)
  · exact asksGrant_modNode _ _ _ _ rfl rfl rfl rfl rfl
  · rw [d]
    split
    · next off =>
      rw [node_fieldReached, Bool.and_eq_true, Bool.not_eq_true'] at off
      obtain ⟨on, zero⟩ := off
      have state := (h.resolve_left (by simp [on])).resolve_left (by simp [zero])
      rw [tagCheckOff_other]
      · rw [node_modNode_self _ _ _ l, node_fieldReached]
        exact state.1
      · rw [node_modNode_self _ _ _ l, node_fieldReached]
        exact state.2
    · rfl

/-- R52: the tag check of a node ONLINE, taken off: no recheck is due any more. -/
theorem tagCheckWrite_online (l : node.toNat < 64) (on : (s.node node.toNat).tagCheck = true)
    (h : (s.node node.toNat).state = .online) :
    exec (.tagCheckWrite rq node 0) s = .next (answer rq .ok
      ((fieldReached .node node 4 s).modNode node.toNat
        fun nd => { nd with tagCheck := false, recheckDue := false })) := by
  refine tagCheckWrite_stored rq node 0 s _ ?_ ((writeValue_tagCheck node 0 _ l (Nat.zero_le 1)).trans ?_)
  · exact asksGrant_modNode _ _ _ _ rfl rfl rfl rfl rfl
  · rw [node_fieldReached, on, tagCheckOff_online, modNode_twice]
    · rfl
    · rw [node_modNode_self _ _ _ l, node_fieldReached]
      exact h

/-- R52, R55: the tag check of a node in TAGCHECK, taken off: the node is ONLINE and its points are judged. -/
theorem tagCheckWrite_tagcheck (l : node.toNat < 64) (on : (s.node node.toNat).tagCheck = true)
    (h : (s.node node.toNat).state = .tagcheck) :
    exec (.tagCheckWrite rq node 0) s = .next (answer rq .ok (enteredOnline node.toNat
      { s.node node.toNat with tagCheck := false, state := .online } (fieldReached .node node 4 s))) := by
  refine tagCheckWrite_stored rq node 0 s _ ?_ ((writeValue_tagCheck node 0 _ l (Nat.zero_le 1)).trans ?_)
  · exact asksGrant_modNode node.toNat (fun _ => { s.node node.toNat with tagCheck := false, state := .online }) _ _
      (by rw [node_fieldReached]) rfl rfl rfl rfl
  · have stored : (((fieldReached .node node 4 s).modNode node.toNat fun nd => { nd with tagCheck := false }).node
        node.toNat) = { s.node node.toNat with tagCheck := false } := by
      rw [node_modNode_self _ _ _ l, node_fieldReached]
    rw [node_fieldReached, on]
    refine congrArg (Prod.mk · Status.ok) ?_
    refine (if_pos rfl).trans ?_
    refine (tagCheckOff_tagcheck _ _ ((congrArg Node.state stored).trans h)).trans ?_
    refine (changeNode_enters _ _ _ l ?_ rfl).trans ?_
    · refine fun c => ?_
      have state := (congrArg Node.state stored).trans h
      rw [c] at state
      cases state
    · rw [modNode_twice, points_modNode]
      exact congrArg (fun x : Node => enteredOnline node.toNat { x with state := .online } _) stored

end tagCheck

/-- Settles O45, by the value and the state of the node; a node that turns ONLINE changes points and its record only. -/
theorem tagCheckWrite : Obligations.TagCheckWrite := by
  intro rq node value s u n nd
  refine ⟨tagCheckWrite_range rq node value s, ?_, ?_, ?_, ?_, ?_⟩
  · rintro l rfl
    exact tagCheckWrite_alone rq node 1 s true l (Nat.le_refl 1) rfl (.inr (.inl rfl))
  · rintro l rfl off
    exact tagCheckWrite_alone rq node 0 s false l (Nat.zero_le 1) rfl (off.imp_right .inr)
  · rintro l rfl on h
    exact tagCheckWrite_online rq node s l on h
  · rintro l rfl on h
    refine (tagCheckWrite_tagcheck rq node s l on h).trans ?_
    simp only [enteredOnline, points_fieldReached]
    rfl
  · rintro l rfl on h
    refine ⟨_, tagCheckWrite_tagcheck rq node s l on h, ?_, fun k other => ?_, ?_, ?_, ?_, ?_⟩
    · exact (node_congr (nodes_answer ..) n).trans (node_enteredOnline n _ _ l)
    · refine (node_congr (nodes_answer ..) k).trans ?_
      exact (node_modNode_other _ _ _ _ (Ne.symm other)).trans (node_fieldReached ..)
    · exact (zones_answer ..).trans (zones_fieldReached .node node 4 s)
    · exact (groups_answer ..).trans (groups_fieldReached .node node 4 s)
    · exact (objects_answer ..).trans (objects_fieldReached .node node 4 s)
    · exact (device_answer ..).trans (device_fieldReached .node node 4 s)

end Sys2Proof.Machine
end

section
/-! PROOF. The minute tick: the Calendar advances, issues its rolls, and the blocks work (O26). -/

namespace Sys2Proof.Machine

/-! ### What the blocks of a tick and of a roll leave unchanged -/

/-- The tables that the blocks work on, blanked. -/
def blankBlocks (s : State) : State :=
  { s with
    points := Vector.replicate 192 factoryPoint, objects := Vector.replicate 256 factoryObject,
    zones := Vector.replicate 24 factoryZone }

/-- Work of the blocks from `s` to `t`: it changes points, objects and zones, and what reports, evaluations and grants
change. -/
def Worked (s t : State) : Prop := blankBlocks (exceptLight t) = blankBlocks (exceptLight s)

theorem Worked.refl (s : State) : Worked s s := rfl

theorem Worked.trans {s t u : State} (h : Worked s t) (k : Worked t u) : Worked s u := Eq.trans k h

theorem Lit.worked {s t : State} (h : Lit s t) : Worked s t := congrArg blankBlocks h.frame

theorem Reported.worked {s t : State} (h : Reported s t) : Worked s t := h.lit.worked

theorem worked_of_objects {s t : State} (h : exceptObjects t = exceptObjects s) : Worked s t :=
  (congrArg blankBlocks h :)

theorem worked_of_modes {s t : State} (h : exceptModes t = exceptModes s) : Worked s t :=
  (congrArg blankBlocks h :)

theorem worked_modZone (s : State) (z : Nat) (f : Zone → Zone) : Worked s (s.modZone z f) := rfl

theorem worked_modObject (s : State) (i : Nat) (f : Obj → Obj) : Worked s (s.modObject i f) := rfl

theorem worked_foldl {α : Type} (f : State → α → State) (h : ∀ s a, Worked s (f s a)) (l : List α) (s : State) :
    Worked s (l.foldl f s) := by
  induction l generalizing s with
  | nil => rfl
  | cons a l ih => exact (h s a).trans (ih _)

theorem worked_forEach (n : Nat) (f : Nat → State → State) (h : ∀ i s, Worked s (f i s)) (s : State) :
    Worked s (forEach n f s) := worked_foldl _ (fun s i => h i s) _ s

theorem Worked.fields {s t : State} (h : Worked s t) : t.calendar = s.calendar ∧ t.handed = s.handed ∧
    t.nodes = s.nodes ∧ t.device = s.device ∧ t.store = s.store ∧ t.save = s.save ∧ t.cursors = s.cursors ∧
    t.supervision = s.supervision ∧ t.procedure = s.procedure :=
  ⟨(congrArg State.calendar h :), (congrArg State.handed h :), (congrArg State.nodes h :),
    (congrArg State.device h :), (congrArg State.store h :), (congrArg State.save h :), (congrArg State.cursors h :),
    (congrArg State.supervision h :), (congrArg State.procedure h :)⟩

/-! ### The blocks of a minute tick (R55, R80, R101, R129) -/

theorem worked_judgePoints (s : State) : Worked s (judgePoints s) := rfl

theorem worked_judgeOver (i e : Nat) (s : State) : Worked s (judgeOver i e s) := by
  unfold judgeOver
  split
  · exact (reported_raise _ _ _ _).worked
  · rfl

theorem worked_accrueObject (t : Tick) (i : Nat) (s : State) : Worked s (accrueObject t i s) := by
  unfold accrueObject
  dsimp only
  split
  · exact (((worked_modObject s i _).trans (reported_follow _ _ _ _ _ _).worked).trans (worked_judgeOver _ _ _)).trans
      (worked_of_objects (exceptObjects_ceilingEvent _ _))
  · rfl

theorem worked_bandCondition (q : ClimateQuantity) (z : Nat) (b : BandState) (s : State) :
    Worked s (bandCondition q z b s) := by
  unfold bandCondition
  split
  · exact (reported_raise _ _ _ _).worked
  · exact (reported_raise _ _ _ _).worked
  · exact (reported_clear _ _ _).worked
  · exact (reported_clear _ _ _).worked
  · exact .refl s
  · exact .refl s
  · exact .refl s

theorem worked_stepBand (q : ClimateQuantity) (z : Nat) (s : State) : Worked s (stepBand q z s) := by
  unfold stepBand
  dsimp only
  split
  · exact .refl s
  · split
    · exact ((worked_modZone s z _).trans (reported_clearIf _ _ _ _).worked).trans (worked_bandCondition _ _ _ _)
    · exact (worked_modZone s z _).trans (reported_clearIf _ _ _ _).worked

theorem worked_judgeBlind (z : Nat) (s : State) : Worked s (judgeBlind z s) :=
  (worked_modZone s z _).trans (reported_follow _ _ _ _ _ _).worked

theorem worked_climateMinuteZone (z : Nat) (s : State) : Worked s (climateMinuteZone z s) := by
  unfold climateMinuteZone
  split
  · exact ((((worked_modZone s z _).trans (worked_judgeBlind z _)).trans (worked_modZone _ z _)).trans
      (worked_stepBand _ z _)).trans (worked_stepBand _ z _)
  · exact .refl s

theorem worked_readersMinute (t : Tick) (s : State) : Worked s (readersMinute t s) :=
  ((worked_forEach 256 _ (worked_accrueObject t) s).trans
    (worked_of_modes (judgesMode_judgeMode.foldl (List.range 24) _).1)).trans
    (worked_forEach 24 _ worked_climateMinuteZone _)

theorem worked_blocksMinute (m : Bool) (t : Tick) (s : State) : Worked s (blocksMinute m t s) := by
  cases m with
  | true => exact (worked_judgePoints s).trans (worked_readersMinute t _)
  | false => exact (worked_readersMinute t s).trans (worked_judgePoints _)

/-! ### The Calendar (R64 to R67) -/

theorem tickOf_eq (c : Calendar) :
    tickOf c = if c.isSet then ⟨true, c.year, c.day, c.minute⟩ else ⟨false, 0, c.localDay, c.localMinute⟩ := by
  unfold tickOf calendarDay calendarMinute
  cases c.isSet <;> rfl

/-- The state with the Calendar `c`, the rolls handed on. -/
def withRolls (c : Calendar) (rolls : List Instr) (s : State) : State :=
  { s with calendar := c, handed := s.handed ++ rolls }

/-- The hour roll that a minute issues. -/
def hourRolls (m : Nat) : List Instr := if m % 60 = 0 then [.hourRoll] else []

theorem handHour (m : Nat) (c : Calendar) (s : State) :
    (if m % 60 = 0 then handOn .hourRoll { s with calendar := c } else { s with calendar := c }) =
      withRolls c (hourRolls m) s := by
  unfold hourRolls
  split
  · rfl
  · simp only [withRolls, List.append_nil]

/-- The Calendar with its seconds count restarted. -/
theorem advanceCalendar_eq (s : State) : advanceCalendar s =
    if s.calendar.isSet then advanceSet { s with calendar := restartSeconds s.calendar }
    else advanceUnset { s with calendar := restartSeconds s.calendar } := rfl

section advance

variable (s : State)

/-- R66: within the day. -/
theorem advanceCalendar_minute (on : s.calendar.isSet = true) (m : s.calendar.minute + 1 < 1440) :
    advanceCalendar s = withRolls { s.calendar with seconds := 0, phase := 0, minute := s.calendar.minute + 1 }
      (hourRolls (s.calendar.minute + 1)) s := by
  rw [advanceCalendar_eq, if_pos on]
  exact (if_neg (Nat.not_le.2 m)).trans (handHour (s.calendar.minute + 1) _ s)

theorem advanceCalendar_midnight (on : s.calendar.isSet = true) (m : 1440 ≤ s.calendar.minute + 1) :
    advanceCalendar s = passMidnight { s with calendar := restartSeconds s.calendar } := by
  rw [advanceCalendar_eq, if_pos on]
  exact if_pos m

/-- R66, step 1: to a day that the Calendar has. -/
theorem advanceCalendar_day (on : s.calendar.isSet = true) (m : 1440 ≤ s.calendar.minute + 1) (d : Date)
    (next : nextDate ⟨s.calendar.year, s.calendar.day⟩ = d) (y : d.year ≤ 2199) :
    advanceCalendar s =
      withRolls { s.calendar with seconds := 0, phase := 0, year := d.year, day := d.day, minute := 0 }
        [.hourRoll, .dayRoll d] s := by
  subst next
  rw [advanceCalendar_midnight s on m]
  refine (if_neg (Nat.not_lt.2 y)).trans ?_
  simp only [handOn, withRolls, List.append_assoc, List.cons_append, List.nil_append, restartSeconds]

/-- R66, step 3: beyond the last day of 2199. -/
theorem advanceCalendar_overflow (on : s.calendar.isSet = true) (m : 1440 ≤ s.calendar.minute + 1)
    (y : 2199 < (nextDate ⟨s.calendar.year, s.calendar.day⟩).year) :
    advanceCalendar s = raise .clockUnset 0 0 (withRolls
      { s.calendar with seconds := 0, phase := 0, isSet := false, localDay := 0, localMinute := 0 } [.hourRoll] s) := by
  rw [advanceCalendar_midnight s on m]
  exact if_pos y

/-- R67: within the local day. -/
theorem advanceCalendar_localMinute (off : s.calendar.isSet = false) (m : s.calendar.localMinute + 1 < 1440) :
    advanceCalendar s =
      withRolls { s.calendar with seconds := 0, phase := 0, localMinute := s.calendar.localMinute + 1 }
        (hourRolls (s.calendar.localMinute + 1)) s := by
  rw [advanceCalendar_eq, off]
  exact (if_neg (Nat.not_le.2 m)).trans (handHour (s.calendar.localMinute + 1) _ s)

theorem advanceCalendar_localDay (off : s.calendar.isSet = false) (m : 1440 ≤ s.calendar.localMinute + 1) :
    advanceCalendar s = withRolls { s.calendar with
      seconds := 0, phase := 0, localMinute := 0, localDay := min 65535 (s.calendar.localDay + 1) } [.hourRoll] s := by
  rw [advanceCalendar_eq, off]
  exact if_pos m

/-- The Calendar's part of a tick changes the Calendar, the rolls and what a report changes. -/
theorem advanceCalendar_rest : ∃ c rolls, Worked (withRolls c rolls s) (advanceCalendar s) := by
  by_cases on : s.calendar.isSet = true
  · by_cases m : s.calendar.minute + 1 < 1440
    · rw [advanceCalendar_minute s on m]
      exact ⟨_, _, .refl _⟩
    · by_cases y : 2199 < (nextDate ⟨s.calendar.year, s.calendar.day⟩).year
      · rw [advanceCalendar_overflow s on (Nat.not_lt.1 m) y]
        exact ⟨_, _, (reported_raise _ _ _ _).worked⟩
      · rw [advanceCalendar_day s on (Nat.not_lt.1 m) _ rfl (Nat.not_lt.1 y)]
        exact ⟨_, _, .refl _⟩
  · rw [Bool.not_eq_true] at on
    by_cases m : s.calendar.localMinute + 1 < 1440
    · rw [advanceCalendar_localMinute s on m]
      exact ⟨_, _, .refl _⟩
    · rw [advanceCalendar_localDay s on (Nat.not_lt.1 m)]
      exact ⟨_, _, .refl _⟩

end advance

theorem nextDate_within (y d : Nat) (h : d + 1 ≤ yearLength y) : nextDate ⟨y, d⟩ = ⟨y, d + 1⟩ := if_pos h

theorem nextDate_beyond (y d : Nat) (h : yearLength y < d + 1) : nextDate ⟨y, d⟩ = ⟨y + 1, 1⟩ :=
  if_neg (Nat.not_le.2 h)

/-- The six cases of the Calendar's advance (R66, R67). -/
theorem advanceCalendar_cases (s : State) :
    let c := { s.calendar with seconds := 0, phase := 0 }
    (c.isSet = true →
      (c.minute + 1 < 1440 →
        advanceCalendar s = withRolls { c with minute := c.minute + 1 } (hourRolls (c.minute + 1)) s) ∧
      (1440 ≤ c.minute + 1 → c.day + 1 ≤ yearLength c.year → c.year ≤ 2199 → advanceCalendar s =
        withRolls { c with day := c.day + 1, minute := 0 } [.hourRoll, .dayRoll ⟨c.year, c.day + 1⟩] s) ∧
      (1440 ≤ c.minute + 1 → yearLength c.year < c.day + 1 → c.year < 2199 → advanceCalendar s =
        withRolls { c with year := c.year + 1, day := 1, minute := 0 } [.hourRoll, .dayRoll ⟨c.year + 1, 1⟩] s) ∧
      (1440 ≤ c.minute + 1 → yearLength c.year < c.day + 1 → c.year = 2199 → advanceCalendar s =
        raise .clockUnset 0 0 (withRolls { c with isSet := false, localDay := 0, localMinute := 0 } [.hourRoll] s))) ∧
    (c.isSet = false →
      (c.localMinute + 1 < 1440 → advanceCalendar s =
        withRolls { c with localMinute := c.localMinute + 1 } (hourRolls (c.localMinute + 1)) s) ∧
      (1440 ≤ c.localMinute + 1 → advanceCalendar s =
        withRolls { c with localMinute := 0, localDay := min 65535 (c.localDay + 1) } [.hourRoll] s)) := by
  refine ⟨fun on => ⟨advanceCalendar_minute s on, fun m d y => ?_, fun m d y => ?_, fun m d y => ?_⟩,
    fun off => ⟨advanceCalendar_localMinute s off, advanceCalendar_localDay s off⟩⟩
  · exact advanceCalendar_day s on m _ (nextDate_within _ _ d) y
  · exact advanceCalendar_day s on m _ (nextDate_beyond _ _ d) y
  · refine advanceCalendar_overflow s on m ?_
    rw [nextDate_beyond _ _ d]
    exact Nat.lt_succ_of_le (Nat.le_of_eq y.symm)

/-! ### The tick as a whole -/

/-- R64: the blocks work after the Calendar's advance and leave it, and all but their tables, as it is. -/
theorem minuteTick_rest (m : Bool) (s : State) : let t := minuteTick m s
    t.calendar = (advanceCalendar s).calendar ∧ t.handed = (advanceCalendar s).handed ∧
      t.nodes = s.nodes ∧ t.device = s.device ∧ t.store = s.store ∧ t.save = s.save ∧ t.cursors = s.cursors ∧
      t.supervision = s.supervision ∧ t.procedure = s.procedure := by
  intro t
  have blocks : Worked (advanceCalendar s) t := worked_blocksMinute m (tickOf s.calendar) _
  obtain ⟨calendar, handed, -⟩ := blocks.fields
  obtain ⟨c, rolls, advance⟩ := advanceCalendar_rest s
  obtain ⟨-, -, rest⟩ := (advance.trans blocks).fields
  exact ⟨calendar, handed, rest⟩

theorem execMinuteTick_of_noRolls (m : Bool) (s : State) (h : noRollsHanded s) :
    exec (.minuteTick m) s = .next (minuteTick m (taken (.minuteTick m) s)) :=
  congrArg (fun u => Host.Outcome.next (minuteTick m u)) (takeRolls_noop _ (noRollsHanded_taken _ s h))

/-- Settles O26: the advance by its cases, the blocks by the frame of their work. -/
theorem tickAdvancesTheCalendar : Obligations.TickAdvancesTheCalendar := by
  refine ⟨yearLength_eq, advanceCalendar_cases, fun m s => ⟨fun rolls => ?_, ?_⟩, tickOf_eq, fun m s rolls => ?_⟩
  · exact takeRolls_noop _ (noRollsHanded_taken _ s rolls)
  · cases m <;> rfl
  · have hour : ∀ k, s.handed.erase (.minuteTick m) ++ hourRolls k =
        if k % 60 = 0 then s.handed.erase (.minuteTick m) ++ [.hourRoll] else s.handed.erase (.minuteTick m) := by
      intro k
      unfold hourRolls
      split
      · rfl
      · exact List.append_nil _
    refine ⟨_, execMinuteTick_of_noRolls m s rolls, ?_⟩
    obtain ⟨calendar, handed, rest⟩ := minuteTick_rest m (taken (.minuteTick m) s)
    obtain ⟨set, unset⟩ := advanceCalendar_cases (taken (.minuteTick m) s)
    rw [calendar, handed]
    refine ⟨fun on k => ?_, fun on k d y => ?_, fun on k d y => ?_, fun on k d y => ?_, fun off k => ?_,
      fun off k => ?_, rest⟩
    · obtain ⟨minute, -⟩ := set on
      rw [minute k]
      exact ⟨rfl, hour _⟩
    · obtain ⟨-, day, -⟩ := set on
      rw [day k d y]
      exact ⟨rfl, rfl⟩
    · obtain ⟨-, -, year, -⟩ := set on
      rw [year k d y]
      exact ⟨rfl, rfl⟩
    · obtain ⟨-, -, -, beyond⟩ := set on
      rw [beyond k d y, calendar_raise, handed_raise]
      exact ⟨rfl, rfl, rfl, rfl⟩
    · obtain ⟨minute, -⟩ := unset off
      rw [minute k]
      exact ⟨rfl, hour _⟩
    · obtain ⟨-, day⟩ := unset off
      rw [day k]
      exact ⟨rfl, rfl⟩

end Sys2Proof.Machine
end

section
/-! PROOF. The procedures: the refusals of a CALL, and those that complete at once (O49). -/

namespace Sys2Proof.Machine

/-! ### The judgement of a CALL (R165) -/

/-- The restart of the Supervision Timer does not touch what a CALL is judged by. -/
theorem judgeCall_supervisionRestart (s : State) (c : Call) : judgeCall (supervisionRestart s) c = judgeCall s c := by
  have busy : callBusy (supervisionRestart s) c = callBusy s c := by
    simp only [callBusy, procedure_supervisionRestart, save_supervisionRestart]
  have refusal : callRefusal (supervisionRestart s) c = callRefusal s c := by
    cases c <;> simp only [callRefusal, object_supervisionRestart, node_supervisionRestart, group_supervisionRestart]
  rw [judgeCall, judgeCall, busy, refusal]

section call

variable (rq : Requester) {c : Call} {s : State}

theorem call_refused {st : Status} (h : judgeCall s c = some st) :
    request rq (callElement c) s = .next (answer rq st (supervisionRestart s)) :=
  request_refused rq c st s (by rwa [judgeCall_supervisionRestart])

theorem call_accepted (h : judgeCall s c = none) (save : c ≠ .save) (restart : c ≠ .restart) :
    request rq (callElement c) s =
      .next (answered rq .ok (supervisionRestart s) (runCall c (supervisionRestart s))) :=
  request_accepted rq c s (by rwa [judgeCall_supervisionRestart]) save restart

/-- An immediate procedure leaves its work with the procedure DONE. -/
theorem call_completed (t : State) (h : judgeCall s c = none) (save : c ≠ .save) (restart : c ≠ .restart)
    (run : runCall c (supervisionRestart s) = procedureDone t) (p : t.procedure = s.procedure) :
    request rq (callElement c) s = .next (answered rq .ok (supervisionRestart s)
      { t with procedure := { s.procedure with state := .done, result := 0 } }) := by
  rw [call_accepted rq h save restart, run, procedureDone, p]

theorem judgeCall_busy (h : callBusy s c = true) : judgeCall s c = some .busy := if_pos h

theorem callBusy_of_running (h : s.procedure.state = .running) : callBusy s c = true := by
  simp [callBusy, h]

theorem callBusy_of_save (h : s.save ≠ none) : callBusy s .save = true := by
  simp [callBusy, Option.isSome_iff_ne_none.2 h]

theorem judgeCall_idle (h : s.procedure.state ≠ .running) (c : Call) (save : c ≠ .save) :
    judgeCall s c = if callInRange c then callRefusal s c else some .range := by
  have idle : ¬callBusy s c = true := by simp [callBusy, h, save]
  exact if_neg idle

end call

/-! ### The procedures that complete at once -/

/-- R95: the object takes the dose, DOSE_UNKNOWN is cleared where the object says that it stands, and the ceiling is
computed. -/
theorem setDose_eq (i d : Nat) (s : State) : setDose i d s =
    let o := s.object i
    let set := s.modObject i fun _ => dosed s.calendar d o
    ceilingCore i (if o.enable && o.unknown then clear .doseUnknown i set else set) := by
  rw [setDose, modObject_at]
  rfl

theorem procedure_ceilingCore (i : Nat) (s : State) : (ceilingCore i s).procedure = s.procedure :=
  (congrArg State.procedure (exceptObjects_ceilingCore i s) :)

theorem frame_setDose (i d : Nat) (s : State) : exceptObjects (setDose i d s) = exceptObjects s :=
  (exceptObjects_ceilingCore i _).trans (reported_clearIf _ _ _ _).lit.exceptObjects

/-- The object after a DOSE_SET: its ceiling is computed where it is enabled. -/
def doseTaken (c : Calendar) (d : Nat) (o : Obj) : Obj :=
  if o.enable then pacedCeiling (dosed c d o) else dosed c d o

theorem object_setDose (i d j : Nat) (s : State) (l : i < 256) :
    (setDose i d s).object j = if i = j then doseTaken s.calendar d (s.object j) else s.object j := by
  have enable : ∀ o : Obj, (dosed s.calendar d o).enable = o.enable := fun _ => rfl
  rw [setDose, object_ceilingCore, object_clearIf, object_clearIf, object_modObject_self _ _ _ l, enable]
  by_cases own : i = j
  · subst own
    simp only [true_and, if_true, object_modObject_self _ _ _ l, doseTaken]
  · simp only [own, false_and, if_false]
    exact object_modObject_other _ _ _ _ own

theorem doseTaken_fields (c : Calendar) (d : Nat) (o : Obj) : let x := doseTaken c d o
    x.dose = d ∧ x.fraction = 0 ∧ x.unknown = false ∧
      (x.lastRoll = if c.isSet then (if o.startDay ≤ c.day then c.year else c.year - 1) else o.lastRoll) ∧
      (o.enable = true → x.ceiling = (pacedCeiling x).ceiling) := by
  dsimp only
  unfold doseTaken
  split
  · rw [pacedCeiling_idem]
    obtain ⟨_, _, _, paced⟩ := pacedCeiling_frame (dosed c d o)
    rw [paced]
    exact ⟨rfl, rfl, rfl, rfl, fun _ => rfl⟩
  · next off => exact ⟨rfl, rfl, rfl, rfl, fun on => absurd on off⟩

/-- R53, R56: the record of a node that hunts anew; the points of a node that was ONLINE are LOST. -/
def rehunted (i : Nat) (nd : Node) (s : State) : State :=
  { s.modNode i fun _ => { nd with state := .hunting, runLength := 0, misses := 0, recheckDue := false } with
    points := if nd.state = .online then s.points.map fun p =>
        if p.enable && p.node == i then { p with state := .lost, pending := none } else p
      else s.points }

theorem changeNode_rehunted (i : Nat) (s : State) (l : i < 64) :
    changeNode i (fun nd => { nd with state := .hunting, runLength := 0, misses := 0, recheckDue := false }) s =
      rehunted i (s.node i) s := by
  by_cases on : (s.node i).state = .online
  · rw [changeNode_leaves i _ s l on (by simp), rehunted, if_pos on]
  · rw [changeNode_stays i _ s l (by simp [on]), rehunted, if_neg on]
    rfl

/-- R53, R111: the node's conditions are cleared before its groups are released. -/
theorem rehuntNode_eq (i : Nat) (s : State) (l : i < 64) : rehuntNode i s =
    let hunting := rehunted i (s.node i) s
    if (s.node i).state = .silent then clear .nodeSilent i hunting
    else if (s.node i).state = .displaced then nodeBack i (clear .nodeDisplaced i hunting) else hunting := by
  unfold rehuntNode
  dsimp only
  rw [changeNode_rehunted i s l, clearNodeConditions_eq]
  by_cases silent : (s.node i).state = .silent
  · simp only [silent, if_true, reduceCtorEq, if_false]
  · by_cases displaced : (s.node i).state = .displaced
    · simp only [displaced, reduceCtorEq, if_false, if_true]
    · simp only [silent, displaced, if_false]

theorem evaluated_rehuntNode (i : Nat) (s : State) (l : i < 64) :
    Evaluated (rehunted i (s.node i) s) (rehuntNode i s) := by
  rw [rehuntNode_eq i s l]
  dsimp only
  split
  · exact (reported_clear _ _ _).evaluated
  · split
    · exact (reported_clear _ _ _).evaluated.trans (evaluated_nodeBack _ _)
    · exact .refl _

/-! ### O49, clause by clause -/

section procedures

variable (rq : Requester) (s : State)

/-- R165: a CALL that is refused. -/
theorem calls_refused :
    let u := supervisionRestart s
    let running := s.procedure.state = .running
    (∀ (o : Half) (tag : CatalogueTag) (d : BitVec 32),
      (running → exec (.doseSet rq o tag d) s = .next (answer rq .busy u)) ∧
      (¬running → 255 < o.toNat → exec (.doseSet rq o tag d) s = .next (answer rq .range u)) ∧
      (¬running → o.toNat ≤ 255 → tag ≠ (s.object o.toNat).tag →
        exec (.doseSet rq o tag d) s = .next (answer rq .tagMismatch u))) ∧
    (∀ n : Half,
      (running → exec (.rehunt rq n) s = .next (answer rq .busy u)) ∧
      (¬running → 63 < n.toNat → exec (.rehunt rq n) s = .next (answer rq .range u)) ∧
      (¬running → n.toNat ≤ 63 → (s.node n.toNat).enable = false →
        exec (.rehunt rq n) s = .next (answer rq .refError u))) ∧
    (∀ g : Half,
      (running → exec (.capClear rq g) s = .next (answer rq .busy u)) ∧
      (¬running → 47 < g.toNat → exec (.capClear rq g) s = .next (answer rq .range u)) ∧
      (¬running → g.toNat ≤ 47 → (s.group g.toNat).enable = false →
        exec (.capClear rq g) s = .next (answer rq .refError u))) ∧
    (running → exec (.clearLatched rq) s = .next (answer rq .busy u)) ∧
    (running ∨ s.save ≠ none → exec (.save rq) s = .next (answer rq .busy u)) ∧
    (running → exec (.restart rq) s = .next (answer rq .busy u)) := by
  have busy : ∀ c : Call, s.procedure.state = .running →
      request rq (callElement c) s = .next (answer rq .busy (supervisionRestart s)) :=
    fun c running => call_refused rq (judgeCall_busy (callBusy_of_running running))
  have range : ∀ c : Call, c ≠ .save → s.procedure.state ≠ .running → callInRange c = false →
      request rq (callElement c) s = .next (answer rq .range (supervisionRestart s)) := fun c save idle beyond =>
    call_refused rq ((judgeCall_idle idle c save).trans (if_neg (by simp [beyond])))
  have refused : ∀ (c : Call) (st : Status), c ≠ .save → s.procedure.state ≠ .running → callInRange c = true →
      callRefusal s c = some st →
      request rq (callElement c) s = .next (answer rq st (supervisionRestart s)) := fun c st save idle inside own =>
    call_refused rq ((judgeCall_idle idle c save).trans ((if_pos inside).trans own))
  refine ⟨fun o tag d => ⟨busy _, fun idle beyond => ?_, fun idle inside other => ?_⟩,
    fun n => ⟨busy _, fun idle beyond => ?_, fun idle inside off => ?_⟩,
    fun g => ⟨busy _, fun idle beyond => ?_, fun idle inside off => ?_⟩, busy _, ?_, busy _⟩
  · exact range _ (by simp) idle (decide_eq_false (Nat.not_le.2 beyond))
  · exact refused (.doseSet o tag d) _ (by simp) idle (decide_eq_true inside) (if_neg other)
  · exact range _ (by simp) idle (decide_eq_false (Nat.not_le.2 beyond))
  · exact refused (.rehunt n) _ (by simp) idle (decide_eq_true inside) (if_neg (by simp [off]))
  · exact range _ (by simp) idle (decide_eq_false (Nat.not_le.2 beyond))
  · exact refused (.capClear g) _ (by simp) idle (decide_eq_true inside) (if_neg (by simp [off]))
  · rintro (running | save)
    · exact busy _ running
    · exact call_refused rq (judgeCall_busy (callBusy_of_save save))

variable (idle : s.procedure.state ≠ .running)
include idle

theorem call_checked (c : Call) (save : c ≠ .save) (inside : callInRange c = true) (own : callRefusal s c = none) :
    judgeCall s c = none :=
  (judgeCall_idle idle c save).trans ((if_pos inside).trans own)

theorem exec_doseSet (object : Half) (d : BitVec 32) (inside : object.toNat ≤ 255) :
    exec (.doseSet rq object (s.object object.toNat).tag d) s = .next (answered rq .ok (supervisionRestart s)
      { setDose object.toNat d.toNat (supervisionRestart s) with
        procedure := { s.procedure with state := .done, result := 0 } }) := by
  refine call_completed rq _ ?_ (by simp) (by simp) rfl ?_
  · exact call_checked s idle (.doseSet object (s.object object.toNat).tag d) (by simp) (decide_eq_true inside)
      (if_pos rfl)
  · have set : (setDose object.toNat d.toNat (supervisionRestart s)).procedure = (supervisionRestart s).procedure := by
      rw [setDose, procedure_ceilingCore, procedure_clearIf]
      rfl
    exact set.trans (procedure_supervisionRestart s)

theorem exec_rehunt (n : Half) (inside : n.toNat ≤ 63) (on : (s.node n.toNat).enable = true) :
    exec (.rehunt rq n) s = .next (answered rq .ok (supervisionRestart s)
      { rehuntNode n.toNat (supervisionRestart s) with
        procedure := { s.procedure with state := .done, result := 0 } }) := by
  refine call_completed rq _ ?_ (by simp) (by simp) rfl ?_
  · exact call_checked s idle (.rehunt n) (by simp) (decide_eq_true inside) (if_pos on)
  · exact (evaluated_rehuntNode _ _ (by omega)).procedure.trans (procedure_supervisionRestart s)

theorem exec_capClear (g : Half) (inside : g.toNat ≤ 47) (on : (s.group g.toNat).enable = true) :
    exec (.capClear rq g) s = .next (answered rq .ok (supervisionRestart s)
      { capClear g.toNat (supervisionRestart s) with
        procedure := { s.procedure with state := .done, result := 0 } }) := by
  refine call_completed rq _ ?_ (by simp) (by simp) rfl ?_
  · exact call_checked s idle (.capClear g) (by simp) (decide_eq_true inside) (if_pos on)
  · exact (procedure_capClear ..).trans (procedure_supervisionRestart s)

theorem exec_clearLatched : exec (.clearLatched rq) s = .next (answer rq .ok { supervisionRestart s with
    conditions := (supervisionRestart s).conditions.filter fun c => c.state == .active
    procedure := { s.procedure with state := .done, result := 0 } }) := by
  have run := call_completed rq (clearLatchedEntries (supervisionRestart s))
    (call_checked s idle .clearLatched (by simp) rfl rfl) (by simp) (by simp) rfl (procedure_supervisionRestart s)
  exact run.trans (congrArg Host.Outcome.next (answered_of rq .ok (asksGrant_of rfl rfl rfl rfl)))

/-- R95: what DOSE_SET leaves of the object, and of the rest. -/
theorem doseSet_leaves (o : Half) (d : BitVec 32) (inside : o.toNat ≤ 255) :
    ∃ t, exec (.doseSet rq o (s.object o.toNat).tag d) s = .next t ∧
      t.procedure = { s.procedure with state := .done, result := 0 } ∧
      (t.object o.toNat).dose = d.toNat ∧ (t.object o.toNat).fraction = 0 ∧ (t.object o.toNat).unknown = false ∧
      (t.object o.toNat).lastRoll = (if s.calendar.isSet then
        (if (s.object o.toNat).startDay ≤ s.calendar.day then s.calendar.year else s.calendar.year - 1)
        else (s.object o.toNat).lastRoll) ∧
      ((s.object o.toNat).enable = true → (t.object o.toNat).ceiling = (pacedCeiling (t.object o.toNat)).ceiling) ∧
      (∀ j, j ≠ o.toNat → t.object j = s.object j) ∧ t.nodes = s.nodes ∧ t.points = s.points ∧
      t.device = s.device ∧ t.store = s.store := by
  refine ⟨_, exec_doseSet rq s idle o d inside, ?_⟩
  have l : o.toNat < 256 := by omega
  let v := setDose o.toNat d.toNat (supervisionRestart s)
  let w : State := { v with procedure := { s.procedure with state := .done, result := 0 } }
  have lit : Lit w (answered rq .ok (supervisionRestart s) w) := lit_answered rq .ok (supervisionRestart s) w
  have object : ∀ j, (answered rq .ok (supervisionRestart s) w).object j =
      if o.toNat = j then doseTaken s.calendar d.toNat (s.object j) else s.object j := fun j => by
    rw [lit.object]
    refine (object_setDose o.toNat d.toNat j (supervisionRestart s) l).trans ?_
    rw [calendar_supervisionRestart, object_supervisionRestart]
  have own := (object o.toNat).trans (if_pos rfl)
  obtain ⟨dose, fraction, unknown, lastRoll, ceiling⟩ := doseTaken_fields s.calendar d.toNat (s.object o.toNat)
  obtain ⟨-, -, nodes, points, device, store⟩ :=
    fields_exceptObjects (frame_setDose o.toNat d.toNat (supervisionRestart s))
  refine ⟨lit.procedure, ?_, ?_, ?_, ?_, ?_, fun j other => (object j).trans (if_neg (Ne.symm other)), ?_, ?_, ?_, ?_⟩
  · exact (congrArg Obj.dose own).trans dose
  · exact (congrArg Obj.fraction own).trans fraction
  · exact (congrArg Obj.unknown own).trans unknown
  · exact (congrArg Obj.lastRoll own).trans lastRoll
  · intro on
    exact (congrArg Obj.ceiling own).trans ((ceiling on).trans (congrArg (fun x => (pacedCeiling x).ceiling) own.symm))
  · exact lit.nodes.trans (nodes.trans (nodes_supervisionRestart s))
  · exact lit.points.trans (points.trans (points_supervisionRestart s))
  · exact lit.device.trans (device.trans (device_supervisionRestart s))
  · exact lit.store.trans (store.trans (store_supervisionRestart s))

/-- R53: what REHUNT leaves of the node and of its points, and of the rest. -/
theorem rehunt_leaves (n : Half) (inside : n.toNat ≤ 63) (on : (s.node n.toNat).enable = true) :
    ∃ t, exec (.rehunt rq n) s = .next t ∧ t.procedure = { s.procedure with state := .done, result := 0 } ∧
      t.node n.toNat = { s.node n.toNat with
        state := .hunting, runLength := 0, misses := 0, recheckDue := false } ∧
      (∀ k, k ≠ n.toNat → t.node k = s.node k) ∧ t.pollList = s.pollList ∧
      ((s.node n.toNat).state = .online → ∀ i < 192, (s.point i).enable = true → (s.point i).node = n.toNat →
        (t.point i).state = .lost ∧ (t.point i).pending = none) ∧
      t.objects = s.objects ∧ t.device = s.device ∧ t.store = s.store := by
  refine ⟨_, exec_rehunt rq s idle n inside on, ?_⟩
  have l : n.toNat < 64 := by omega
  let u := supervisionRestart s
  let v := rehuntNode n.toNat u
  let w : State := { v with procedure := { s.procedure with state := .done, result := 0 } }
  have lit : Lit w (answered rq .ok u w) := lit_answered rq .ok u w
  have worked : Evaluated (rehunted n.toNat (u.node n.toNat) u) v := evaluated_rehuntNode n.toNat u l
  rw [node_supervisionRestart] at worked
  have node : ∀ k, (answered rq .ok u w).node k = (u.modNode n.toNat fun _ =>
      { s.node n.toNat with state := .hunting, runLength := 0, misses := 0, recheckDue := false }).node k :=
    fun k => (lit.node k).trans (worked.node k)
  refine ⟨lit.procedure, (node _).trans (node_modNode_self _ _ _ l), fun k other => ?_, ?_, fun online i _ e b => ?_,
    ?_, ?_, ?_⟩
  · exact (node k).trans ((node_modNode_other _ _ _ _ (Ne.symm other)).trans (node_supervisionRestart s k))
  · exact lit.pollList.trans (worked.pollList.trans (pollList_supervisionRestart s))
  · have left : rehunted n.toNat (s.node n.toNat) u = leftOnline n.toNat
        { s.node n.toNat with state := .hunting, runLength := 0, misses := 0, recheckDue := false } u := by
      rw [rehunted, if_pos online]
      rfl
    have point : (answered rq .ok u w).point i = (rehunted n.toNat (s.node n.toNat) u).point i :=
      (lit.point i).trans (worked.point i)
    have same := point_supervisionRestart s i
    rw [point, left]
    exact point_leftOnline _ _ _ _ ((congrArg Point.enable same).trans e) ((congrArg Point.node same).trans b)
  · exact lit.objects.trans (worked.objects.trans (objects_supervisionRestart s))
  · exact lit.device.trans (worked.device.trans (device_supervisionRestart s))
  · exact lit.store.trans (worked.store.trans (store_supervisionRestart s))

theorem capClear_cap (g : Half) (inside : g.toNat ≤ 47) (on : (s.group g.toNat).enable = true) :
    ((s.group g.toNat).cap = none → exec (.capClear rq g) s = .next (answer rq .ok
      { supervisionRestart s with procedure := { s.procedure with state := .done, result := 0 } })) ∧
    ((s.group g.toNat).cap ≠ none → exec (.capClear rq g) s = .next (answered rq .ok (supervisionRestart s)
      { requestCore (s.group g.toNat).zone ((supervisionRestart s).modGroup g.toNat fun gr => { gr with cap := none })
        with procedure := { s.procedure with state := .done, result := 0 } })) := by
  refine ⟨fun free => ?_, fun capped => ?_⟩
  · have same : capClear g.toNat (supervisionRestart s) = supervisionRestart s :=
      if_neg (by simp [free])
    rw [exec_capClear rq s idle g inside on, same]
    exact congrArg Host.Outcome.next (answered_of rq .ok (asksGrant_of rfl rfl rfl rfl))
  · have removed : capClear g.toNat (supervisionRestart s) = requestCore (s.group g.toNat).zone
        ((supervisionRestart s).modGroup g.toNat fun gr => { gr with cap := none }) := by
      rw [capClear, group_supervisionRestart]
      exact if_pos (Option.isSome_iff_ne_none.2 capped)
    rw [exec_capClear rq s idle g inside on, removed]

end procedures

/-- Settles O49: the refusals in their order, and each procedure that completes at once. -/
theorem procedureCalls : Obligations.ProcedureCalls := by
  refine ⟨fun rq s idle => ⟨fun object d inside => ?_, fun n inside on => ?_⟩, calls_refused,
    fun rq s idle => ⟨doseSet_leaves rq s idle, rehunt_leaves rq s idle, capClear_cap rq s idle,
      exec_clearLatched rq s idle⟩⟩
  · refine (exec_doseSet rq s idle object d inside).trans ?_
    rw [setDose_eq, calendar_supervisionRestart, object_supervisionRestart]
    rfl
  · refine (exec_rehunt rq s idle n inside on).trans ?_
    rw [rehuntNode_eq _ _ (by omega), node_supervisionRestart, rehunted, points_supervisionRestart]

end Sys2Proof.Machine
end

section
/-! PROOF. The hour roll: the folds, the drift and the glide of the zones, the judgement of the ports and the save
(O29). -/

namespace Sys2Proof.Machine

/-! ### The span of a ring (R138) -/

theorem ringSpan_short (ring : List (Option Int)) (h : (ring.filterMap id).length < 6) : ringSpan ring = none :=
  if_pos h

theorem ringSpan_between (ring : List (Option Int)) (h : 6 ≤ (ring.filterMap id).length) (top bottom : Int)
    (t : top ∈ ring.filterMap id) (b : bottom ∈ ring.filterMap id)
    (between : ∀ x ∈ ring.filterMap id, bottom ≤ x ∧ x ≤ top) : ringSpan ring = some (top - bottom) := by
  have greatest : (ring.filterMap id).max? = some top := List.max?_eq_some_iff.2 ⟨t, fun x m => (between x m).2⟩
  have least : (ring.filterMap id).min? = some bottom := List.min?_eq_some_iff.2 ⟨b, fun x m => (between x m).1⟩
  refine (if_neg (Nat.not_lt.2 h)).trans ?_
  rw [greatest, least]
  rfl

theorem extremes_exist (l : List Int) (h : l ≠ []) :
    ∃ top ∈ l, ∃ bottom ∈ l, ∀ x ∈ l, bottom ≤ x ∧ x ≤ top := by
  obtain ⟨top, greatest⟩ := Option.ne_none_iff_exists'.1 (mt List.max?_eq_none_iff.1 h)
  obtain ⟨bottom, least⟩ := Option.ne_none_iff_exists'.1 (mt List.min?_eq_none_iff.1 h)
  obtain ⟨t, above⟩ := List.max?_eq_some_iff.1 greatest
  obtain ⟨b, below⟩ := List.min?_eq_some_iff.1 least
  exact ⟨top, t, bottom, b, fun x m => ⟨below x m, above x m⟩⟩

theorem driftAfter_eq (zn : Zone) (span : Int) : driftAfter zn span =
    if zn.drift then decide (0 < span ∧ zn.driftLimit - zn.rh.hysteresis < span)
    else decide (zn.driftLimit < span) := by
  simp only [driftAfter, driftThreshold, max_lt_iff]

/-! ### One zone (R137 to R140) -/

/-- The zone after the judgement of its ring. -/
def driftJudged (zn : Zone) : Zone :=
  match ringSpan zn.ring with
  | none => zn
  | some span => { zn with span := span, drift := driftAfter zn span }

theorem judgeDrift_none (z : Nat) (s : State) (h : ringSpan (s.zone z).ring = none) : judgeDrift z s = s := by
  simp only [judgeDrift, h]

theorem judgeDrift_some (z : Nat) (s : State) (span : Int) (h : ringSpan (s.zone z).ring = some span) :
    judgeDrift z s = follow .rhDrift z span.toNat (s.zone z).drift (driftAfter (s.zone z) span)
      (s.modZone z fun _ => { s.zone z with span := span, drift := driftAfter (s.zone z) span }) := by
  simp only [judgeDrift, h]
  rw [modZone_at]

theorem zone_judgeDrift (z y : Nat) (s : State) (l : z < 24) :
    (judgeDrift z s).zone y = if z = y then driftJudged (s.zone y) else s.zone y := by
  cases h : ringSpan (s.zone z).ring with
  | none =>
    rw [judgeDrift_none z s h]
    split
    · next e => subst e; simp only [driftJudged, h]
    · rfl
  | some span =>
    rw [judgeDrift_some z s span h, zone_follow]
    split
    · next e => subst e; simp only [driftJudged, h, zone_modZone_self _ _ _ l]
    · next e => exact zone_modZone_other _ _ _ _ e

/-- What an hour roll leaves of a zone's record. -/
def hourZone (zn : Zone) : Zone := if zn.enable then glide (driftJudged (closeHour zn)) else zn

/-- The state in which the zone's TRIM is offered. -/
def glidden (z : Nat) (s : State) : State := (judgeDrift z (s.modZone z closeHour)).modZone z glide

theorem climateHourZone_eq (z : Nat) (s : State) :
    climateHourZone z s = if (s.zone z).enable then offerTrim z (glidden z s) else s := rfl

theorem zone_glidden (z y : Nat) (s : State) (l : z < 24) :
    (glidden z s).zone y = if z = y then glide (driftJudged (closeHour (s.zone y))) else s.zone y := by
  by_cases e : z = y
  · subst e
    rw [glidden, zone_modZone_self _ _ _ l, zone_judgeDrift _ _ _ l, if_pos rfl, zone_modZone_self _ _ _ l, if_pos rfl]
  · rw [glidden, zone_modZone_other _ _ _ _ e, zone_judgeDrift _ _ _ l, if_neg e, zone_modZone_other _ _ _ _ e,
      if_neg e]

theorem zone_climateHourZone (z : Nat) (s : State) (y : Nat) (l : z < 24) :
    (climateHourZone z s).zone y = if z = y then hourZone (s.zone y) else s.zone y := by
  rw [climateHourZone_eq]
  by_cases on : (s.zone z).enable = true
  · rw [if_pos on, (reported_offerTrim z _).zone, zone_glidden _ _ _ l]
    split
    · next e => subst e; exact (if_pos on).symm
    · rfl
  · rw [if_neg on]
    split
    · next e => subst e; exact (if_neg on).symm
    · rfl

/-- Work on the zones one after another, each on its own record. -/
theorem zone_forEach (f : Nat → State → State) (g : Zone → Zone)
    (h : ∀ z s y, z < 24 → (f z s).zone y = if z = y then g (s.zone y) else s.zone y) (n : Nat) (l : n ≤ 24)
    (s : State) (y : Nat) : (forEach n f s).zone y = if y < n then g (s.zone y) else s.zone y := by
  induction n with
  | zero => rfl
  | succ n ih =>
    have step : forEach (n + 1) f s = f n (forEach n f s) := by
      simp only [forEach, List.range_succ, List.foldl_append, List.foldl_cons, List.foldl_nil]
    rw [step, h n _ y (by omega), ih (by omega)]
    by_cases e : n = y
    · subst e
      simp
    · have order : y < n + 1 ↔ y < n := by omega
      simp only [e, order, if_false]

/-! ### The zone's record after the roll -/

/-- R137: the mean of the hour, in natural numbers. -/
theorem hourMean_eq (zn : Zone) : hourMean zn = if zn.hourCount = 0 then none else
    some (((2 * zn.hourSum + zn.hourCount) / (2 * zn.hourCount) : Nat) : Int) := by
  unfold hourMean roundedMean
  push_cast
  rfl

theorem driftJudged_short (zn : Zone) (h : (zn.ring.filterMap id).length < 6) : driftJudged zn = zn := by
  simp only [driftJudged, ringSpan_short _ h]

theorem driftJudged_full (zn : Zone) (h : 6 ≤ (zn.ring.filterMap id).length) :
    ∃ top ∈ zn.ring.filterMap id, ∃ bottom ∈ zn.ring.filterMap id,
      (∀ x ∈ zn.ring.filterMap id, bottom ≤ x ∧ x ≤ top) ∧
      driftJudged zn = { zn with span := top - bottom, drift := driftAfter zn (top - bottom) } := by
  obtain ⟨top, t, bottom, b, between⟩ := extremes_exist (zn.ring.filterMap id) fun e => by
    rw [e] at h
    exact absurd h (by decide)
  refine ⟨top, t, bottom, b, between, ?_⟩
  simp only [driftJudged, ringSpan_between _ h top bottom t b between]

/-- R137 to R139: the record of an enabled zone after the roll. -/
theorem hourZone_on (zn : Zone) (on : zn.enable = true) :
    let rounded := (2 * zn.hourSum + zn.hourCount) / (2 * zn.hourCount)
    let mean : Option Int := if zn.hourCount = 0 then none else some rounded
    let ring := (if 24 ≤ zn.ring.length then zn.ring.drop 1 else zn.ring) ++ [mean]
    let present := ring.filterMap id
    let glided := fun (g : Int) (c : Climate) =>
      clampSetpoint { c with setpoint := c.setpoint + max (-g) (min g (c.target - c.setpoint)) }
    ∃ span drift, hourZone zn = { zn with
        ring := ring, hourSum := 0, hourCount := 0, span := span, drift := drift
        rh := glided (if drift then zn.rh.glide / 2 else zn.rh.glide) zn.rh
        temp := glided zn.temp.glide zn.temp } ∧
      (present.length < 6 → span = zn.span ∧ drift = zn.drift) ∧
      (6 ≤ present.length →
        (∃ top ∈ present, ∃ bottom ∈ present, span = top - bottom ∧ ∀ x ∈ present, bottom ≤ x ∧ x ≤ top) ∧
        (zn.drift = true → (drift = true ↔ 0 < span ∧ zn.driftLimit - zn.rh.hysteresis < span)) ∧
        (zn.drift = false → (drift = true ↔ zn.driftLimit < span))) := by
  intro rounded mean ring present glided
  have closed : closeHour zn = { zn with ring := ring, hourSum := 0, hourCount := 0 } := by
    rw [closeHour, hourMean_eq]
    rfl
  have hour : hourZone zn = glide (driftJudged { zn with ring := ring, hourSum := 0, hourCount := 0 }) := by
    rw [← closed]
    exact if_pos on
  by_cases short : present.length < 6
  · refine ⟨zn.span, zn.drift, ?_, fun _ => ⟨rfl, rfl⟩, fun full => absurd short (Nat.not_lt.2 full)⟩
    rw [hour, driftJudged_short _ short]
    rfl
  · obtain ⟨top, t, bottom, b, between, judged⟩ :=
      driftJudged_full { zn with ring := ring, hourSum := 0, hourCount := 0 } (Nat.not_lt.1 short)
    refine ⟨top - bottom, driftAfter zn (top - bottom), ?_, fun c => absurd c short,
      fun _ => ⟨⟨top, t, bottom, b, rfl, between⟩, fun drift => ?_, fun drift => ?_⟩⟩
    · rw [hour, judged]
      rfl
    · rw [driftAfter_eq, drift, if_pos rfl, decide_eq_true_iff]
    · rw [driftAfter_eq, drift, if_neg Bool.false_ne_true, decide_eq_true_iff]

/-! ### The counters that a report leaves (R14) -/

/-- Of the counters, only the plant origin drops may have changed. -/
def CountsDrops (s t : State) : Prop := ∀ i, (l : i < 17) → i ≠ 12 → t.counters[i] = s.counters[i]

theorem CountsDrops.refl (s : State) : CountsDrops s s := fun _ _ _ => rfl

theorem CountsDrops.trans {s t u : State} (h : CountsDrops s t) (k : CountsDrops t u) : CountsDrops s u :=
  fun i l n => (k i l n).trans (h i l n)

theorem countsDrops_plantTake (s : State) : CountsDrops s (plantTake s) := by
  unfold plantTake
  split
  · exact .refl s
  · split
    · exact .refl s
    · exact .refl s
    · exact .refl s
    · split
      · exact .refl s
      · exact .refl s

theorem countsDrops_dropOrigin (o : OriginFrame) (s : State) : CountsDrops s (dropOrigin o s) := by
  have counted : CountsDrops s (count .plantOriginDrops s) := fun i l n =>
    (getElem_counters_countMany _ _ _ i l).trans (if_neg n)
  unfold dropOrigin restartReplyGone
  dsimp only
  split
  · split
    · exact counted
    · exact counted
  · exact counted

theorem countsDrops_offerOrigin (o : OriginFrame) (s : State) : CountsDrops s (offerOrigin o s) := by
  unfold offerOrigin
  split
  · exact countsDrops_dropOrigin o s
  · split
    · exact .refl s
    · split
      · exact countsDrops_plantTake { s with plantOrigin := s.plantOrigin ++ [o] }
      · exact countsDrops_dropOrigin o s

theorem countsDrops_report (c : Condition) (b : Bool) (s : State) : CountsDrops s (report c b s) := by
  unfold report
  split
  · exact .refl s
  · exact countsDrops_offerOrigin _ s

theorem countsDrops_raise (k : ConditionKind) (a d : Nat) (s : State) : CountsDrops s (raise k a d s) := by
  have recorded : ∀ c, CountsDrops s (recorded c s) := by
    intro c
    unfold recorded
    split
    · exact .refl s
    · exact .refl s
  have latched : ∀ u, CountsDrops u (latchRaise k u) := by
    intro u
    unfold latchRaise
    split
    · exact .refl u
    · exact .refl u
  exact ((recorded _).trans (latched _)).trans (countsDrops_report _ _ _)

theorem countsDrops_clear (k : ConditionKind) (a : Nat) (s : State) : CountsDrops s (clear k a s) :=
  countsDrops_report _ _ (latched k a s)

theorem countsDrops_follow (k : ConditionKind) (a d : Nat) (x y : Bool) (s : State) :
    CountsDrops s (follow k a d x y s) := by
  rw [follow_eq]
  split
  · exact countsDrops_raise _ _ _ s
  · split
    · exact countsDrops_clear _ _ s
    · exact .refl s

/-! ### What the zones and the ports do at the roll -/

/-- The state but for the zones, the ports' flags and what reports change. -/
def exceptHour (s : State) : State :=
  { exceptReports s with zones := Vector.replicate 24 factoryZone, degraded := ⟨false, false⟩ }

/-- Work on zones and ports' flags, with its reports, from `s` to `t`. -/
structure HourWork (s t : State) : Prop where
  frame : exceptHour t = exceptHour s
  counters : CountsDrops s t

theorem HourWork.refl (s : State) : HourWork s s := ⟨rfl, .refl s⟩

theorem HourWork.trans {s t u : State} (h : HourWork s t) (k : HourWork t u) : HourWork s u :=
  ⟨k.frame.trans h.frame, h.counters.trans k.counters⟩

theorem Reported.hourWork {s t : State} (h : Reported s t) (c : CountsDrops s t) : HourWork s t :=
  ⟨congrArg (fun u : State =>
    { u with zones := Vector.replicate 24 factoryZone, degraded := ⟨false, false⟩ }) h.frame, c⟩

theorem HourWork.fields {s t : State} (h : HourWork s t) : t.objects = s.objects ∧ t.nodes = s.nodes ∧
    t.points = s.points ∧ t.groups = s.groups ∧ t.calendar = s.calendar ∧ t.device = s.device ∧ t.store = s.store ∧
    t.handed = s.handed ∧ t.save = s.save ∧ t.procedure = s.procedure :=
  ⟨(congrArg State.objects h.frame :), (congrArg State.nodes h.frame :), (congrArg State.points h.frame :),
    (congrArg State.groups h.frame :), (congrArg State.calendar h.frame :), (congrArg State.device h.frame :),
    (congrArg State.store h.frame :), (congrArg State.handed h.frame :), (congrArg State.save h.frame :),
    (congrArg State.procedure h.frame :)⟩

theorem hourWork_modZone (s : State) (z : Nat) (f : Zone → Zone) : HourWork s (s.modZone z f) := ⟨rfl, .refl s⟩

theorem hourWork_degraded (s : State) (d : Degraded) : HourWork s { s with degraded := d } := ⟨rfl, .refl s⟩

theorem hourWork_judgeDrift (z : Nat) (s : State) : HourWork s (judgeDrift z s) := by
  cases h : ringSpan (s.zone z).ring with
  | none => rw [judgeDrift_none z s h]; exact .refl s
  | some span =>
    rw [judgeDrift_some z s span h]
    exact (hourWork_modZone s z _).trans ((reported_follow _ _ _ _ _ _).hourWork (countsDrops_follow _ _ _ _ _ _))

theorem hourWork_offerTrim (z : Nat) (s : State) : HourWork s (offerTrim z s) := by
  refine (reported_offerTrim z s).hourWork ?_
  unfold offerTrim
  split
  · exact countsDrops_offerOrigin _ s
  · exact .refl s

theorem hourWork_climateHourZone (z : Nat) (s : State) : HourWork s (climateHourZone z s) := by
  rw [climateHourZone_eq]
  split
  · exact (((hourWork_modZone s z _).trans (hourWork_judgeDrift z _)).trans (hourWork_modZone _ z _)).trans
      (hourWork_offerTrim z _)
  · exact .refl s

theorem hourWork_climateHour (s : State) : HourWork s (climateHour s) := by
  have zones : ∀ (l : List Nat) (u : State), HourWork u (l.foldl (fun v z => climateHourZone z v) u) := by
    intro l
    induction l with
    | nil => exact HourWork.refl
    | cons z l ih => exact fun u => (hourWork_climateHourZone z u).trans (ih _)
  exact zones (List.range 24) s

/-! ### The judgement of a port (R155) -/

/-- The state with the port's flag set to `v`. -/
def flaggedPort (p : PortId) (v : Bool) (s : State) : State := { s with degraded := withDegraded p v s.degraded }

/-- R155: counter `i` belongs to the port and has reached its threshold. -/
def reachedBy (p : PortId) (s : State) (i : Fin 17) : Prop :=
  (p = .gallery ∧ i.val < 8 ∨ p = .plant ∧ 8 ≤ i.val) ∧
    s.counters[i].threshold ≠ 0 ∧ s.counters[i].threshold ≤ s.counters[i].last

theorem mem_portCounters (p : PortId) (i : Nat) :
    i ∈ portCounters p ↔ i < 17 ∧ (p = .gallery ∧ i < 8 ∨ p = .plant ∧ 8 ≤ i) := by
  cases p with
  | gallery =>
    simp only [portCounters, List.mem_range, true_and, reduceCtorEq, false_and, or_false]
    omega
  | plant =>
    simp only [portCounters, List.mem_map, List.mem_range, true_and, reduceCtorEq, false_and, false_or]
    constructor
    · rintro ⟨a, l, rfl⟩
      omega
    · intro h
      exact ⟨i - 8, by omega, by omega⟩

theorem portCounters_ascending (p : PortId) : (portCounters p).Pairwise (· < ·) := by
  cases p with
  | gallery => exact List.pairwise_lt_range
  | plant => exact List.pairwise_lt_range.map _ fun _ _ h => Nat.add_lt_add_right h 8

theorem atThreshold_iff (s : State) (i : Fin 17) :
    atThreshold (s.counters[i.val]?.getD factoryCounter) = true ↔
      s.counters[i].threshold ≠ 0 ∧ s.counters[i].threshold ≤ s.counters[i].last := by
  rw [Vector.getElem?_eq_getElem i.isLt, Option.getD_some, atThreshold, decide_eq_true_iff]
  rfl

theorem reachedBy_of_mem (p : PortId) (s : State) (i : Nat) (m : i ∈ portCounters p)
    (h : atThreshold (s.counters[i]?.getD factoryCounter) = true) : ∃ l : i < 17, reachedBy p s ⟨i, l⟩ := by
  obtain ⟨l, port⟩ := (mem_portCounters p i).1 m
  exact ⟨l, port, (atThreshold_iff s ⟨i, l⟩).1 h⟩

theorem portReached_none (p : PortId) (s : State) (h : ∀ i, ¬reachedBy p s i) : portReached s p = none := by
  refine List.find?_eq_none.2 fun i m c => ?_
  obtain ⟨l, reached⟩ := reachedBy_of_mem p s i m c
  exact h _ reached

/-- R155: the lowest-indexed counter that has reached its threshold. -/
theorem portReached_least (p : PortId) (s : State) (i : Fin 17) (h : reachedBy p s i)
    (least : ∀ j, reachedBy p s j → i ≤ j) : portReached s p = some i.val := by
  obtain ⟨port, reached⟩ := h
  have m : i.val ∈ portCounters p := (mem_portCounters p i.val).2 ⟨i.isLt, port⟩
  cases found : portReached s p with
  | none => exact absurd ((atThreshold_iff s i).2 reached) (List.find?_eq_none.1 found _ m)
  | some k =>
    obtain ⟨at', before, after, split, below⟩ := List.find?_eq_some_iff_append.1 found
    have ordered := portCounters_ascending p
    rw [split] at m ordered
    obtain ⟨l, k'⟩ := reachedBy_of_mem p s k (split ▸ List.mem_append_right _ List.mem_cons_self) at'
    have low : i.val ≤ k := least ⟨k, l⟩ k'
    rcases List.mem_append.1 m with earlier | later
    · have unreached := below _ earlier
      simp only [(atThreshold_iff s i).2 reached, Bool.not_true, Bool.false_eq_true] at unreached
    · rcases List.mem_cons.1 later with same | beyond
      · rw [same]
      · have high := (List.pairwise_cons.1 (List.pairwise_append.1 ordered).2.1).1 _ beyond
        omega

theorem portReached_isSome (p : PortId) (s : State) : (portReached s p).isSome = true ↔ ∃ i, reachedBy p s i := by
  constructor
  · intro h
    obtain ⟨k, found⟩ := Option.isSome_iff_exists.1 h
    obtain ⟨at', before, after, split, -⟩ := List.find?_eq_some_iff_append.1 found
    obtain ⟨l, reached⟩ := reachedBy_of_mem p s k (split ▸ List.mem_append_right _ List.mem_cons_self) at'
    exact ⟨_, reached⟩
  · rintro ⟨i, port, reached⟩
    exact List.find?_isSome.2 ⟨i.val, (mem_portCounters p i.val).2 ⟨i.isLt, port⟩, (atThreshold_iff s i).2 reached⟩

theorem judgePort_some (p : PortId) (s : State) (i : Nat) (h : portReached s p = some i) :
    judgePort p s = raise .linkDegraded (portSubject p) i (flaggedPort p true s) := by
  simp only [judgePort, h, flaggedPort]

theorem judgePort_none (p : PortId) (s : State) (h : portReached s p = none) : judgePort p s =
    clearIf (degradedFlag p s.degraded) .linkDegraded (portSubject p) (flaggedPort p false s) := by
  simp only [judgePort, h, flaggedPort]

theorem flaggedPort_self (p : PortId) (s : State) (h : degradedFlag p s.degraded = false) :
    flaggedPort p false s = s := by
  have same : withDegraded p false s.degraded = s.degraded := by
    cases p with
    | gallery => exact h ▸ rfl
    | plant => exact h ▸ rfl
  rw [flaggedPort, same]

/-- R155: what a judgement leaves of the two flags. -/
theorem degraded_judgePort (p : PortId) (s : State) :
    (judgePort p s).degraded = withDegraded p (portReached s p).isSome s.degraded := by
  cases h : portReached s p with
  | none => rw [judgePort_none p s h, degraded_clearIf]; rfl
  | some i => rw [judgePort_some p s i h, degraded_raise]; rfl

theorem zone_judgePort (p : PortId) (s : State) (z : Nat) : (judgePort p s).zone z = s.zone z := by
  cases h : portReached s p with
  | none => rw [judgePort_none p s h, zone_clearIf]; rfl
  | some i => rw [judgePort_some p s i h, zone_raise]; rfl

theorem hourWork_judgePort (p : PortId) (s : State) : HourWork s (judgePort p s) := by
  have flagged : ∀ v, HourWork s (flaggedPort p v s) := fun v => hourWork_degraded s _
  cases h : portReached s p with
  | none =>
    rw [judgePort_none p s h]
    refine (flagged false).trans ((reported_clearIf _ _ _ _).hourWork ?_)
    unfold clearIf
    split
    · exact countsDrops_clear _ _ _
    · exact .refl _
  | some i =>
    rw [judgePort_some p s i h]
    exact (flagged true).trans ((reported_raise _ _ _ _).hourWork (countsDrops_raise _ _ _ _))

/-! ### The start of the save (R176) -/

theorem hourlySave_keeps (s : State) : ∃ v, hourlySave s = { s with save := v } := by
  unfold hourlySave
  split
  · exact ⟨_, rfl⟩
  · exact ⟨s.save, rfl⟩

theorem hourlySave_waits (s : State) (h : s.save ≠ none ∨ s.procedure.restart ≠ .notRunning) : hourlySave s = s := by
  refine if_neg fun c => ?_
  obtain ⟨free, idle⟩ := Bool.and_eq_true_iff.1 c
  rcases h with h | h
  · exact h (Option.isNone_iff_eq_none.1 free)
  · exact h (beq_iff_eq.1 idle)

theorem hourlySave_starts (s : State) (h : s.save = none) (r : s.procedure.restart = .notRunning) :
    hourlySave s = startSave .hourly false s := if_pos (by simp [h, r])

/-! ### The fold of the counters (R155) -/

section foldCounters

variable (s : State)

/-- The state in which the ports are judged. -/
def countersFolded (s : State) : State := { s with counters := s.counters.map foldCounter }

theorem hourWork_ports : HourWork (countersFolded s) (foldCounters s) :=
  (hourWork_judgePort _ _).trans (hourWork_judgePort _ _)

theorem counter_countersFolded (i : Nat) (l : i < 17) : (countersFolded s).counters[i] =
    { s.counters[i] with last := s.counters[i].current, current := 0 } := by
  simp only [countersFolded, Vector.getElem_map, foldCounter]

theorem counter_foldCounters (i : Nat) (l : i < 17) (n : i ≠ 12) : (foldCounters s).counters[i] =
    { s.counters[i] with last := s.counters[i].current, current := 0 } :=
  ((hourWork_ports s).counters i l n).trans (counter_countersFolded s i l)

theorem fields_foldCounters : let t := foldCounters s
    t.objects = s.objects ∧ t.nodes = s.nodes ∧ t.points = s.points ∧ t.groups = s.groups ∧ t.calendar = s.calendar ∧
      t.device = s.device ∧ t.store = s.store ∧ t.handed = s.handed ∧ t.save = s.save ∧ t.procedure = s.procedure :=
  (hourWork_ports s).fields

theorem zone_foldCounters (z : Nat) : (foldCounters s).zone z = s.zone z :=
  (zone_judgePort _ _ z).trans (zone_judgePort _ (countersFolded s) z)

theorem degraded_foldCounters : (foldCounters s).degraded.gallery = true ↔
    ∃ i : Fin 17, i.val < 8 ∧ s.counters[i].threshold ≠ 0 ∧ s.counters[i].threshold ≤ s.counters[i].current := by
  have flag : (foldCounters s).degraded.gallery = (portReached (countersFolded s) .gallery).isSome := by
    have gallery := degraded_judgePort .gallery (countersFolded s)
    have plant := degraded_judgePort .plant (judgePort .gallery (countersFolded s))
    rw [gallery] at plant
    exact congrArg Degraded.gallery plant
  rw [flag, portReached_isSome]
  refine exists_congr fun i => ?_
  simp only [reachedBy, true_and, reduceCtorEq, false_and, or_false]
  rw [Fin.getElem_fin, Fin.getElem_fin, counter_countersFolded s i.val i.isLt]

end foldCounters

/-! ### The roll as a whole -/

section hourWork

variable (u : State)

theorem hourWork_eq : hourWork u = hourlySave (foldCounters (climateHour (setRechecks (foldHours u)))) := rfl

/-- The roll up to the start of its save: what it leaves of the tables. -/
theorem hourFolded_fields : let t := foldCounters (climateHour (setRechecks (foldHours u)))
    t.objects = u.objects.map foldHour ∧ t.nodes = (setRechecks u).nodes ∧
    t.points = u.points ∧ t.groups = u.groups ∧ t.calendar = u.calendar ∧ t.device = u.device ∧
    t.store = u.store ∧ t.handed = u.handed ∧ t.save = u.save ∧ t.procedure = u.procedure := by
  obtain ⟨objects, nodes, points, groups, calendar, device, store, handed, save, procedure⟩ :=
    fields_foldCounters (climateHour (setRechecks (foldHours u)))
  obtain ⟨objects', nodes', points', groups', calendar', device', store', handed', save', procedure'⟩ :=
    (hourWork_climateHour (setRechecks (foldHours u))).fields
  exact ⟨objects.trans objects', nodes.trans nodes', points.trans points', groups.trans groups',
    calendar.trans calendar', device.trans device', store.trans store', handed.trans handed', save.trans save',
    procedure.trans procedure'⟩

theorem nodes_setRechecks : (setRechecks u).nodes = u.nodes.map fun n =>
    { n with recheckDue := n.recheckDue || (n.enable && n.state == .online && n.tagCheck) } := by
  refine congrArg (Vector.map · u.nodes) (funext fun n => ?_)
  cases n.enable && n.state == .online && n.tagCheck <;> simp

theorem hourWork_tables : let t := hourWork u
    t.objects = u.objects.map (fun o => { o with lastHour := o.thisHour, thisHour := 0 }) ∧
    t.nodes = u.nodes.map (fun n =>
      { n with recheckDue := n.recheckDue || (n.enable && n.state == .online && n.tagCheck) }) ∧
    t.points = u.points ∧ t.groups = u.groups ∧ t.calendar = u.calendar ∧ t.device = u.device ∧
    t.store = u.store ∧ t.handed = u.handed := by
  obtain ⟨v, saved⟩ := hourlySave_keeps (foldCounters (climateHour (setRechecks (foldHours u))))
  obtain ⟨objects, nodes, points, groups, calendar, device, store, handed, -⟩ := hourFolded_fields u
  rw [hourWork_eq, saved]
  exact ⟨objects, nodes.trans (nodes_setRechecks u), points, groups, calendar, device, store, handed⟩

theorem counter_hourWork (i : Nat) (l : i < 17) (n : i ≠ 12) : (hourWork u).counters[i] =
    { u.counters[i] with last := u.counters[i].current, current := 0 } := by
  obtain ⟨v, saved⟩ := hourlySave_keeps (foldCounters (climateHour (setRechecks (foldHours u))))
  have before : (climateHour (setRechecks (foldHours u))).counters[i] = u.counters[i] :=
    (hourWork_climateHour (setRechecks (foldHours u))).counters i l n
  have folded := counter_foldCounters (climateHour (setRechecks (foldHours u))) i l n
  rw [before] at folded
  simp only [hourWork_eq, saved]
  exact folded

theorem zone_hourWork (z : Nat) (l : z < 24) : (hourWork u).zone z = hourZone (u.zone z) := by
  obtain ⟨v, saved⟩ := hourlySave_keeps (foldCounters (climateHour (setRechecks (foldHours u))))
  have zones := zone_forEach climateHourZone hourZone zone_climateHourZone 24 (Nat.le_refl 24)
    (setRechecks (foldHours u)) z
  rw [if_pos l] at zones
  rw [hourWork_eq, saved]
  exact (zone_foldCounters (climateHour (setRechecks (foldHours u))) z).trans zones

theorem degraded_hourWork : (hourWork u).degraded.gallery = true ↔
    ∃ i : Fin 17, i.val < 8 ∧ u.counters[i].threshold ≠ 0 ∧ u.counters[i].threshold ≤ u.counters[i].current := by
  obtain ⟨v, saved⟩ := hourlySave_keeps (foldCounters (climateHour (setRechecks (foldHours u))))
  rw [hourWork_eq, saved]
  refine (degraded_foldCounters (climateHour (setRechecks (foldHours u)))).trans (exists_congr fun i => ?_)
  refine and_congr_right fun low => ?_
  have before : (climateHour (setRechecks (foldHours u))).counters[i.val] = u.counters[i.val] :=
    (hourWork_climateHour (setRechecks (foldHours u))).counters i.val i.isLt (by omega)
  rw [Fin.getElem_fin, Fin.getElem_fin, before]

theorem save_hourWork :
    (u.save ≠ none ∨ u.procedure.restart ≠ .notRunning → (hourWork u).save = u.save) ∧
    (u.save = none → u.procedure.restart = .notRunning → ∃ v, (hourWork u).save = some v ∧ v.kind = .hourly ∧
      v.position = .dose 0 ∧ v.written = 0 ∧ v.octets = recordOctets (hourWork u) v.date (.dose 0) ∧
      v.date = if u.calendar.isSet then some ⟨u.calendar.year, u.calendar.day⟩ else none) := by
  obtain ⟨-, -, -, -, calendar, -, -, -, save, procedure⟩ := hourFolded_fields u
  rw [hourWork_eq]
  generalize foldCounters (climateHour (setRechecks (foldHours u))) = w at calendar save procedure
  refine ⟨fun h => ?_, fun h r => ?_⟩
  · rw [hourlySave_waits w (by rwa [save, procedure]), save]
  · rw [hourlySave_starts w (save.trans h) ((congrArg Procedure.restart procedure).trans r), ← calendar]
    exact ⟨_, rfl, rfl, rfl, rfl, rfl, rfl⟩

end hourWork

/-! ### O29 -/

/-- R138: the drift of a zone, by its ring. -/
theorem judgeDrift_cases (z : Nat) (s : State) :
    let zn := s.zone z
    let present := zn.ring.filterMap id
    (present.length < 6 → judgeDrift z s = s) ∧
    (6 ≤ present.length → ∀ top ∈ present, ∀ bottom ∈ present, (∀ x ∈ present, bottom ≤ x ∧ x ≤ top) →
      let span := top - bottom
      let after :=
        if zn.drift then decide (0 < span ∧ zn.driftLimit - zn.rh.hysteresis < span) else decide (zn.driftLimit < span)
      judgeDrift z s =
        follow .rhDrift z span.toNat zn.drift after (s.modZone z fun _ => { zn with span := span, drift := after })) := by
  refine ⟨fun short => judgeDrift_none z s (ringSpan_short _ short), fun full top t bottom b between => ?_⟩
  have judged := judgeDrift_some z s _ (ringSpan_between _ full top bottom t b between)
  rwa [driftAfter_eq] at judged

/-- R140: the TRIM of a zone at the roll. -/
theorem climateHourZone_trim (z : Nat) (s : State) (l : z < 24) (on : (s.zone z).enable = true) :
    let t := climateHourZone z s
    let v := glidden z s
    t.zone z = v.zone z ∧ ((s.zone z).airAddress = 0 → t = v) ∧
    ((s.zone z).airAddress ≠ 0 → t = offerOrigin
      ⟨byteOfNat (s.zone z).airAddress, kindTrim,
        byteOfNat (s.zone z).airChannel ::
          (octetsOf (halfOfInt (t.zone z).rh.setpoint) ++ octetsOf (halfOfInt (t.zone z).temp.setpoint)),
        .trim z⟩ v) := by
  have run : climateHourZone z s = offerTrim z (glidden z s) := if_pos on
  have own : (glidden z s).zone z = glide (driftJudged (closeHour (s.zone z))) :=
    (zone_glidden z z s l).trans (if_pos rfl)
  have same : (climateHourZone z s).zone z = (glidden z s).zone z := by
    rw [run]
    exact (reported_offerTrim z _).zone z
  have settings : ((glidden z s).zone z).enable = (s.zone z).enable ∧
      ((glidden z s).zone z).airAddress = (s.zone z).airAddress ∧
      ((glidden z s).zone z).airChannel = (s.zone z).airChannel := by
    rw [own]
    cases h : ringSpan (closeHour (s.zone z)).ring with
    | none => simp only [driftJudged, h]; exact ⟨rfl, rfl, rfl⟩
    | some span => simp only [driftJudged, h]; exact ⟨rfl, rfl, rfl⟩
  obtain ⟨enable, address, channel⟩ := settings
  refine ⟨same, fun silent => ?_, fun air => ?_⟩
  · rw [run, offerTrim_eq, if_neg]
    rw [address]
    exact fun c => c.2 silent
  · rw [same, ← address, ← channel]
    refine run.trans ((offerTrim_eq z _).trans ((if_pos ⟨enable.trans on, address ▸ air⟩).trans ?_))
    rfl

/-- R155: the judgement of a port, by the counters that have reached their thresholds. -/
theorem judgePort_cases (p : PortId) (s : State) :
    (∀ i : Fin 17, reachedBy p s i → (∀ j, reachedBy p s j → i ≤ j) →
      judgePort p s = raise .linkDegraded (portSubject p) i (flaggedPort p true s)) ∧
    ((∀ i, ¬reachedBy p s i) → degradedFlag p s.degraded = true →
      judgePort p s = clear .linkDegraded (portSubject p) (flaggedPort p false s)) ∧
    ((∀ i, ¬reachedBy p s i) → degradedFlag p s.degraded = false → judgePort p s = s) := by
  refine ⟨fun i reached least => ?_, fun unreached flag => ?_, fun unreached flag => ?_⟩
  · exact judgePort_some p s i.val (portReached_least p s i reached least)
  · rw [judgePort_none p s (portReached_none p s unreached), flag]
    rfl
  · rw [judgePort_none p s (portReached_none p s unreached), flag, flaggedPort_self p s flag]
    rfl

/-- Settles O29: the roll block by block, each by the frame of its work. -/
theorem hourRollFolds : Obligations.HourRollFolds := by
  refine ⟨fun s => ⟨rfl, fun c => rfl, rfl, fun d => rfl, fun c h => takeRoll_noop c h s⟩, judgeDrift_cases,
    fun s => ⟨_, rfl, ?_⟩, fun s => rfl, fun p s => ?_, climateHourZone_trim⟩
  · intro u
    obtain ⟨objects, nodes, points, groups, calendar, device, store, handed⟩ := hourWork_tables u
    obtain ⟨waits, starts⟩ := save_hourWork u
    refine ⟨fun rolls => ?_, hourWork_eq u, objects, nodes, fun i n => ?_, fun z l => ⟨fun off => ?_, fun on => ?_⟩,
      waits, starts, degraded_hourWork u, points, groups, calendar, device, store, handed⟩
    · exact congrArg (taken .hourRoll) (foldl_noop _ _ _ fun c m => takeRoll_noop c (rolls c m))
    · exact counter_hourWork u i.val i.isLt fun c => n (Fin.ext c)
    · exact (zone_hourWork u z l).trans (if_neg (by rw [off]; exact Bool.false_ne_true))
    · obtain ⟨span, drift, record, rest⟩ := hourZone_on (u.zone z) on
      exact ⟨span, drift, (zone_hourWork u z l).trans record, rest⟩
  · have port := judgePort_cases p s
    cases p with
    | gallery => exact port
    | plant => exact port

end Sys2Proof.Machine
end

section
/-! PROOF. The day roll: the fold of every object's day, and the year rolls that are due (O30). -/

namespace Sys2Proof.Machine

/-! ### Work on one entry after another -/

theorem forEach_succ (n : Nat) (f : Nat → State → State) (s : State) :
    forEach (n + 1) f s = f n (forEach n f s) := by
  simp only [forEach, List.range_succ, List.foldl_append, List.foldl_cons, List.foldl_nil]

/-- What holds at the start, and every turn carries on, holds at the end. -/
theorem forEach_invariant (f : Nat → State → State) (P : Nat → State → Prop) (s : State) (n : Nat) (start : P 0 s)
    (turn : ∀ i < n, ∀ u, P i u → P (i + 1) (f i u)) : P n (forEach n f s) := by
  induction n with
  | zero => exact start
  | succ n ih =>
    rw [forEach_succ]
    exact turn n (Nat.lt_succ_self n) _ (ih fun i l => turn i (Nat.lt_succ_of_lt l))

/-- Where only the turn of one index changes an entry, the entry has been changed once. -/
theorem forEach_entry {α : Type} (get : State → α) (j : Nat) (f : Nat → State → State) (g : α → α)
    (turn : ∀ i s, get (f i s) = if i = j then g (get s) else get s) (n : Nat) (s : State) :
    get (forEach n f s) = if j < n then g (get s) else get s := by
  induction n with
  | zero => rfl
  | succ n ih =>
    rw [forEach_succ, turn, ih]
    by_cases e : n = j
    · subst e
      simp
    · have order : j < n + 1 ↔ j < n := by omega
      simp only [e, order, if_false]

/-! ### The fold of the day (R92) -/

theorem foldDayObject_eq (i : Nat) (s : State) : foldDayObject i s =
    if (s.object i).overMarker then clear .overCeiling i (s.modObject i fun _ => foldDay (s.object i))
    else s.modObject i fun _ => foldDay (s.object i) := by
  rw [foldDayObject, modObject_at]
  rfl

theorem exceptObjects_foldDayObject (i : Nat) (s : State) : exceptObjects (foldDayObject i s) = exceptObjects s :=
  (reported_clearIf _ _ _ (s.modObject i foldDay)).lit.exceptObjects

theorem object_foldDayObject (i : Nat) (s : State) (j : Nat) (l : j < 256) :
    (foldDayObject i s).object j = if i = j then foldDay (s.object j) else s.object j := by
  rw [foldDayObject, object_clearIf, object_modObject]
  simp only [l, and_true]

theorem exceptObjects_foldDays (s : State) : exceptObjects (forEach 256 foldDayObject s) = exceptObjects s :=
  forEach_invariant foldDayObject (fun _ u => exceptObjects u = exceptObjects s) s 256 rfl
    fun i _ u h => (exceptObjects_foldDayObject i u).trans h

theorem object_foldDays (s : State) (j : Nat) (l : j < 256) :
    (forEach 256 foldDayObject s).object j = foldDay (s.object j) :=
  (forEach_entry (fun u => u.object j) j foldDayObject foldDay (fun i u => object_foldDayObject i u j l) 256 s).trans
    (if_pos l)

/-! ### The year rolls (R73, R93) -/

theorem rollDue_iff_next (d : Date) (o : Obj) : rollDue d o = true ↔
    o.lastRoll + 1 < d.year ∨ o.lastRoll + 1 = d.year ∧ o.startDay ≤ d.day := decide_eq_true_iff

theorem testObject_due (d : Date) (i : Nat) (s : State)
    (due : (s.object i).enable = true ∧ rollDue d (s.object i) = true) : testObject d i s = ceilingEvent i
      (if (s.object i).unknown then clear .doseUnknown i (s.modObject i fun _ => rolled d (s.object i))
      else s.modObject i fun _ => rolled d (s.object i)) := by
  rw [testObject, if_pos (Bool.and_eq_true_iff.2 due), rollObject, modObject_at]
  rfl

theorem testObject_idle (d : Date) (i : Nat) (s : State)
    (idle : ¬((s.object i).enable = true ∧ rollDue d (s.object i) = true)) : testObject d i s = s :=
  if_neg (mt Bool.and_eq_true_iff.1 idle)

/-! ### The roll as a whole -/

/-- R92, R93: what a day roll leaves of an object's record. -/
theorem object_dayFoldAndTests (d : Date) (u : State) (i : Nat) (l : i < 256) : (dayFoldAndTests d u).object i =
    if (u.object i).enable = true ∧ rollDue d (u.object i) = true then
      pacedCeiling (rolled d (foldDay (u.object i)))
    else foldDay (u.object i) := by
  refine ((yearTests_frame d 256 (forEach 256 foldDayObject u)).2 i l).trans ?_
  rw [object_foldDays u i l]
  simp only [l, true_and]
  rfl

theorem exceptObjects_dayFoldAndTests (d : Date) (u : State) :
    exceptObjects (dayFoldAndTests d u) = exceptObjects u :=
  (yearTests_frame d 256 (forEach 256 foldDayObject u)).1.trans (exceptObjects_foldDays u)

/-- What neither the year roll nor the ceiling computation writes. -/
theorem pacedCeiling_rolled_keeps (d : Date) (o : Obj) :
    let r := pacedCeiling (rolled d o)
    r.yesterday = o.yesterday ∧ r.today = o.today ∧ r.peak = o.peak ∧ r.overMinutes = o.overMinutes ∧
      r.overMarker = o.overMarker ∧ r.thisHour = o.thisHour := by
  intro r
  obtain ⟨c, e, p, h⟩ := pacedCeiling_frame (rolled d o)
  refine ⟨?_, ?_, ?_, ?_, ?_, ?_⟩ <;> exact (congrArg _ h).trans rfl

/-- Settles O30: the objects by `object_dayFoldAndTests`, the rest by the frame of the folds and the tests. -/
theorem dayRollFoldsAndRolls : Obligations.DayRollFoldsAndRolls := by
  refine ⟨fun d s => rfl, fun i s _ => foldDayObject_eq i s, fun d i s _ => ?_, fun d s => ⟨_, rfl, ?_⟩⟩
  · intro o due x
    have due_iff : (s.object i).enable = true ∧ rollDue d (s.object i) = true ↔ due :=
      and_congr_right fun _ => rollDue_iff_next d o
    exact ⟨fun h => testObject_due d i s (due_iff.2 h), fun h => testObject_idle d i s (mt due_iff.1 h)⟩
  · intro u
    obtain ⟨calendar, handed, nodes, points, device, store⟩ :=
      fields_exceptObjects (exceptObjects_dayFoldAndTests d u)
    refine ⟨fun rolls => ?_, fun i l => ?_, nodes, points, calendar, device, store, handed⟩
    · exact congrArg (taken (.dayRoll d)) (foldl_noop _ _ _ fun c m => takeRoll_noop c (rolls c m))
    · intro o due
      have due_iff : (u.object i).enable = true ∧ rollDue d (u.object i) = true ↔ due :=
        and_congr_right fun _ => rollDue_iff_next d o
      have record := object_dayFoldAndTests d u i l
      by_cases h : due
      · rw [if_pos (due_iff.2 h)] at record
        rw [record]
        obtain ⟨yesterday, today, peak, minutes, marker, hour⟩ := pacedCeiling_rolled_keeps d (foldDay (u.object i))
        exact ⟨yesterday, today, peak, minutes, marker, hour, fun _ => pacedCeiling_rolled d (foldDay (u.object i)),
          fun no => absurd h no⟩
      · rw [if_neg (mt due_iff.1 h)] at record
        rw [record]
        exact ⟨rfl, rfl, rfl, rfl, rfl, rfl, fun yes => absurd yes h, fun _ => rfl⟩

end Sys2Proof.Machine
end

section
/-! PROOF. RESET with no good header: the header's check, and the load computations on blank tables (O4). -/

namespace Sys2Proof.Machine

/-! ### The header (R173, R182) -/

theorem storeReadAll_take (m : List Host.Cell) (a n k : Nat) (h : k ≤ n) :
    (storeReadAll m a n).take k = storeReadAll m a k := by
  rw [storeReadAll, ← List.map_take, List.take_range, Nat.min_eq_left h]
  rfl

theorem length_headerOctets : headerOctets.length = 17 := rfl

/-- The header's octets in the store pass its check. -/
theorem checkedBody_header (m : List Host.Cell) : checkedBody m .header = some headerOctets ↔
    storeReadAll m 0 19 = headerOctets ++ octetsOf (crc16 headerOctets) := by
  have check : checkedBody m .header = if (storeReadAll m 0 19).drop 17 =
      octetsOf (crc16 ((storeReadAll m 0 19).take 17)) then some ((storeReadAll m 0 19).take 17) else none := rfl
  rw [check]
  constructor
  · intro h
    split at h
    · next crc =>
      have body := Option.some.inj h
      rw [body] at crc
      rw [← crc, ← body, List.take_append_drop]
    · cases h
  · intro h
    rw [h, List.take_left' length_headerOctets, List.drop_left' length_headerOctets, if_pos rfl]

theorem judgeHeader_answers (m : List Host.Cell) : judgeHeader true m =
    if storeReadAll m 0 2 = octetsOf 0x4E4C then
      (if checkedBody m .header = some headerOctets then .passed else .failed)
    else .noImage := ite_not _ _ _

/-- A header that passes its check holds the marker. -/
theorem marked_of_passes (m : List Host.Cell) (h : checkedBody m .header = some headerOctets) :
    storeReadAll m 0 2 = octetsOf 0x4E4C := by
  rw [← storeReadAll_take m 0 19 2 (by omega), (checkedBody_header m).1 h]
  rfl

theorem judgeHeader_passes_iff (answers : Bool) (m : List Host.Cell) : judgeHeader answers m = .passed ↔
    answers = true ∧ checkedBody m .header = some headerOctets := by
  cases answers with
  | false => exact ⟨fun h => (by cases h), fun h => absurd h.1 Bool.false_ne_true⟩
  | true =>
    rw [judgeHeader_answers]
    by_cases good : checkedBody m .header = some headerOctets
    · rw [if_pos (marked_of_passes m good), if_pos good]
      exact ⟨fun _ => ⟨rfl, good⟩, fun _ => rfl⟩
    · rw [if_neg good]
      refine ⟨fun h => ?_, fun h => absurd h.2 good⟩
      split at h
      · cases h
      · cases h

/-- A header that fails, and no header at all. -/
theorem judgeHeader_not_passed (answers : Bool) (m : List Host.Cell) (h : judgeHeader answers m ≠ .passed) :
    judgeHeader answers m =
      if answers = false ∨ storeReadAll m 0 2 = octetsOf 0x4E4C then .failed else .noImage := by
  cases answers with
  | false => rfl
  | true =>
    have bad : ¬checkedBody m .header = some headerOctets := fun good =>
      h ((judgeHeader_passes_iff true m).2 ⟨rfl, good⟩)
    rw [judgeHeader_answers, if_neg bad]
    simp only [Bool.true_eq_false, false_or]

/-! ### Raises of the load (R147) -/

theorem report_loading (c : Condition) (raised : Bool) (s : State) (l : s.loading = true) : report c raised s = s :=
  if_pos (by rw [l]; rfl)

/-- A raise while the load runs is recorded, with its latches, and nothing is offered. -/
theorem raise_loading (k : ConditionKind) (a d : Nat) (s : State) (l : s.loading = true) :
    raise k a d s = latchRaise k (recorded (stamped k a d s) s) :=
  report_loading _ _ _ (((reported_recorded _ s).trans (reported_latchRaise k _)).loading.trans l)

/-! ### Blank tables -/

theorem forEach_fixed (n : Nat) (f : Nat → State → State) (s : State) (h : ∀ i, f i s = s) : forEach n f s = s :=
  forEach_invariant f (fun _ u => u = s) s n rfl fun i _ u e => by rw [e, h]

/-- R175: the settings that the straps leave. -/
def strapped (pins : Pins) (d : Device) : Device :=
  if pins.addrSel0 && pins.addrSel1 then { d with ownAddress := 126, mgmtAddress := 0 } else d

def withStraps (s : State) : State := { s with device := strapped s.pins s.device }

theorem settleAddresses_eq (s : State) : settleAddresses s = forEach 64 disableClash (withStraps s) := by
  unfold settleAddresses withStraps strapped
  dsimp only
  split
  · rfl
  · rfl

theorem disableClash_blank (i : Nat) (s : State) (h : s.node i = factoryNode) : disableClash i s = s :=
  if_neg (by rw [h]; simp [factoryNode])

theorem loadCeiling_blank (i : Nat) (s : State) (h : s.object i = factoryObject) : loadCeiling i s = s := by
  have same : (s.modObject i fun o => { o with ceiling := o.cfloor }) = s := modObject_same s i _ (by rw [h]; rfl)
  unfold loadCeiling
  dsimp only
  rw [same, h]
  rfl

theorem clampSetpoints_blank (s : State) (h : s.zones = Vector.replicate 24 factoryZone) : clampSetpoints s = s := by
  have zone : { factoryZone with rh := clampSetpoint factoryZone.rh, temp := clampSetpoint factoryZone.temp } =
      factoryZone := by decide
  unfold clampSetpoints
  rw [h, Vector.map_replicate, zone, ← h]

/-- R173: blank tables keep their factory defaults. -/
theorem loadComputations_blank (s : State) (n : s.nodes = Vector.replicate 64 factoryNode)
    (o : s.objects = Vector.replicate 256 factoryObject) (g : s.groups = Vector.replicate 48 factoryGroup)
    (z : s.zones = Vector.replicate 24 factoryZone) :
    loadComputations s = withStraps s := by
  have blank := fun i => blank_tables (withStraps s) i z o g n
  rw [loadComputations, settleAddresses_eq,
    forEach_fixed 64 disableClash _ fun i => disableClash_blank i _ (blank i).2.2.2,
    forEach_fixed 256 loadCeiling _ fun i => loadCeiling_blank i _ (blank i).2.1, clampSetpoints_blank (withStraps s) z]

/-! ### The reading of an image that is not there -/

/-- R65: CLOCK_UNSET as every reset raises it. -/
def clockUnsetEntry : Condition := ⟨.clockUnset, 0, .active, 0, 0, 0⟩

def imageFaultEntry : Condition := ⟨.imageFault, 0, .active, 0, 0, 0⟩

theorem raiseClockUnset_cleared (pins : Pins) (s : State) : raiseClockUnset (cleared pins s) =
    { cleared pins s with conditions := [clockUnsetEntry], latches := ⟨true, false, false⟩ } :=
  (raise_loading .clockUnset 0 0 (cleared pins s) rfl).trans rfl

theorem imageFault_cleared (pins : Pins) (s : State) : imageFault 0 (raiseClockUnset (cleared pins s)) =
    { cleared pins s with
      conditions := [clockUnsetEntry, imageFaultEntry], latches := ⟨true, false, false⟩, faulty := [0],
      imageFaultRaised := true } := by
  rw [raiseClockUnset_cleared]
  exact (raise_loading .imageFault 0 0 _ rfl).trans rfl

theorem readImage_cleared (pins : Pins) (s : State) : readImage (cleared pins s) =
    match judgeHeader pins.storeAnswers s.store with
    | .noImage => raiseClockUnset (cleared pins s)
    | .failed => imageFault 0 (raiseClockUnset (cleared pins s))
    | .passed => loadSections (cleared pins s) := rfl

theorem pending_tearPage (s : State) : (tearPage s).pending = s.pending := by
  unfold tearPage
  split
  · rfl
  · rfl

/-- Settles O4: the header's check, the two conditions that the reading raises, and the load computations on blank
tables. -/
theorem resetWithoutImage : Obligations.ResetWithoutImage := by
  refine ⟨fun answers m =>
    (judgeHeader_passes_iff answers m).trans (and_congr_right fun _ => checkedBody_header m), fun pins s bad => ?_⟩
  intro failed
  have judged := judgeHeader_not_passed _ _ bad
  have pending := pending_tearPage s
  show Host.Outcome.next (loadComputations (readImage (cleared pins (tearPage s)))) = _
  rw [readImage_cleared, judged]
  by_cases f : failed
  · rw [if_pos f, if_pos f, if_pos f, if_pos f]
    dsimp only
    rw [imageFault_cleared, loadComputations_blank _ rfl rfl rfl rfl, ← pending]
    rfl
  · rw [if_neg f, if_neg f, if_neg f, if_neg f]
    dsimp only
    rw [raiseClockUnset_cleared, loadComputations_blank _ rfl rfl rfl rfl, ← pending]
    rfl

end Sys2Proof.Machine
end

section
/-! PROOF. What the load of an image notes: its raises in the Condition Table, the sections that are faulty, and which
records have failed (O5). -/

namespace Sys2Proof.Machine

/-! ### The Condition Table while the load runs (R143, R147) -/

/-- A condition has an ACTIVE entry, or the table was full of ACTIVE entries when it was raised. -/
def Stands (k : ConditionKind) (i : Nat) (s : State) : Prop :=
  (∃ e ∈ s.conditions, e.kind = k ∧ e.subject = i ∧ e.state = .active) ∨ s.latches.overflow = true

/-- IMAGE_FAULT stands where the load has raised it. -/
def FaultStands (s : State) : Prop := s.imageFaultRaised = true → Stands .imageFault 0 s

/-- A piece of the load from `s` to `t` leaves every condition standing. -/
structure Noted (s t : State) : Prop where
  stands : ∀ k i, Stands k i s → Stands k i t
  clock : clockUnsetEntry ∈ s.conditions → clockUnsetEntry ∈ t.conditions
  fault : FaultStands s → FaultStands t

theorem Noted.refl (s : State) : Noted s s := ⟨fun _ _ => id, id, id⟩

theorem Noted.trans {s t u : State} (h : Noted s t) (k : Noted t u) : Noted s u :=
  ⟨fun c i => k.stands c i ∘ h.stands c i, k.clock ∘ h.clock, k.fault ∘ h.fault⟩

/-- A step that touches neither the table nor what is known of IMAGE_FAULT. -/
theorem noted_of {s t : State} (c : t.conditions = s.conditions) (l : t.latches = s.latches)
    (f : t.imageFaultRaised = s.imageFaultRaised) : Noted s t := by
  have same : ∀ k i, Stands k i t ↔ Stands k i s := fun k i => by rw [Stands, Stands, c, l]
  refine ⟨fun k i => (same k i).2, fun e => by rwa [c], fun h r => (same _ _).2 (h ?_)⟩
  rwa [← f]

theorem mem_recordRaise (c : Condition) (l t : List Condition) (h : recordRaise c l = some t) :
    c ∈ t ∧ ∀ e ∈ l, e.state = .active → sameCondition c.kind c.subject e = false → e ∈ t := by
  unfold recordRaise at h
  split at h
  · next present =>
    cases h
    obtain ⟨e, m, same⟩ := List.any_eq_true.1 present
    exact ⟨List.mem_map.2 ⟨e, m, if_pos same⟩, fun e m _ other => List.mem_map.2 ⟨e, m, if_neg (by simp [other])⟩⟩
  · split at h
    · cases h
      exact ⟨by simp, fun e m _ _ => List.mem_append_left _ m⟩
    · split at h
      · cases h
        refine ⟨by simp, fun e m active _ => List.mem_append_left _ ?_⟩
        exact (List.mem_eraseP_of_neg (by simp [active])).2 m
      · cases h

/-- R143: the raise has its entry, or the overflow latch is set; the other ACTIVE entries stay. -/
theorem recorded_keeps (c : Condition) (s : State) :
    (c ∈ (recorded c s).conditions ∨ (recorded c s).latches.overflow = true) ∧
    (∀ e ∈ s.conditions, e.state = .active → sameCondition c.kind c.subject e = false →
      e ∈ (recorded c s).conditions) ∧
    (s.latches.overflow = true → (recorded c s).latches.overflow = true) := by
  unfold recorded
  split
  · next t h =>
    obtain ⟨self, others⟩ := mem_recordRaise c _ t h
    exact ⟨.inl self, others, id⟩
  · exact ⟨.inr rfl, fun e m _ _ => m, fun _ => rfl⟩

theorem latchRaise_table (k : ConditionKind) (s : State) : (latchRaise k s).conditions = s.conditions ∧
    (latchRaise k s).latches.overflow = s.latches.overflow := by
  unfold latchRaise
  split
  · exact ⟨rfl, rfl⟩
  · exact ⟨rfl, rfl⟩

section raiseLoading

variable (k : ConditionKind) (a d : Nat) (s : State) (l : s.loading = true)

include l

theorem conditions_raise_loading :
    (raise k a d s).conditions = (recorded (stamped k a d s) s).conditions := by
  rw [raise_loading k a d s l]
  exact (latchRaise_table k _).1

theorem overflow_raise_loading :
    (raise k a d s).latches.overflow = (recorded (stamped k a d s) s).latches.overflow := by
  rw [raise_loading k a d s l]
  exact (latchRaise_table k _).2

theorem stands_raise : Stands k a (raise k a d s) := by
  obtain ⟨self, -, -⟩ := recorded_keeps (stamped k a d s) s
  rw [Stands, conditions_raise_loading k a d s l, overflow_raise_loading k a d s l]
  exact self.imp (fun m => ⟨_, m, rfl, rfl, rfl⟩) id

theorem noted_raise (other : k ≠ .clockUnset) : Noted s (raise k a d s) := by
  obtain ⟨-, others, latch⟩ := recorded_keeps (stamped k a d s) s
  rw [← conditions_raise_loading k a d s l, ← overflow_raise_loading k a d s l] at *
  have stands : ∀ c i, Stands c i s → Stands c i (raise k a d s) := by
    rintro c i (⟨e, m, rfl, rfl, active⟩ | full)
    · by_cases same : sameCondition k a e = true
      · obtain ⟨rfl, rfl⟩ := Prod.mk.inj ((conditionKey_eq (stamped k a d s) e).1 same)
        exact stands_raise _ _ d s l
      · exact .inl ⟨e, others e m active (Bool.not_eq_true _ ▸ same), rfl, rfl, active⟩
    · exact .inr (latch full)
  refine ⟨stands, fun m => others _ m rfl ?_, fun h r => stands _ _ (h ?_)⟩
  · exact Bool.and_eq_false_imp.2 fun e => absurd (beq_iff_eq.1 e).symm other
  · rwa [imageFaultRaised_raise] at r

end raiseLoading

/-! ### The faulty sections (R177) -/

theorem mem_addFaulty (n sec : Nat) (l : List Nat) : n ∈ addFaulty sec l ↔ n ∈ l ∨ n = sec := by
  unfold addFaulty
  split
  · next h =>
    refine ⟨.inl, fun m => m.elim id ?_⟩
    rintro rfl
    exact List.contains_iff_mem.1 h
  · simp

theorem mem_faulty_markDoses (n : Nat) (b : Bool) (s : State) :
    n ∈ (markDoses b s).faulty ↔ n ∈ s.faulty ∨ n = 7 ∧ b = true := by
  cases b with
  | false => simp [markDoses]
  | true => simpa [markDoses, markFaulty] using mem_addFaulty n 7 s.faulty

theorem noted_markDoses (b : Bool) (s : State) : Noted s (markDoses b s) := by
  cases b with
  | false => exact .refl s
  | true => exact noted_of rfl rfl rfl

section imageFault

variable (sec : Nat) (s : State)

theorem mem_faulty_imageFault (n : Nat) : n ∈ (imageFault sec s).faulty ↔ n ∈ s.faulty ∨ n = sec := by
  rw [imageFault, faulty_raise]
  exact mem_addFaulty n sec s.faulty

theorem raised_imageFault : (imageFault sec s).imageFaultRaised = true := imageFaultRaised_raise _ _ _ _

theorem noted_imageFault (l : s.loading = true) : Noted s (imageFault sec s) where
  stands k i h := (noted_raise .imageFault 0 sec _ (by exact l) (by decide)).stands k i h
  clock h := (noted_raise .imageFault 0 sec _ (by exact l) (by decide)).clock h
  fault _ _ := stands_raise .imageFault 0 sec _ (by exact l)

end imageFault

/-! ### Which records have failed (R172, R174) -/

/-- From `s` to `t` the records `rs` are read: what the sections and IMAGE_FAULT show of them. -/
structure Checked (m : List Host.Cell) (rs : RecordId → Prop) (s t : State) : Prop where
  faulty : ∀ n, n ∈ t.faulty ↔ n ∈ s.faulty ∨ ∃ r, rs r ∧ recordSection r = n ∧ recordPasses m r = false
  raised : t.imageFaultRaised = true ↔
    s.imageFaultRaised = true ∨ ∃ r, rs r ∧ recordSection r ≤ 6 ∧ recordPasses m r = false

section Checked

variable {m : List Host.Cell} {rs rs' : RecordId → Prop} {s t u : State}

theorem Checked.refl (s : State) : Checked m (fun _ => False) s s := ⟨fun n => by simp, by simp⟩

theorem Checked.congr (h : Checked m rs s t) (e : ∀ r, rs r ↔ rs' r) : Checked m rs' s t := by
  rwa [← show rs = rs' from funext fun r => propext (e r)]

theorem Checked.trans (h : Checked m rs s t) (k : Checked m rs' t u) : Checked m (fun r => rs r ∨ rs' r) s u where
  faulty n := by simp only [k.faulty, h.faulty, or_assoc, or_and_right, exists_or]
  raised := by simp only [k.raised, h.raised, or_assoc, or_and_right, exists_or]

/-- One record that passes changes neither. -/
theorem checked_passed (r : RecordId) (p : recordPasses m r = true) (f : t.faulty = s.faulty)
    (i : t.imageFaultRaised = s.imageFaultRaised) : Checked m (· = r) s t := by
  refine ⟨fun n => ?_, ?_⟩
  · rw [f]
    simp [p]
  · rw [i]
    simp [p]

/-- One configuration record that fails. -/
theorem checked_imageFault (r : RecordId) (p : recordPasses m r = false) (c : recordSection r ≤ 6) :
    Checked m (· = r) s (imageFault (recordSection r) s) := by
  refine ⟨fun n => ?_, ?_⟩
  · rw [mem_faulty_imageFault, exists_eq_left, and_iff_left p, eq_comm]
  · simp [raised_imageFault, p, c]

/-- One record of section 7. -/
theorem checked_markDoses (r : RecordId) (b : Bool) (p : recordPasses m r = !b) (c : recordSection r = 7)
    (f : t.faulty = (markDoses b s).faulty) (i : t.imageFaultRaised = s.imageFaultRaised) :
    Checked m (· = r) s t := by
  refine ⟨fun n => ?_, ?_⟩
  · rw [f, mem_faulty_markDoses, exists_eq_left, c, p, Bool.not_eq_false', eq_comm (a := n)]
  · rw [i]
    simp [c]

end Checked

end Sys2Proof.Machine
end

section
/-! PROOF. What the load of an image places: the settings, and the entry of each record in its table (O5). -/

namespace Sys2Proof.Machine

/-! ### Places and notes -/

/-- The state but for what the load notes: the Condition Table with its latches, the faulty sections, and what is known
of IMAGE_FAULT. -/
def exceptNotes (s : State) : State :=
  { s with conditions := [], latches := ⟨false, false, false⟩, faulty := [], imageFaultRaised := false }

/-- A step that neither reads nor writes the notes, and keeps the load in progress and the store. -/
structure Plain (g : State → State) : Prop where
  commutes : ∀ s, exceptNotes (g s) = g (exceptNotes s)
  table : ∀ s, (g s).conditions = s.conditions ∧ (g s).latches = s.latches
  faults : ∀ s, (g s).faulty = s.faulty ∧ (g s).imageFaultRaised = s.imageFaultRaised
  kept : ∀ s, (g s).loading = s.loading ∧ (g s).store = s.store

theorem plain_modNode (i : Nat) (f : Node → Node) : Plain fun s => s.modNode i f :=
  ⟨fun _ => rfl, fun _ => ⟨rfl, rfl⟩, fun _ => ⟨rfl, rfl⟩, fun _ => ⟨rfl, rfl⟩⟩

theorem plain_modPoint (i : Nat) (f : Point → Point) : Plain fun s => s.modPoint i f :=
  ⟨fun _ => rfl, fun _ => ⟨rfl, rfl⟩, fun _ => ⟨rfl, rfl⟩, fun _ => ⟨rfl, rfl⟩⟩

theorem plain_modObject (i : Nat) (f : Obj → Obj) : Plain fun s => s.modObject i f :=
  ⟨fun _ => rfl, fun _ => ⟨rfl, rfl⟩, fun _ => ⟨rfl, rfl⟩, fun _ => ⟨rfl, rfl⟩⟩

theorem plain_modGroup (i : Nat) (f : Group → Group) : Plain fun s => s.modGroup i f :=
  ⟨fun _ => rfl, fun _ => ⟨rfl, rfl⟩, fun _ => ⟨rfl, rfl⟩, fun _ => ⟨rfl, rfl⟩⟩

theorem plain_modZone (i : Nat) (f : Zone → Zone) : Plain fun s => s.modZone i f :=
  ⟨fun _ => rfl, fun _ => ⟨rfl, rfl⟩, fun _ => ⟨rfl, rfl⟩, fun _ => ⟨rfl, rfl⟩⟩

theorem Plain.noted {g : State → State} (h : Plain g) (s : State) : Noted s (g s) :=
  noted_of (h.table s).1 (h.table s).2 (h.faults s).2

theorem exceptNotes_raise (k : ConditionKind) (a d : Nat) (s : State) (l : s.loading = true) :
    exceptNotes (raise k a d s) = exceptNotes s := by
  have latch : ∀ u, exceptNotes (latchRaise k u) = exceptNotes u := fun u => by
    unfold latchRaise
    split
    · rfl
    · rfl
  rw [raise_loading k a d s l, latch, recorded]
  split
  · rfl
  · rfl

theorem exceptNotes_imageFault (sec : Nat) (s : State) (l : s.loading = true) :
    exceptNotes (imageFault sec s) = exceptNotes s := exceptNotes_raise .imageFault 0 sec _ l

theorem exceptNotes_markDoses (b : Bool) (s : State) : exceptNotes (markDoses b s) = exceptNotes s := by
  cases b with
  | false => rfl
  | true => rfl

/-! ### The load in progress -/

/-- The load runs, and the store holds the image `m`. -/
def Loading (m : List Host.Cell) (s : State) : Prop := s.loading = true ∧ s.store = m

theorem Loading.of_exceptNotes {m : List Host.Cell} {s t : State} (h : Loading m s)
    (e : exceptNotes t = exceptNotes s) : Loading m t :=
  ⟨(congrArg State.loading e :).trans h.1, (congrArg State.store e :).trans h.2⟩

theorem Loading.plain {m : List Host.Cell} {s : State} {g : State → State} (h : Loading m s) (p : Plain g) :
    Loading m (g s) := ⟨(p.kept s).1.trans h.1, (p.kept s).2.trans h.2⟩

/-- The piece `f` of the load reads the records `rs` of the image `m` and places what `g` places. -/
structure Reads (m : List Host.Cell) (rs : RecordId → Prop) (f g : State → State) : Prop where
  loading : ∀ s, Loading m s → Loading m (f s)
  placed : ∀ s, Loading m s → exceptNotes (f s) = g (exceptNotes s)
  checked : ∀ s, Loading m s → Checked m rs s (f s)
  noted : ∀ s, Loading m s → Noted s (f s)

section Reads

variable {m : List Host.Cell} {rs rs' : RecordId → Prop} {f g f' g' : State → State}

theorem Reads.congr (h : Reads m rs f g) (e : ∀ r, rs r ↔ rs' r) : Reads m rs' f g :=
  ⟨h.loading, h.placed, fun s l => (h.checked s l).congr e, h.noted⟩

theorem Reads.comp (h : Reads m rs f g) (k : Reads m rs' f' g') :
    Reads m (fun r => rs r ∨ rs' r) (fun s => f' (f s)) (fun s => g' (g s)) where
  loading s l := k.loading _ (h.loading s l)
  placed s l := (k.placed _ (h.loading s l)).trans (congrArg g' (h.placed s l))
  checked s l := (h.checked s l).trans (k.checked _ (h.loading s l))
  noted s l := (h.noted s l).trans (k.noted _ (h.loading s l))

theorem Reads.forEach {rs : Nat → RecordId → Prop} {f g : Nat → State → State}
    (h : ∀ i, Reads m (rs i) (f i) (g i)) (n : Nat) :
    Reads m (fun r => ∃ i < n, rs i r) (forEach n f) (forEach n g) := by
  induction n with
  | zero => exact ⟨fun _ l => l, fun _ _ => rfl, fun s _ => (Checked.refl s).congr fun r => by simp, fun s _ => .refl s⟩
  | succ n ih =>
    have succ : ∀ e : Nat → State → State, Machine.forEach (n + 1) e = fun s => e n (Machine.forEach n e s) :=
      fun e => funext (forEach_succ n e)
    rw [succ, succ]
    exact (ih.comp (h n)).congr fun r => Nat.exists_lt_succ_right.symm

/-- R174: a configuration record that passes is placed, one that fails leaves the entry as it was. -/
theorem reads_loadRecord {α : Type} (r : RecordId) (parse : List Half → Option α) (place : α → State → State)
    (plain : Plain g) (config : recordSection r ≤ 6)
    (passes : recordPasses m r = ((checkedValues m r).bind parse).isSome)
    (good : ∀ a, (checkedValues m r).bind parse = some a → place a = g)
    (bad : (checkedValues m r).bind parse = none → ∀ s, g s = s) :
    Reads m (· = r) (loadRecord r parse place) g := by
  have run : ∀ s, Loading m s → loadRecord r parse place s =
      if recordPasses m r then g s else imageFault (recordSection r) s := by
    rintro s ⟨-, store⟩
    unfold loadRecord
    rw [store, passes]
    split
    · next a h => rw [h, good a h]; rfl
    · next h => rw [h]; rfl
  cases p : recordPasses m r with
  | true =>
    have run : ∀ s, Loading m s → loadRecord r parse place s = g s := fun s l => by rw [run s l, p]; rfl
    refine ⟨fun s l => ?_, fun s l => ?_, fun s l => ?_, fun s l => ?_⟩ <;> rw [run s l]
    · exact l.plain plain
    · exact plain.commutes s
    · exact checked_passed r p (plain.faults s).1 (plain.faults s).2
    · exact plain.noted s
  | false =>
    have run : ∀ s, Loading m s → loadRecord r parse place s = imageFault (recordSection r) s := fun s l => by
      rw [run s l, p]; rfl
    have none : (checkedValues m r).bind parse = none := Option.not_isSome_iff_eq_none.1 (by rw [← passes, p]; simp)
    refine ⟨fun s l => ?_, fun s l => ?_, fun s l => ?_, fun s l => ?_⟩ <;> rw [run s l]
    · exact l.of_exceptNotes (exceptNotes_imageFault _ s l.1)
    · rw [exceptNotes_imageFault _ s l.1, bad none]
    · exact checked_imageFault r p config
    · exact noted_imageFault _ s l.1

end Reads

/-! ### The records of an image -/

section records

variable (m : List Host.Cell) (i : Nat)

def settingsRecord : Option (Device × List Half) := (checkedValues m .settings).bind parseSettings
def nodeRecord : Option Node := (checkedValues m (.node i)).bind parseNode
def pointRecord : Option Point := (checkedValues m (.point i)).bind parsePoint
def objectRecord : Option Obj := (checkedValues m (.object i)).bind parseObject
def groupRecord : Option Group := (checkedValues m (.group i)).bind parseGroup
def zoneRecord : Option Zone := (checkedValues m (.zone i)).bind parseZone
def doseRecord : Option DoseRecord := (checkedValues m (.dose i)).bind parseDose
def setpointRecord : Option (Int × Int) := (checkedValues m (.setpoint i)).bind parseSetpoints

/-- R174: an object with its dose record, or with the substitute. -/
def withDose (o : Obj) : Obj :=
  match doseRecord m i with
  | some d => placeDose d o
  | none => unknownDose (loadedStamp m) o

/-! ### The entries placed -/

def placeNode (s : State) : State := s.modNode i fun n => (nodeRecord m i).getD n
def placePoint (s : State) : State := s.modPoint i fun p => (pointRecord m i).getD p
def placeObject (s : State) : State := s.modObject i fun o => (objectRecord m i).getD o
def placeGroup (s : State) : State := s.modGroup i fun g => (groupRecord m i).getD g
def placeZone (s : State) : State := s.modZone i fun z => (zoneRecord m i).getD z
def placeDoseOf (s : State) : State := s.modObject i (withDose m i)
def placeSetpointsOf (s : State) : State := s.modZone i (placeSetpoints (setpointRecord m i))

theorem reads_node : Reads m (· = .node i)
    (loadRecord (.node i) parseNode fun n s => s.modNode i fun _ => n) (placeNode m i) := by
  refine reads_loadRecord _ _ _ (plain_modNode i _) (by simp [recordSection]) rfl (fun a h => ?_) fun h s => ?_
  · funext s
    rw [placeNode, nodeRecord, h]
    rfl
  · exact modNode_same s i _ (by rw [nodeRecord, h]; rfl)

theorem reads_point : Reads m (· = .point i)
    (loadRecord (.point i) parsePoint fun p s => s.modPoint i fun _ => p) (placePoint m i) := by
  refine reads_loadRecord _ _ _ (plain_modPoint i _) (by simp [recordSection]) rfl (fun a h => ?_) fun h s => ?_
  · funext s
    rw [placePoint, pointRecord, h]
    rfl
  · exact modPoint_same s i _ (by rw [pointRecord, h]; rfl)

theorem reads_object : Reads m (· = .object i)
    (loadRecord (.object i) parseObject fun o s => s.modObject i fun _ => o) (placeObject m i) := by
  refine reads_loadRecord _ _ _ (plain_modObject i _) (by simp [recordSection]) rfl (fun a h => ?_) fun h s => ?_
  · funext s
    rw [placeObject, objectRecord, h]
    rfl
  · exact modObject_same s i _ (by rw [objectRecord, h]; rfl)

theorem reads_group : Reads m (· = .group i)
    (loadRecord (.group i) parseGroup fun g s => s.modGroup i fun _ => g) (placeGroup m i) := by
  refine reads_loadRecord _ _ _ (plain_modGroup i _) (by simp [recordSection]) rfl (fun a h => ?_) fun h s => ?_
  · funext s
    rw [placeGroup, groupRecord, h]
    rfl
  · exact modGroup_same s i _ (by rw [groupRecord, h]; rfl)

theorem reads_zone : Reads m (· = .zone i)
    (loadRecord (.zone i) parseZone fun z s => s.modZone i fun _ => z) (placeZone m i) := by
  refine reads_loadRecord _ _ _ (plain_modZone i _) (by simp [recordSection]) rfl (fun a h => ?_) fun h s => ?_
  · funext s
    rw [placeZone, zoneRecord, h]
    rfl
  · exact modZone_same s i _ (by rw [zoneRecord, h]; rfl)

/-! ### Section 7 (R174) -/

theorem reads_markDoses (r : RecordId) (b : Bool) (p : recordPasses m r = !b) (c : recordSection r = 7) :
    Reads m (· = r) (markDoses b) id where
  loading s l := l.of_exceptNotes (exceptNotes_markDoses b s)
  placed s _ := exceptNotes_markDoses b s
  checked s _ := checked_markDoses r b p c rfl (by cases b <;> rfl)
  noted s _ := noted_markDoses b s

/-- A dose record that fails: the substitute, and DOSE_UNKNOWN on an enabled object. -/
theorem loadDose_failed (s : State) (l : Loading m s) (h : doseRecord m i = none) :
    loadDose (loadedStamp m) i s =
      if (s.object i).enable then raise .doseUnknown i (s.object i).zone (placeDoseOf m i (markDoses true s))
      else placeDoseOf m i (markDoses true s) := by
  have dose : withDose m i = unknownDose (loadedStamp m) := by
    funext o
    rw [withDose, h]
  have same : ∀ u : State, ((u.modObject i (unknownDose (loadedStamp m))).object i).enable = (u.object i).enable ∧
      ((u.modObject i (unknownDose (loadedStamp m))).object i).zone = (u.object i).zone := fun u => by
    rw [object_modObject]
    split
    · exact ⟨rfl, rfl⟩
    · exact ⟨rfl, rfl⟩
  have run : loadDose (loadedStamp m) i s =
      (let s := (markDoses true s).modObject i (unknownDose (loadedStamp m))
       if (s.object i).enable then raise .doseUnknown i (s.object i).zone s else s) := by
    rw [doseRecord, ← l.2] at h
    rw [loadDose, h]
  rw [run, placeDoseOf, dose]
  dsimp only
  rw [(same _).1, (same _).2]
  rfl

theorem loadDose_passed (s : State) (l : Loading m s) (d : DoseRecord) (h : doseRecord m i = some d) :
    loadDose (loadedStamp m) i s = placeDoseOf m i s := by
  have dose : withDose m i = placeDose d := by
    funext o
    rw [withDose, h]
  rw [doseRecord, ← l.2] at h
  rw [loadDose, h, placeDoseOf, dose]

theorem reads_dose : Reads m (· = .dose i) (loadDose (loadedStamp m) i) (placeDoseOf m i) := by
  have plain : Plain (placeDoseOf m i) := plain_modObject i _
  have passes : recordPasses m (.dose i) = (doseRecord m i).isSome := rfl
  cases h : doseRecord m i with
  | some d =>
    have run := fun s l => loadDose_passed m i s l d h
    refine ⟨fun s l => ?_, fun s l => ?_, fun s l => ?_, fun s l => ?_⟩ <;> rw [run s l]
    · exact l.plain plain
    · exact plain.commutes s
    · exact checked_passed _ (by rw [passes, h]; rfl) (plain.faults s).1 (plain.faults s).2
    · exact plain.noted s
  | none =>
    have marked := (reads_markDoses m (.dose i) true (by rw [passes, h]; rfl) rfl)
    have run := fun s l => loadDose_failed m i s l h
    have loading : ∀ s, Loading m s → Loading m (placeDoseOf m i (markDoses true s)) := fun s l =>
      (marked.loading s l).plain plain
    have placed : ∀ s, exceptNotes (placeDoseOf m i (markDoses true s)) = placeDoseOf m i (exceptNotes s) := fun s =>
      (plain.commutes _).trans (congrArg _ (exceptNotes_markDoses true s))
    have noted : ∀ s, Noted s (placeDoseOf m i (markDoses true s)) := fun s =>
      (noted_markDoses true s).trans (plain.noted _)
    have raised : ∀ s, Loading m s → ∀ z, exceptNotes (raise .doseUnknown i z (placeDoseOf m i (markDoses true s))) =
        exceptNotes (placeDoseOf m i (markDoses true s)) := fun s l z => exceptNotes_raise _ _ _ _ (loading s l).1
    refine ⟨fun s l => ?_, fun s l => ?_, fun s l => ?_, fun s l => ?_⟩ <;> rw [run s l] <;> split
    · exact (loading s l).of_exceptNotes (raised s l _)
    · exact loading s l
    · exact (raised s l _).trans (placed s)
    · exact placed s
    · exact checked_markDoses _ true (by rw [passes, h]; rfl) rfl (faulty_raise _ _ _ _)
        (imageFaultRaised_raise _ _ _ _)
    · exact checked_markDoses _ true (by rw [passes, h]; rfl) rfl rfl rfl
    · exact (noted s).trans (noted_raise _ _ _ _ (loading s l).1 (by decide))
    · exact noted s

theorem reads_setpoint : Reads m (· = .setpoint i) (loadSetpoints i) (placeSetpointsOf m i) := by
  have plain : Plain (placeSetpointsOf m i) := plain_modZone i _
  have passes : recordPasses m (.setpoint i) = (setpointRecord m i).isSome := rfl
  have marked := reads_markDoses m (.setpoint i) (setpointRecord m i).isNone (by rw [passes, Option.not_isNone]) rfl
  have run : ∀ s, Loading m s → loadSetpoints i s = placeSetpointsOf m i (markDoses (setpointRecord m i).isNone s) := by
    rintro s ⟨-, store⟩
    rw [loadSetpoints, store]
    rfl
  refine ⟨fun s l => ?_, fun s l => ?_, fun s l => ?_, fun s l => ?_⟩ <;> rw [run s l]
  · exact (marked.loading s l).plain plain
  · exact (plain.commutes _).trans (congrArg _ (marked.placed s l))
  · obtain ⟨faulty, raised⟩ := marked.checked s l
    exact ⟨faulty, raised⟩
  · exact (marked.noted s l).trans (plain.noted _)

end records

end Sys2Proof.Machine
end

section
/-! PROOF. The sections of an image loaded whole: what stands in each table, which sections are faulty, and DOSE_UNKNOWN
of the objects with no dose record (O5). -/

namespace Sys2Proof.Machine

/-! ### One table after another -/

/-- Every entry of a table below a bound changed once. -/
def changeEach {α : Type} {n : Nat} (k : Nat) (h : Nat → α → α) (t : Vector α n) : Vector α n :=
  (List.range k).foldl (fun v i => modifyAt v i (h i)) t

theorem getElem?_changeEach {α : Type} {n : Nat} (k : Nat) (h : Nat → α → α) (t : Vector α n) (j : Nat) :
    (changeEach k h t)[j]? = if j < k then t[j]?.map (h j) else t[j]? := by
  induction k with
  | zero => rfl
  | succ k ih =>
    have step : changeEach (k + 1) h t = modifyAt (changeEach k h t) k (h k) := by
      simp only [changeEach, List.range_succ, List.foldl_append, List.foldl_cons, List.foldl_nil]
    rw [step, getElem?_modifyAt, ih]
    by_cases e : k = j
    · subst e
      simp
    · have order : j < k + 1 ↔ j < k := by omega
      simp only [e, order, if_false]

/-- Work that changes one part of the state is the work on that part. -/
theorem forEach_within {β : Type} (put : β → State) (f : Nat → State → State) (g : Nat → β → β)
    (h : ∀ i b, f i (put b) = put (g i b)) (n : Nat) (b : β) :
    forEach n f (put b) = put ((List.range n).foldl (fun b i => g i b) b) := by
  unfold forEach
  generalize List.range n = l
  induction l generalizing b with
  | nil => rfl
  | cons i l ih => rw [List.foldl_cons, List.foldl_cons, h, ih]

section tables

variable (m : List Host.Cell) (s : State)

theorem placeNodes_eq : forEach 64 (placeNode m) s =
    { s with nodes := changeEach 64 (fun i n => (nodeRecord m i).getD n) s.nodes } :=
  forEach_within (fun v => { s with nodes := v }) _ _ (fun _ _ => rfl) 64 s.nodes

theorem placePoints_eq : forEach 192 (placePoint m) s =
    { s with points := changeEach 192 (fun i p => (pointRecord m i).getD p) s.points } :=
  forEach_within (fun v => { s with points := v }) _ _ (fun _ _ => rfl) 192 s.points

theorem placeObjects_eq : forEach 256 (placeObject m) s =
    { s with objects := changeEach 256 (fun i o => (objectRecord m i).getD o) s.objects } :=
  forEach_within (fun v => { s with objects := v }) _ _ (fun _ _ => rfl) 256 s.objects

theorem placeGroups_eq : forEach 48 (placeGroup m) s =
    { s with groups := changeEach 48 (fun i g => (groupRecord m i).getD g) s.groups } :=
  forEach_within (fun v => { s with groups := v }) _ _ (fun _ _ => rfl) 48 s.groups

theorem placeZones_eq : forEach 24 (placeZone m) s =
    { s with zones := changeEach 24 (fun i z => (zoneRecord m i).getD z) s.zones } :=
  forEach_within (fun v => { s with zones := v }) _ _ (fun _ _ => rfl) 24 s.zones

theorem placeDoses_eq : forEach 256 (placeDoseOf m) s =
    { s with objects := changeEach 256 (withDose m) s.objects } :=
  forEach_within (fun v => { s with objects := v }) _ _ (fun _ _ => rfl) 256 s.objects

theorem placeSetpointsEach_eq : forEach 24 (placeSetpointsOf m) s =
    { s with zones := changeEach 24 (fun i => placeSetpoints (setpointRecord m i)) s.zones } :=
  forEach_within (fun v => { s with zones := v }) _ _ (fun _ _ => rfl) 24 s.zones

/-- Sections 2 to 6 on the tables. -/
def placeTables : State :=
  { s with
    nodes := changeEach 64 (fun i n => (nodeRecord m i).getD n) s.nodes
    points := changeEach 192 (fun i p => (pointRecord m i).getD p) s.points
    objects := changeEach 256 (fun i o => (objectRecord m i).getD o) s.objects
    groups := changeEach 48 (fun i g => (groupRecord m i).getD g) s.groups
    zones := changeEach 24 (fun i z => (zoneRecord m i).getD z) s.zones }

theorem exceptNotes_placeTables : exceptNotes (placeTables m s) = placeTables m (exceptNotes s) := by
  simp only [exceptNotes, placeTables]

/-- Section 7 on the tables. -/
def placeSection7 : State :=
  { s with
    objects := changeEach 256 (withDose m) s.objects
    zones := changeEach 24 (fun i => placeSetpoints (setpointRecord m i)) s.zones }

theorem exceptNotes_placeSection7 : exceptNotes (placeSection7 m s) = placeSection7 m (exceptNotes s) := by
  simp only [exceptNotes, placeSection7]

end tables

/-! ### Sections 2 to 7 -/

def loadTables (s : State) : State := loadZones (loadGroups (loadObjects (loadPoints (loadNodes s))))

def loadSection7 (m : List Host.Cell) (s : State) : State :=
  markDoses (storedStamp m).isNone (forEach 24 loadSetpoints (forEach 256 (loadDose (loadedStamp m)) s))

/-- A record of sections 2 to 6. -/
def ofTables (r : RecordId) : Prop := inImage r = true ∧ 2 ≤ recordSection r ∧ recordSection r ≤ 6

theorem reads_tables (m : List Host.Cell) : Reads m ofTables loadTables (placeTables m) := by
  have reads := ((((Reads.forEach (reads_node m) 64).comp (Reads.forEach (reads_point m) 192)).comp
    (Reads.forEach (reads_object m) 256)).comp (Reads.forEach (reads_group m) 48)).comp
    (Reads.forEach (reads_zone m) 24)
  simp only [placeNodes_eq, placePoints_eq, placeObjects_eq, placeGroups_eq, placeZones_eq] at reads
  refine Reads.congr reads fun r => ?_
  cases r <;> simp [ofTables, inImage, recordSection]

theorem reads_section7 (m : List Host.Cell) :
    Reads m (fun r => inImage r = true ∧ recordSection r = 7) (loadSection7 m) (placeSection7 m) := by
  have stamp := reads_markDoses m .stamp (storedStamp m).isNone (by rw [Option.not_isNone]; rfl) rfl
  have reads := ((Reads.forEach (reads_dose m) 256).comp (Reads.forEach (reads_setpoint m) 24)).comp stamp
  simp only [placeDoses_eq, placeSetpointsEach_eq] at reads
  refine Reads.congr reads fun r => ?_
  cases r <;> simp [inImage, recordSection]

theorem loadSections_eq (m : List Host.Cell) (s : State) (l : Loading m (loadTables (loadSettings s))) :
    loadSections s = loadSection7 m (loadTables (loadSettings s)) := by
  rw [loadSection7, ← l.2]
  rfl

/-! ### Section 1, and CLOCK_UNSET (R65, R147) -/

def placeSettings (x : Option (Device × List Half)) (s : State) : State :=
  match x with
  | some (d, thresholds) => placeThresholds thresholds { s with device := d }
  | none => s

theorem conditions_raise_empty (k : ConditionKind) (a d : Nat) (s : State) (l : s.loading = true)
    (e : s.conditions = []) : (raise k a d s).conditions = [stamped k a d s] := by
  rw [conditions_raise_loading k a d s l, recorded, e]
  rfl

/-- The load begins: the Calendar is as after reset, and nothing has been noted. -/
structure Fresh (m : List Host.Cell) (s : State) : Prop where
  loading : Loading m s
  calendar : s.calendar = resetCalendar
  conditions : s.conditions = []
  faulty : s.faulty = []
  unraised : s.imageFaultRaised = false

theorem clock_raiseClockUnset (m : List Host.Cell) (s : State) (h : Fresh m s) :
    clockUnsetEntry ∈ (raiseClockUnset s).conditions := by
  rw [raiseClockUnset, conditions_raise_empty _ _ _ s h.loading.1 h.conditions, stamped, h.calendar]
  exact List.mem_cons_self

/-- What the load has noted of the records `rs`. -/
structure Begun (m : List Host.Cell) (rs : RecordId → Prop) (s t : State) : Prop where
  loading : Loading m t
  checked : Checked m rs s t
  clock : clockUnsetEntry ∈ t.conditions
  fault : FaultStands t

theorem Begun.reads {m : List Host.Cell} {rs rs' : RecordId → Prop} {s t : State} {f g : State → State}
    (h : Begun m rs s t) (r : Reads m rs' f g) : Begun m (fun r => rs r ∨ rs' r) s (f t) :=
  ⟨r.loading t h.loading, h.checked.trans (r.checked t h.loading), (r.noted t h.loading).clock h.clock,
    (r.noted t h.loading).fault h.fault⟩

theorem loadSettings_begins (m : List Host.Cell) (s : State) (h : Fresh m s) :
    Begun m (· = .settings) s (loadSettings s) ∧
      exceptNotes (loadSettings s) = exceptNotes (placeSettings (settingsRecord m) s) := by
  have passes : recordPasses m .settings = (settingsRecord m).isSome := rfl
  have plain : ∀ s : State, s.loading = true → exceptNotes (raiseClockUnset s) = exceptNotes s :=
    fun s l => exceptNotes_raise _ _ _ s l
  cases x : settingsRecord m with
  | some y =>
    have run : loadSettings s = raiseClockUnset (placeSettings (some y) s) := by
      rw [settingsRecord, ← h.loading.2] at x
      rw [loadSettings, x]
      rfl
    have fresh : Fresh m (placeSettings (some y) s) := ⟨h.loading, h.calendar, h.conditions, h.faulty, h.unraised⟩
    have placed := plain _ fresh.loading.1
    rw [run]
    refine ⟨⟨fresh.loading.of_exceptNotes placed, ?_, clock_raiseClockUnset m _ fresh, fun r => ?_⟩, placed⟩
    · exact checked_passed .settings (by rw [passes, x]; rfl) (faulty_raise _ _ _ _) (imageFaultRaised_raise _ _ _ _)
    · have unraised := (imageFaultRaised_raise .clockUnset 0 0 (placeSettings (some y) s)).trans fresh.unraised
      exact absurd (unraised.symm.trans r) Bool.false_ne_true
  | none =>
    have run : loadSettings s = imageFault 1 (raiseClockUnset s) := by
      rw [settingsRecord, ← h.loading.2] at x
      rw [loadSettings, x]
    have loading := h.loading.of_exceptNotes (plain s h.loading.1)
    have placed := exceptNotes_imageFault 1 _ loading.1
    have noted := noted_imageFault 1 _ loading.1
    have failed := checked_imageFault (s := raiseClockUnset s) (m := m) .settings (by rw [passes, x]; rfl) (by decide)
    rw [run]
    refine ⟨⟨loading.of_exceptNotes placed, ⟨fun n => ?_, ?_⟩, noted.clock (clock_raiseClockUnset m s h), fun _ => ?_⟩,
      placed.trans (plain s h.loading.1)⟩
    · rw [← faulty_raise .clockUnset 0 0 s]
      exact failed.faulty n
    · rw [← imageFaultRaised_raise .clockUnset 0 0 s]
      exact failed.raised
    · exact stands_raise .imageFault 0 1 _ (by exact loading.1)

/-! ### The sections as a whole -/

/-- R177: the records that the load judges after the header. -/
def judged (r : RecordId) : Prop := inImage r = true ∧ 1 ≤ recordSection r

section sections

variable (m : List Host.Cell) (s : State) (h : Fresh m s)

include h

theorem exceptNotes_loadTables : exceptNotes (loadTables (loadSettings s)) =
    exceptNotes (placeTables m (placeSettings (settingsRecord m) s)) := by
  obtain ⟨begun, placed⟩ := loadSettings_begins m s h
  rw [(reads_tables m).placed _ begun.loading, placed, exceptNotes_placeTables]

theorem exceptNotes_loadSections : exceptNotes (loadSections s) =
    exceptNotes (placeSection7 m (placeTables m (placeSettings (settingsRecord m) s))) := by
  have tables := (loadSettings_begins m s h).1.reads (reads_tables m)
  rw [loadSections_eq m s tables.loading, (reads_section7 m).placed _ tables.loading, exceptNotes_loadTables m s h,
    exceptNotes_placeSection7]

theorem loadSections_begins : Begun m judged s (loadSections s) := by
  have tables := (loadSettings_begins m s h).1.reads (reads_tables m)
  obtain ⟨loading, checked, clock, fault⟩ := tables.reads (reads_section7 m)
  rw [← loadSections_eq m s tables.loading] at loading checked clock fault
  refine ⟨loading, checked.congr fun r => ?_, clock, fault⟩
  cases r <;> simp [judged, ofTables, inImage, recordSection]

/-- R177: the faulty sections are those with a failed record. -/
theorem loadSections_faulty (header : recordPasses m .header = true) :
    (∀ n, n ∈ (loadSections s).faulty ↔ sectionFails m n) ∧
    ((loadSections s).imageFaultRaised = true ↔ ∃ n, 1 ≤ n ∧ n ≤ 6 ∧ sectionFails m n) := by
  obtain ⟨faulty, raised⟩ := (loadSections_begins m s h).checked
  refine ⟨fun n => ?_, ?_⟩
  · rw [faulty, h.faulty, sectionFails]
    simp only [List.not_mem_nil, false_or]
    refine exists_congr fun r => ?_
    by_cases low : 1 ≤ recordSection r
    · simp only [judged, low, and_true]
    · have head : r = .header := by
        cases r with
        | header => rfl
        | _ => exact absurd (by simp [recordSection]) low
      subst head
      simp [header]
  · rw [raised, h.unraised]
    simp only [Bool.false_eq_true, false_or, judged, sectionFails]
    constructor
    · rintro ⟨r, ⟨image, low⟩, high, fails⟩
      exact ⟨recordSection r, low, high, r, image, rfl, fails⟩
    · rintro ⟨n, low, high, r, image, rfl, fails⟩
      exact ⟨r, ⟨image, low⟩, high, fails⟩

end sections

/-! ### DOSE_UNKNOWN (R94) -/

/-- What a turn of the doses adds: DOSE_UNKNOWN of an enabled object with no dose record. -/
theorem loadDose_unknown (m : List Host.Cell) (i : Nat) (s : State) (l : Loading m s) (h : doseRecord m i = none)
    (on : (s.object i).enable = true) : Stands .doseUnknown i (loadDose (loadedStamp m) i s) := by
  have loading : (placeDoseOf m i (markDoses true s)).loading = true := l.1
  rw [loadDose_failed m i s l h, if_pos on]
  exact stands_raise .doseUnknown i _ _ loading

theorem enable_withDose (m : List Host.Cell) (i : Nat) (o : Obj) : (withDose m i o).enable = o.enable := by
  unfold withDose
  split
  · rfl
  · rfl

theorem enable_loadDose (m : List Host.Cell) (i j : Nat) (s : State) (l : Loading m s) :
    ((loadDose (loadedStamp m) i s).object j).enable = (s.object j).enable := by
  have objects : (loadDose (loadedStamp m) i s).objects = (placeDoseOf m i (exceptNotes s)).objects :=
    (congrArg State.objects ((reads_dose m i).placed s l) :)
  rw [object_congr objects, placeDoseOf, object_modObject]
  split
  · exact enable_withDose m i _
  · rfl

theorem loadDoses_unknown (m : List Host.Cell) (s : State) (l : Loading m s) (n i : Nat) (k : i < n)
    (h : doseRecord m i = none) (on : (s.object i).enable = true) :
    Stands .doseUnknown i (forEach n (loadDose (loadedStamp m)) s) := by
  have each := forEach_invariant (loadDose (loadedStamp m)) (fun k u => Loading m u ∧
      (∀ j, (u.object j).enable = (s.object j).enable) ∧
      ∀ j < k, doseRecord m j = none → (s.object j).enable = true → Stands .doseUnknown j u)
    s n ⟨l, fun _ => rfl, fun j k => absurd k (Nat.not_lt_zero j)⟩ fun i _ u ⟨l, enable, stands⟩ => by
      refine ⟨(reads_dose m i).loading u l, fun j => (enable_loadDose m i j u l).trans (enable j),
        Nat.forall_lt_succ_right.2 ⟨fun j k h on => ?_, fun h on => ?_⟩⟩
      · exact ((reads_dose m i).noted u l).stands _ _ (stands j k h on)
      · exact loadDose_unknown m i u l h ((enable i).trans on)
  exact each.2.2 i k h on

theorem loadSections_unknown (m : List Host.Cell) (s : State) (h : Fresh m s) (i : Nat) (k : i < 256)
    (failed : doseRecord m i = none) (on : ((loadTables (loadSettings s)).object i).enable = true) :
    Stands .doseUnknown i (loadSections s) := by
  have tables := ((loadSettings_begins m s h).1.reads (reads_tables m)).loading
  have doses := Reads.forEach (reads_dose m) 256
  have setpoints := Reads.forEach (reads_setpoint m) 24
  have stands := loadDoses_unknown m _ tables 256 i k failed on
  rw [loadSections_eq m s tables]
  exact (noted_markDoses _ _).stands _ _ ((setpoints.noted _ (doses.loading _ tables)).stands _ _ stands)

end Sys2Proof.Machine
end

section
/-! PROOF. The entries that an image leaves in blank tables, the straps, and the load computations (O5). -/

namespace Sys2Proof.Machine

/-! ### The entries of the tables (R173, R174) -/

/-- Every table and setting as after reset, before the load. -/
structure Unloaded (s : State) : Prop where
  device : s.device = factoryDevice
  counters : s.counters = Vector.replicate 17 factoryCounter
  nodes : s.nodes = Vector.replicate 64 factoryNode
  points : s.points = Vector.replicate 192 factoryPoint
  objects : s.objects = Vector.replicate 256 factoryObject
  groups : s.groups = Vector.replicate 48 factoryGroup
  zones : s.zones = Vector.replicate 24 factoryZone

theorem entry_changeEach {α : Type} {n : Nat} (h : Nat → α → α) (t : Vector α n) (x : α) (i : Nat) (l : i < n) :
    (changeEach n h t)[i]?.getD x = h i (t[i]?.getD x) := by
  rw [getElem?_changeEach, if_pos l, Vector.getElem?_eq_getElem l]
  rfl

theorem entry_replicate {α : Type} {n : Nat} (x : α) (i : Nat) (l : i < n) :
    (Vector.replicate n x)[i]?.getD x = x := by
  rw [Vector.getElem?_eq_getElem l, Vector.getElem_replicate]
  rfl

/-- The settings leave the tables. -/
theorem placeSettings_tables (x : Option (Device × List Half)) (s : State) :
    (placeSettings x s).nodes = s.nodes ∧ (placeSettings x s).points = s.points ∧
    (placeSettings x s).objects = s.objects ∧ (placeSettings x s).groups = s.groups ∧
    (placeSettings x s).zones = s.zones ∧ (placeSettings x s).line = s.line ∧ (placeSettings x s).pins = s.pins := by
  cases x with
  | none => exact ⟨rfl, rfl, rfl, rfl, rfl, rfl, rfl⟩
  | some y => exact ⟨rfl, rfl, rfl, rfl, rfl, rfl, rfl⟩

theorem Unloaded.settings {s : State} (b : Unloaded s) (x : Option (Device × List Half)) :
    (placeSettings x s).device = (x.map Prod.fst).getD factoryDevice ∧
    ∀ i, (l : i < 17) → (placeSettings x s).counters[i] =
      ⟨0, 0, 0, (x.map fun y => (y.2.getD i 0).toNat).getD 0⟩ := by
  cases x with
  | none =>
    refine ⟨b.device, fun i l => ?_⟩
    simp only [placeSettings, b.counters, Vector.getElem_replicate]
    rfl
  | some y =>
    refine ⟨rfl, fun i l => ?_⟩
    simp only [placeSettings, placeThresholds, b.counters, Vector.getElem_mapFinIdx, Vector.getElem_replicate]
    rfl

theorem fields_exceptNotes {s t : State} (h : exceptNotes t = exceptNotes s) :
    t.device = s.device ∧ t.counters = s.counters ∧ t.line = s.line ∧ t.pins = s.pins :=
  ⟨(congrArg State.device h :), (congrArg State.counters h :), (congrArg State.line h :), (congrArg State.pins h :)⟩

theorem tables_exceptNotes {s t : State} (h : exceptNotes t = exceptNotes s) :
    t.nodes = s.nodes ∧ t.points = s.points ∧ t.objects = s.objects ∧ t.groups = s.groups ∧ t.zones = s.zones :=
  ⟨(congrArg State.nodes h :), (congrArg State.points h :), (congrArg State.objects h :), (congrArg State.groups h :),
    (congrArg State.zones h :)⟩

section entries

variable (m : List Host.Cell) (s : State) (h : Fresh m s) (b : Unloaded s) (i : Nat)

/-- The object of an image, before its dose. -/
def storedObject : Obj := (objectRecord m i).getD factoryObject

include h

theorem tables_loadSections :
    (loadSections s).nodes = changeEach 64 (fun i n => (nodeRecord m i).getD n) s.nodes ∧
    (loadSections s).points = changeEach 192 (fun i p => (pointRecord m i).getD p) s.points ∧
    (loadSections s).objects =
      changeEach 256 (withDose m) (changeEach 256 (fun i o => (objectRecord m i).getD o) s.objects) ∧
    (loadSections s).groups = changeEach 48 (fun i g => (groupRecord m i).getD g) s.groups ∧
    (loadSections s).zones = changeEach 24 (fun i => placeSetpoints (setpointRecord m i))
      (changeEach 24 (fun i z => (zoneRecord m i).getD z) s.zones) := by
  have tables := tables_exceptNotes (exceptNotes_loadSections m s h)
  obtain ⟨nodes, points, objects, groups, zones, -⟩ := placeSettings_tables (settingsRecord m) s
  simp only [placeSection7, placeTables, nodes, points, objects, groups, zones] at tables
  exact tables

theorem objects_loadTables : (loadTables (loadSettings s)).objects =
    changeEach 256 (fun i o => (objectRecord m i).getD o) s.objects := by
  obtain ⟨-, -, placed, -⟩ := tables_exceptNotes (exceptNotes_loadTables m s h)
  obtain ⟨-, -, objects, -⟩ := placeSettings_tables (settingsRecord m) s
  simp only [placeTables, objects] at placed
  exact placed

theorem line_loadSections : (loadSections s).line = s.line ∧ (loadSections s).pins = s.pins := by
  obtain ⟨-, -, line, pins⟩ := fields_exceptNotes (exceptNotes_loadSections m s h)
  obtain ⟨-, -, -, -, -, line', pins'⟩ := placeSettings_tables (settingsRecord m) s
  simp only [placeSection7, placeTables, line', pins'] at line pins
  exact ⟨line, pins⟩

include b

theorem node_loadSections (l : i < 64) : (loadSections s).node i = (nodeRecord m i).getD factoryNode := by
  obtain ⟨placed, -⟩ := tables_loadSections m s h
  rw [State.node, placed, entry_changeEach _ _ _ i l, b.nodes, entry_replicate _ i l]

theorem point_loadSections (l : i < 192) : (loadSections s).point i = (pointRecord m i).getD factoryPoint := by
  obtain ⟨-, placed, -⟩ := tables_loadSections m s h
  rw [State.point, placed, entry_changeEach _ _ _ i l, b.points, entry_replicate _ i l]

theorem group_loadSections (l : i < 48) : (loadSections s).group i = (groupRecord m i).getD factoryGroup := by
  obtain ⟨-, -, -, placed, -⟩ := tables_loadSections m s h
  rw [State.group, placed, entry_changeEach _ _ _ i l, b.groups, entry_replicate _ i l]

theorem zone_loadSections (l : i < 24) : (loadSections s).zone i =
    placeSetpoints (setpointRecord m i) ((zoneRecord m i).getD factoryZone) := by
  obtain ⟨-, -, -, -, placed⟩ := tables_loadSections m s h
  rw [State.zone, placed, entry_changeEach _ _ _ i l, entry_changeEach _ _ _ i l, b.zones, entry_replicate _ i l]

theorem object_loadTables (l : i < 256) : (loadTables (loadSettings s)).object i = storedObject m i := by
  rw [State.object, objects_loadTables m s h, entry_changeEach _ _ _ i l, b.objects, entry_replicate _ i l,
    storedObject]

theorem object_loadSections (l : i < 256) : (loadSections s).object i = withDose m i (storedObject m i) := by
  obtain ⟨-, -, placed, -⟩ := tables_loadSections m s h
  rw [State.object, placed, entry_changeEach _ _ _ i l, entry_changeEach _ _ _ i l, b.objects, entry_replicate _ i l,
    storedObject]

theorem settings_loadSections :
    (loadSections s).device = ((settingsRecord m).map Prod.fst).getD factoryDevice ∧
    ∀ i, (l : i < 17) → (loadSections s).counters[i] =
      ⟨0, 0, 0, ((settingsRecord m).map fun x => (x.2.getD i 0).toNat).getD 0⟩ := by
  obtain ⟨device, counters, -⟩ := fields_exceptNotes (exceptNotes_loadSections m s h)
  simp only [placeSection7, placeTables] at device counters
  rw [device]
  simp only [counters]
  exact b.settings (settingsRecord m)

end entries

/-! ### The flags of a stored object -/

/-- No flag of the object stands that a ceiling computation could clear. -/
def unflagged (o : Obj) : Prop := o.exhausted = false ∧ o.paceShort = false

/-- The flags that no record holds. -/
def loadFlags (o : Obj) : Bool × Bool × Bool := (o.exhausted, o.paceShort, o.unknown)

theorem loadFlags_putBudget (o : Obj) (n : Nat) : loadFlags (putBudget o n).1 = loadFlags o := by
  simp only [loadFlags, putBudget]

theorem loadFlags_putPlanned (o : Obj) (n : Nat) : loadFlags (putPlanned o n).1 = loadFlags o := by
  simp only [loadFlags, putPlanned]

theorem loadFlags_putRemaining (o : Obj) (n : Nat) : loadFlags (putRemaining o n).1 = loadFlags o := by
  simp only [loadFlags, putRemaining]

theorem loadFlags_putObject (f : Nat) (v : Half) (o : Obj) : loadFlags (putObject f v o).1 = loadFlags o := by
  unfold putObject
  split <;> simp only [loadFlags_putBudget, loadFlags_putPlanned, loadFlags_putRemaining] <;> simp only [loadFlags]

theorem unchanged_some {α : Type} {r : α × Bool} {a : α} (h : unchanged r = some a) : r.1 = a := by
  unfold unchanged at h
  split at h
  · cases h
  · exact Option.some.inj h

theorem parseObject_flags (values : List Half) (o : Obj) (h : parseObject values = some o) :
    loadFlags o = loadFlags factoryObject := by
  unfold parseObject at h
  simp only [Option.bind_eq_bind, Option.bind_eq_some_iff] at h
  obtain ⟨a, fields, b, budget, planned⟩ := h
  rw [← unchanged_some planned, loadFlags_putPlanned, ← unchanged_some budget, loadFlags_putBudget]
  exact loadFields_keeps .object putObject (fun o => loadFlags o = loadFlags factoryObject)
    (fun f v a e => (loadFlags_putObject f v a).trans e) _ _ _ _ rfl fields

theorem storedObject_flags (m : List Host.Cell) (i : Nat) :
    unflagged (storedObject m i) ∧ (storedObject m i).unknown = false := by
  have flags : loadFlags (storedObject m i) = loadFlags factoryObject := by
    rw [storedObject]
    cases h : objectRecord m i with
    | none => rfl
    | some o =>
      obtain ⟨values, -, parsed⟩ := Option.bind_eq_some_iff.1 h
      exact parseObject_flags values o parsed
  obtain ⟨exhausted, rest⟩ := Prod.mk.inj flags
  obtain ⟨pace, unknown⟩ := Prod.mk.inj rest
  exact ⟨⟨exhausted, pace⟩, unknown⟩

theorem unflagged_withDose (m : List Host.Cell) (i : Nat) (o : Obj) (h : unflagged o) : unflagged (withDose m i o) := by
  unfold withDose
  split
  · exact h
  · exact h

/-! ### The straps (R175) -/

/-- An enabled node at the own address. -/
def clashes (s : State) (i : Nat) : Prop := (s.node i).enable = true ∧ (s.node i).address = s.device.ownAddress

/-- The state but for the notes and the nodes. -/
def exceptNodes (s : State) : State := { exceptNotes s with nodes := Vector.replicate 64 factoryNode }

theorem disableClash_clash (i : Nat) (s : State) (h : clashes s i) :
    disableClash i s = imageFault 2 (s.modNode i fun n => { n with enable := false, state := .absent }) :=
  if_pos (Bool.and_eq_true_iff.2 ⟨h.1, beq_iff_eq.2 h.2⟩)

theorem disableClash_free (i : Nat) (s : State) (h : ¬clashes s i) : disableClash i s = s :=
  if_neg fun c => h ⟨(Bool.and_eq_true_iff.1 c).1, beq_iff_eq.1 (Bool.and_eq_true_iff.1 c).2⟩

/-- The nodes below `k` have been judged, from `w` to `u`. -/
structure Disabled (w : State) (k : Nat) (u : State) : Prop where
  loading : u.loading = true
  frame : exceptNodes u = exceptNodes w
  noted : Noted w u
  later : ∀ j, k ≤ j → u.node j = w.node j
  faulty : ∀ n, n ∈ u.faulty ↔ n ∈ w.faulty ∨ n = 2 ∧ ∃ i < k, clashes w i
  raised : u.imageFaultRaised = true ↔ w.imageFaultRaised = true ∨ ∃ i < k, clashes w i

theorem Disabled.turn {w u : State} {k : Nat} (h : Disabled w k u) : Disabled w (k + 1) (disableClash k u) := by
  have later : ∀ j, k + 1 ≤ j → (disableClash k u).node j = w.node j := fun j l => by
    rw [node_disableClash, if_neg (by omega)]
    exact h.later j (by omega)
  have same : clashes u k ↔ clashes w k := by
    have device : u.device = w.device := (congrArg State.device h.frame :)
    rw [clashes, h.later k (Nat.le_refl k), device]
    rfl
  by_cases c : clashes u k
  · have clash := same.1 c
    have run := disableClash_clash k u c
    have plain : Plain fun s => s.modNode k fun n => { n with enable := false, state := .absent } := plain_modNode k _
    have notes := exceptNotes_imageFault 2 (u.modNode k fun n => { n with enable := false, state := .absent }) h.loading
    refine ⟨?_, ?_, ?_, later, fun n => ?_, ?_⟩
    · rw [run]
      exact (congrArg State.loading notes :).trans h.loading
    · rw [run]
      exact (congrArg (fun s : State => { s with nodes := Vector.replicate 64 factoryNode }) notes).trans h.frame
    · rw [run]
      exact h.noted.trans ((plain.noted u).trans (noted_imageFault 2 _ h.loading))
    · rw [run, mem_faulty_imageFault, (plain.faults u).1, h.faulty, Nat.exists_lt_succ_right]
      simp only [clash, or_true, and_true]
      tauto
    · rw [run, raised_imageFault, Nat.exists_lt_succ_right]
      simp only [clash, or_true]
  · have free := mt same.2 c
    rw [disableClash_free k u c] at later ⊢
    refine ⟨h.loading, h.frame, h.noted, later, fun n => ?_, ?_⟩
    · rw [h.faulty, Nat.exists_lt_succ_right, or_iff_left free]
    · rw [h.raised, Nat.exists_lt_succ_right, or_iff_left free]

theorem settleAddresses_disabled (s : State) (l : s.loading = true) :
    Disabled (withStraps s) 64 (settleAddresses s) := by
  rw [settleAddresses_eq]
  refine forEach_invariant disableClash (Disabled (withStraps s)) (withStraps s) 64 ?_ fun i _ u h => h.turn
  exact ⟨l, rfl, .refl _, fun _ _ => rfl, fun n => by simp, by simp⟩

/-! ### The ceilings (R77, R88, R89) -/

/-- R77: C is Cfloor before the computation. -/
def floored (o : Obj) : Obj := { o with ceiling := o.cfloor }

/-- R77: the ceiling of an enabled object is computed, that of a disabled one is its Cfloor. -/
def loadedCeiling (o : Obj) : Obj := if o.enable then pacedCeiling (floored o) else floored o

theorem enable_loadedCeiling (o : Obj) : (loadedCeiling o).enable = o.enable := by
  unfold loadedCeiling
  split
  · exact (pacedCeiling_floor _).2.2
  · rfl

theorem object_loadCeilings (s : State) (i : Nat) (l : i < 256) :
    (forEach 256 loadCeiling s).object i = loadedCeiling (s.object i) := by
  refine (forEach_entry (fun u => u.object i) i loadCeiling loadedCeiling (fun a u => ?_) 256 s).trans (if_pos l)
  refine (object_loadCeiling a i u).trans ?_
  by_cases e : a = i
  · subst e
    simp only [l, and_self, if_true]
    rfl
  · simp only [e, false_and, if_false]

/-- While no flag stands, a ceiling computed at the load can only raise. -/
theorem loadCeiling_eq (i : Nat) (s : State) (l : i < 256) (flags : unflagged (s.object i)) : loadCeiling i s =
    let p := loadedCeiling (s.object i)
    let u := s.modObject i fun _ => p
    if (s.object i).enable then
      follow .paceShort i (s.object i).zone false p.paceShort
        (follow .doseExhausted i (s.object i).zone false p.exhausted u)
    else u := by
  have run : loadCeiling i s =
      if ((s.modObject i floored).object i).enable then computeCeiling i (s.modObject i floored)
      else s.modObject i floored := rfl
  have own : (s.modObject i floored).object i = floored (s.object i) := object_modObject_self _ _ _ l
  have enable : (floored (s.object i)).enable = (s.object i).enable := rfl
  rw [run, own, enable]
  dsimp only
  unfold loadedCeiling
  by_cases on : (s.object i).enable = true
  · obtain ⟨exhausted, pace⟩ : unflagged (floored (s.object i)) := flags
    rw [if_pos on, if_pos on, if_pos on, computeCeiling]
    have paced : ((s.modObject i floored).modObject i pacedCeiling).object i =
        pacedCeiling (floored (s.object i)) := by
      rw [object_modObject_self _ _ _ l, own]
    rw [paced, own, exhausted, pace, modObject_twice, modObject_at s i fun o => pacedCeiling (floored o)]
    rfl
  · rw [if_neg on, if_neg on, if_neg on, modObject_at]

theorem follow_rising (k : ConditionKind) (a d : Nat) (b : Bool) (s : State) :
    follow k a d false b s = if b then raise k a d s else s := by
  cases b with
  | false => rfl
  | true => rfl

section rising

variable (k : ConditionKind) (a d : Nat) (b : Bool) (s : State) (l : s.loading = true)

include l

theorem noted_rising (other : k ≠ .clockUnset) : Noted s (follow k a d false b s) := by
  rw [follow_rising]
  split
  · exact noted_raise k a d s l other
  · exact .refl s

theorem stands_rising (on : b = true) : Stands k a (follow k a d false b s) := by
  rw [follow_rising, if_pos on]
  exact stands_raise k a d s l

end rising

/-- The state but for the Condition Table with its latches and the objects. -/
def exceptCeilings (s : State) : State :=
  { s with conditions := [], latches := ⟨false, false, false⟩, objects := Vector.replicate 256 factoryObject }

theorem exceptCeilings_rising (k : ConditionKind) (a d : Nat) (b : Bool) (s : State) (l : s.loading = true) :
    exceptCeilings (follow k a d false b s) = exceptCeilings s := by
  have latch : ∀ u, exceptCeilings (latchRaise k u) = exceptCeilings u := fun u => by
    unfold latchRaise
    split
    · rfl
    · rfl
  rw [follow_rising, raise_loading k a d s l, recorded]
  split
  · split
    · exact latch _
    · exact latch _
  · rfl

/-- DOSE_EXHAUSTED and PACE_SHORT of an enabled object stand where its flags are set. -/
def FlagsStand (i : Nat) (s : State) : Prop :=
  (s.object i).enable = true → ((s.object i).exhausted = true → Stands .doseExhausted i s) ∧
    ((s.object i).paceShort = true → Stands .paceShort i s)

/-- The ceilings below `k` have been computed, from `w` to `u`. -/
structure Ceilings (w : State) (k : Nat) (u : State) : Prop where
  loading : u.loading = true
  frame : exceptCeilings u = exceptCeilings w
  noted : Noted w u
  later : ∀ j, k ≤ j → unflagged (u.object j)
  stand : ∀ j < k, FlagsStand j u

/-- One turn: its frame, and the conditions of its own flags. -/
theorem loadCeiling_notes (i : Nat) (s : State) (l : i < 256) (loading : s.loading = true)
    (flags : unflagged (s.object i)) :
    exceptCeilings (loadCeiling i s) = exceptCeilings s ∧ Noted s (loadCeiling i s) ∧
      FlagsStand i (loadCeiling i s) := by
  have object : (loadCeiling i s).object i = loadedCeiling (s.object i) :=
    (object_loadCeiling i i s).trans (if_pos ⟨rfl, l⟩)
  have run := loadCeiling_eq i s l flags
  dsimp only at run
  have noted := (plain_modObject i fun _ => loadedCeiling (s.object i)).noted s
  rw [FlagsStand, object, enable_loadedCeiling]
  generalize loadedCeiling (s.object i) = p at run noted ⊢
  by_cases on : (s.object i).enable = true
  · rw [if_pos on] at run
    generalize (s.object i).zone = z at run
    have loading₁ : (s.modObject i fun _ => p).loading = true := loading
    have loading₂ := (loading_follow .doseExhausted i z false p.exhausted (s.modObject i fun _ => p)).trans loading₁
    have exhausted := noted_rising .doseExhausted i z p.exhausted _ loading₁ (by decide)
    have pace := noted_rising .paceShort i z p.paceShort _ loading₂ (by decide)
    rw [run]
    refine ⟨?_, (noted.trans exhausted).trans pace, fun _ => ⟨fun set => ?_, fun set => ?_⟩⟩
    · rw [exceptCeilings_rising _ _ _ _ _ loading₂, exceptCeilings_rising _ _ _ _ _ loading₁]
      rfl
    · exact pace.stands _ _ (stands_rising .doseExhausted i z p.exhausted _ loading₁ set)
    · exact stands_rising .paceShort i z p.paceShort _ loading₂ set
  · rw [if_neg on] at run
    rw [run]
    exact ⟨rfl, noted, fun yes => absurd yes on⟩

theorem Ceilings.turn {w u : State} {k : Nat} (l : k < 256) (h : Ceilings w k u) :
    Ceilings w (k + 1) (loadCeiling k u) := by
  obtain ⟨frame, noted, stand⟩ := loadCeiling_notes k u l h.loading (h.later k (Nat.le_refl k))
  have other : ∀ j, k ≠ j → (loadCeiling k u).object j = u.object j := fun j n =>
    (object_loadCeiling k j u).trans (if_neg fun c => n c.1)
  refine ⟨(congrArg State.loading frame :).trans h.loading, frame.trans h.frame, h.noted.trans noted, fun j le => ?_,
    Nat.forall_lt_succ_right.2 ⟨fun j lt => ?_, stand⟩⟩
  · rw [other j (by omega)]
    exact h.later j (by omega)
  · rw [FlagsStand, other j (by omega)]
    intro on
    obtain ⟨exhausted, pace⟩ := h.stand j lt on
    exact ⟨fun set => noted.stands _ _ (exhausted set), fun set => noted.stands _ _ (pace set)⟩

theorem loadCeilings_computed (s : State) (l : s.loading = true) (flags : ∀ j, unflagged (s.object j)) :
    Ceilings s 256 (forEach 256 loadCeiling s) :=
  forEach_invariant loadCeiling (Ceilings s) s 256
    ⟨l, rfl, .refl s, fun j _ => flags j, fun j lt => absurd lt (Nat.not_lt_zero j)⟩ fun _ l _ h => h.turn l

/-! ### The setpoints (R128) -/

theorem zone_clampSetpoints (s : State) (i : Nat) (l : i < 24) : (clampSetpoints s).zone i =
    { s.zone i with rh := clampSetpoint (s.zone i).rh, temp := clampSetpoint (s.zone i).temp } := by
  simp [State.zone, clampSetpoints, l]

end Sys2Proof.Machine
end

section
/-! PROOF. RESET with a good header: the load as a whole (O5). -/

namespace Sys2Proof.Machine

/-! ### The load computations as a whole (R77, R128, R175) -/

/-- What the straps and the load computations make of the loaded sections. -/
structure Computed (v t : State) : Prop where
  device : t.device = strapped v.pins v.device
  counters : t.counters = v.counters
  points : t.points = v.points
  groups : t.groups = v.groups
  line : t.line = v.line
  pins : t.pins = v.pins
  store : t.store = v.store
  loading : t.loading = true
  clash : ∀ i < 64, clashes (withStraps v) i → t.node i = { v.node i with enable := false, state := .absent }
  node : ∀ i < 64, ¬clashes (withStraps v) i → t.node i = v.node i
  object : ∀ i < 256, t.object i = loadedCeiling (v.object i)
  zone : ∀ i < 24, t.zone i = { v.zone i with rh := clampSetpoint (v.zone i).rh, temp := clampSetpoint (v.zone i).temp }
  noted : Noted v t
  faulty : ∀ n, n ∈ t.faulty ↔ n ∈ v.faulty ∨ n = 2 ∧ ∃ i < 64, clashes (withStraps v) i
  raised : t.imageFaultRaised = true ↔ v.imageFaultRaised = true ∨ ∃ i < 64, clashes (withStraps v) i
  flags : ∀ i < 256, FlagsStand i t

theorem fields_exceptNodes {s t : State} (h : exceptNodes t = exceptNodes s) : t.device = s.device ∧
    t.counters = s.counters ∧ t.points = s.points ∧ t.objects = s.objects ∧ t.groups = s.groups ∧ t.zones = s.zones ∧
    t.line = s.line ∧ t.pins = s.pins ∧ t.store = s.store :=
  ⟨(congrArg State.device h :), (congrArg State.counters h :), (congrArg State.points h :),
    (congrArg State.objects h :), (congrArg State.groups h :), (congrArg State.zones h :), (congrArg State.line h :),
    (congrArg State.pins h :), (congrArg State.store h :)⟩

theorem fields_exceptCeilings {s t : State} (h : exceptCeilings t = exceptCeilings s) : t.device = s.device ∧
    t.counters = s.counters ∧ t.points = s.points ∧ t.nodes = s.nodes ∧ t.groups = s.groups ∧ t.zones = s.zones ∧
    t.line = s.line ∧ t.pins = s.pins ∧ t.store = s.store ∧ t.faulty = s.faulty ∧
    t.imageFaultRaised = s.imageFaultRaised :=
  ⟨(congrArg State.device h :), (congrArg State.counters h :), (congrArg State.points h :),
    (congrArg State.nodes h :), (congrArg State.groups h :), (congrArg State.zones h :), (congrArg State.line h :),
    (congrArg State.pins h :), (congrArg State.store h :), (congrArg State.faulty h :),
    (congrArg State.imageFaultRaised h :)⟩

theorem loadComputations_computed (v : State) (l : v.loading = true) (flags : ∀ i, unflagged (v.object i)) :
    Computed v (loadComputations v) := by
  have nodes := fun i => (node_disableClashes 64 i (withStraps v)).2
  rw [← settleAddresses_eq] at nodes
  have disabled := settleAddresses_disabled v l
  rw [loadComputations]
  generalize settleAddresses v = u at nodes disabled ⊢
  obtain ⟨device, counters, points, objects, groups, zones, line, pins, store⟩ := fields_exceptNodes disabled.frame
  have ceilings := loadCeilings_computed u disabled.loading fun i => by
    rw [object_congr objects i]
    exact flags i
  have object := object_loadCeilings u
  generalize forEach 256 loadCeiling u = c at ceilings object ⊢
  obtain ⟨device', counters', points', nodes', groups', zones', line', pins', store', faulty', raised'⟩ :=
    fields_exceptCeilings ceilings.frame
  have node : ∀ i, (clampSetpoints c).node i = u.node i := fun i => node_congr nodes' i
  have strapped : Noted v (withStraps v) := noted_of rfl rfl rfl
  have clamped : Noted c (clampSetpoints c) := noted_of rfl rfl rfl
  refine ⟨device'.trans device, counters'.trans counters, points'.trans points, groups'.trans groups,
    line'.trans line, pins'.trans pins, store'.trans store, ceilings.loading, fun i k clash => ?_, fun i k free => ?_,
    fun i k => (object i k).trans (congrArg loadedCeiling (object_congr objects i)), fun i k => ?_,
    ((strapped.trans disabled.noted).trans ceilings.noted).trans clamped, fun n => ?_, ?_, ceilings.stand⟩
  · rw [node, nodes]
    exact if_pos ⟨k, clash⟩
  · rw [node, nodes]
    exact if_neg fun c => free c.2
  · rw [zone_clampSetpoints c i k, zone_congr zones' i, zone_congr zones i]
    rfl
  · rw [show (clampSetpoints c).faulty = u.faulty from faulty', disabled.faulty]
    rfl
  · rw [show (clampSetpoints c).imageFaultRaised = u.imageFaultRaised from raised', disabled.raised]
    rfl

/-! ### The objects of an image (R77, R174) -/

/-- An object as the load leaves it before the computation of its ceiling. -/
def dosedObject (record : Option DoseRecord) (stamp : Date) (o : Obj) : Obj :=
  match record with
  | some d => { o with
      dose := d.dose, fraction := d.fraction, remaining := d.remaining, previousYear := d.previousYear,
      lastRoll := d.lastRoll, unknown := false, ceiling := o.cfloor }
  | none => { o with
      dose := o.budget, fraction := 0, remaining := o.planned, previousYear := 0,
      lastRoll := if stamp.year = 0 then 0 else if o.startDay ≤ stamp.day then stamp.year else stamp.year - 1,
      unknown := o.enable, ceiling := o.cfloor }

theorem floored_withDose (m : List Host.Cell) (i : Nat) (o : Obj) (known : o.unknown = false) :
    floored (withDose m i o) = dosedObject (doseRecord m i) (loadedStamp m) o := by
  rw [withDose]
  cases doseRecord m i with
  | some d =>
    rw [dosedObject, ← known]
    rfl
  | none => rfl

theorem loadedCeiling_withDose (m : List Host.Cell) (i : Nat) (o : Obj) (known : o.unknown = false) :
    loadedCeiling (withDose m i o) =
      if o.enable then pacedCeiling (dosedObject (doseRecord m i) (loadedStamp m) o)
      else dosedObject (doseRecord m i) (loadedStamp m) o := by
  rw [loadedCeiling, floored_withDose m i o known, enable_withDose]

/-! ### The load of an image -/

theorem clashes_withStraps (v : State) (i : Nat) : clashes (withStraps v) i ↔
    (v.node i).enable = true ∧ (v.node i).address = (strapped v.pins v.device).ownAddress := Iff.rfl

section image

variable (m : List Host.Cell) (s : State) (h : Fresh m s) (b : Unloaded s)

include h b

theorem loadSections_computed : Computed (loadSections s) (loadComputations (loadSections s)) := by
  refine loadComputations_computed _ (loadSections_begins m s h).loading.1 fun i => ?_
  by_cases l : i < 256
  · rw [object_loadSections m s h b i l]
    exact unflagged_withDose m i _ (storedObject_flags m i).1
  · rw [object_beyond _ i (Nat.not_lt.1 l)]
    exact ⟨rfl, rfl⟩

/-- R77, R88, R94: an object of the image, and its conditions. -/
theorem object_loaded (i : Nat) (l : i < 256) :
    let t := loadComputations (loadSections s)
    let o := storedObject m i
    t.object i = (if o.enable then pacedCeiling (dosedObject (doseRecord m i) (loadedStamp m) o)
      else dosedObject (doseRecord m i) (loadedStamp m) o) ∧
    (doseRecord m i = none → o.enable = true → Stands .doseUnknown i t) ∧
    (o.enable = true → (t.object i).exhausted = true → Stands .doseExhausted i t) ∧
    (o.enable = true → (t.object i).paceShort = true → Stands .paceShort i t) := by
  intro t o
  have computed := loadSections_computed m s h b
  have object := (computed.object i l).trans (congrArg loadedCeiling (object_loadSections m s h b i l))
  have enable : (t.object i).enable = o.enable := by
    rw [object, enable_loadedCeiling, enable_withDose]
  refine ⟨object.trans (loadedCeiling_withDose m i o (storedObject_flags m i).2), fun failed on => ?_, fun on => ?_,
    fun on => ?_⟩
  · refine computed.noted.stands _ _ (loadSections_unknown m s h i l failed ?_)
    rw [object_loadTables m s h b i l]
    exact on
  · exact (computed.flags i l (enable.trans on)).1
  · exact (computed.flags i l (enable.trans on)).2

theorem clashes_loaded (i : Nat) (l : i < 64) : clashes (withStraps (loadSections s)) i ↔
    ((nodeRecord m i).getD factoryNode).enable = true ∧
      ((nodeRecord m i).getD factoryNode).address = (loadComputations (loadSections s)).device.ownAddress := by
  rw [(loadSections_computed m s h b).device, ← node_loadSections m s h b i l]
  exact clashes_withStraps _ i

end image

theorem recordPasses_header (answers : Bool) (m : List Host.Cell) (h : judgeHeader answers m = .passed) :
    recordPasses m .header = true := beq_iff_eq.2 ((judgeHeader_passes_iff answers m).1 h).2

theorem fresh_cleared (pins : Pins) (s : State) : Fresh s.store (cleared pins s) := ⟨⟨rfl, rfl⟩, rfl, rfl, rfl, rfl⟩

theorem unloaded_cleared (pins : Pins) (s : State) : Unloaded (cleared pins s) := ⟨rfl, rfl, rfl, rfl, rfl, rfl, rfl⟩

theorem exec_reset_passed (pins : Pins) (s : State) (h : judgeHeader pins.storeAnswers (tearPage s).store = .passed) :
    exec (.reset pins) s = .next (loadComputations (loadSections (cleared pins (tearPage s)))) := by
  show Host.Outcome.next (loadComputations (readImage (cleared pins (tearPage s)))) = _
  rw [readImage_cleared, h]

/-- Settles O5: the entries by the records that the sections place, the conditions by what every piece of the load
notes and leaves standing. -/
theorem resetLoadsRecords : Obligations.ResetLoadsRecords := by
  intro pins s passed m settings device stamp node
  have fresh : Fresh m (cleared pins (tearPage s)) := fresh_cleared pins (tearPage s)
  have blank := unloaded_cleared pins (tearPage s)
  have header : recordPasses m .header = true := recordPasses_header _ _ passed
  refine ⟨_, exec_reset_passed pins s passed, ?_⟩
  have line : (cleared pins (tearPage s)).line = .off ∧ (cleared pins (tearPage s)).pins = pins := ⟨rfl, rfl⟩
  generalize cleared pins (tearPage s) = w at fresh blank line ⊢
  have computed := loadSections_computed m w fresh blank
  obtain ⟨loading, -, clock, fault⟩ := loadSections_begins m w fresh
  obtain ⟨faulty, raised⟩ := loadSections_faulty m w fresh header
  obtain ⟨device', counters⟩ := settings_loadSections m w fresh blank
  obtain ⟨line', pins'⟩ := line_loadSections m w fresh
  have clashes_iff := clashes_loaded m w fresh blank
  have point := point_loadSections m w fresh blank
  have group := group_loadSections m w fresh blank
  have zone := zone_loadSections m w fresh blank
  have stored := node_loadSections m w fresh blank
  have object := object_loaded m w fresh blank
  generalize loadComputations (loadSections w) = t at computed clashes_iff object ⊢
  generalize loadSections w = v at *
  have store : t.store = m := computed.store.trans loading.2
  refine ⟨store, computed.loading, computed.line.trans (line'.trans line.1), computed.pins.trans (pins'.trans line.2),
    ?_, fun i => ?_, fun i l => ?_, fun i l => ?_, ?_, computed.noted.clock clock, object, fun i l => ?_⟩
  · rw [computed.device, pins', line.2, device']
    rfl
  · refine Eq.trans ?_ (counters i.val i.isLt)
    simp only [Fin.getElem_fin, computed.counters]
  · rw [store, point_congr computed.points i, point i l]
    rfl
  · rw [store, group_congr computed.groups i, group i l]
    rfl
  · intro clash
    have clash_iff : (∃ i < 64, clashes (withStraps v) i) ↔ ∃ i < 64, clash i :=
      exists_congr fun i => and_congr_right fun l => clashes_iff i l
    refine ⟨fun i l => ⟨fun c => ?_, fun c => ?_⟩, fun n => ?_, ?_, computed.noted.fault fault⟩
    · rw [computed.clash i l ((clashes_iff i l).2 c), stored i l]
      rfl
    · rw [computed.node i l (mt (clashes_iff i l).1 c), stored i l]
      rfl
    · rw [computed.faulty, faulty, clash_iff]
    · rw [computed.raised, raised, clash_iff]
  · rw [computed.zone i l, zone i l]
    rfl

end Sys2Proof.Machine
end

section
/-! PROOF. The ceilings that every step keeps (O56), and the ceiling computation, case by case (O31). -/

namespace Sys2Proof.Machine

/-- Settles O56: every command, and the passing of time, keeps the ceilings in range. -/
theorem everyStepKeepsCeilingsInRange : Obligations.EveryStepKeepsCeilingsInRange := by
  unfold Obligations.EveryStepKeepsCeilingsInRange
  exact fun s t h run => (keeps_step s t run).ceilings h

/-! ### The three cases of R88 -/

theorem remainingBudget_eq (o : Obj) : remainingBudget o = if o.dose < o.budget then o.budget - o.dose else 0 := by
  unfold remainingBudget
  split
  · rfl
  · omega

/-- R88: no budget is left. -/
theorem pacedCeiling_exhausted (o : Obj) (h : remainingBudget o = 0) :
    pacedCeiling o = { o with ceiling := o.cfloor, exhausted := true, paceShort := false } := if_pos h

/-- R88: budget is left, and no open minute. -/
theorem pacedCeiling_unpaced (o : Obj) (h : remainingBudget o ≠ 0) (p : o.remaining = 0) :
    pacedCeiling o = { o with ceiling := o.cmax, exhausted := false, paceShort := false } :=
  (if_neg h).trans (if_pos p)

/-- R88: budget and open minutes are left. -/
theorem pacedCeiling_paced (o : Obj) (h : remainingBudget o ≠ 0) (p : o.remaining ≠ 0) : pacedCeiling o =
    { o with
      ceiling :=
        if o.cmax < pacedFigure o then o.cmax else if pacedFigure o < o.cfloor then o.cfloor else pacedFigure o
      exhausted := false
      paceShort := decide (pacedFigure o < o.cfloor) } := (if_neg h).trans (if_neg p)

/-- R88: the ceiling, of an object enabled or not, lies between Cfloor and Cmax. -/
theorem pacedCeiling_between (o : Obj) (h : o.cfloor ≤ o.cmax) :
    o.cfloor ≤ (pacedCeiling o).ceiling ∧ (pacedCeiling o).ceiling ≤ o.cmax := by
  by_cases budget : remainingBudget o = 0
  · rw [pacedCeiling_exhausted o budget]
    exact ⟨Nat.le_refl _, h⟩
  · by_cases minutes : o.remaining = 0
    · rw [pacedCeiling_unpaced o budget minutes]
      exact ⟨h, Nat.le_refl _⟩
    · rw [pacedCeiling_paced o budget minutes]
      dsimp only
      split
      · exact ⟨h, Nat.le_refl _⟩
      · split
        · exact ⟨Nat.le_refl _, h⟩
        · omega

/-- Settles O31: the three cases of R88, the limits, and the fields that the computation writes. -/
theorem ceilingIsFirstCase : Obligations.CeilingIsFirstCase := by
  unfold Obligations.CeilingIsFirstCase
  intro o left paced c
  have budget : remainingBudget o = left := remainingBudget_eq o
  have figure : pacedFigure o = paced := by rw [pacedFigure, budget]
  refine ⟨fun none => ?_, fun some zero => ?_, fun some minutes => ?_, pacedCeiling_between o, ?_⟩
  · have run : c = _ := pacedCeiling_exhausted o (budget.trans none)
    rw [run]
    exact ⟨rfl, rfl, rfl⟩
  · have run : c = _ := pacedCeiling_unpaced o (budget ▸ some) zero
    rw [run]
    exact ⟨rfl, rfl, rfl⟩
  · have run : c = _ := pacedCeiling_paced o (budget ▸ some) minutes
    rw [run, figure]
    exact ⟨rfl, rfl, rfl⟩
  · obtain ⟨_, _, _, run⟩ := pacedCeiling_frame o
    have computed : c = _ := run
    rw [computed]

end Sys2Proof.Machine
end

section
/-! PROOF. The minute of an object, and the ceiling computation with its conditions and its request (O27). -/

namespace Sys2Proof.Machine

/-! ### The ceiling computation (R89, R90) -/

/-- The conditions that follow the two flags of a ceiling computation, reported on the state in which `c` is stored. -/
def ceilingComputed (i : Nat) (o c : Obj) (s : State) : State :=
  follow .paceShort i o.zone o.paceShort c.paceShort
    (follow .doseExhausted i o.zone o.exhausted c.exhausted (s.modObject i fun _ => c))

section ceiling

variable (i : Nat) (s : State)

theorem computeCeiling_eq (l : i < 256) :
    computeCeiling i s = ceilingComputed i (s.object i) (pacedCeiling (s.object i)) s := by
  rw [computeCeiling, object_modObject_self _ _ _ l, modObject_at]
  rfl

theorem ceilingCore_disabled (off : (s.object i).enable = false) : ceilingCore i s = s :=
  if_neg (Bool.eq_false_iff.1 off)

/-- The object after the computation, where it is enabled. -/
theorem object_computeCeiling_self (l : i < 256) : (computeCeiling i s).object i = pacedCeiling (s.object i) := by
  rw [computeCeiling_eq i s l, ceilingComputed, object_follow, object_follow, object_modObject_self _ _ _ l]

theorem ceilingCore_enabled (l : i < 256) (on : (s.object i).enable = true) : ceilingCore i s =
    if (pacedCeiling (s.object i)).ceiling = (s.object i).ceiling then
      ceilingComputed i (s.object i) (pacedCeiling (s.object i)) s
    else requestCore (s.object i).zone (ceilingComputed i (s.object i) (pacedCeiling (s.object i)) s) := by
  have run : ceilingCore i s = if ((computeCeiling i s).object i).ceiling = (s.object i).ceiling then
      computeCeiling i s else requestCore (s.object i).zone (computeCeiling i s) := if_pos on
  rw [run, object_computeCeiling_self i s l, computeCeiling_eq i s l]

theorem ceilingEvent_disabled (off : (s.object i).enable = false) : ceilingEvent i s = s := by
  unfold ceilingEvent
  rw [ceilingCore_disabled i s off]
  exact if_pos rfl

/-- The grant follows where the ceiling has changed. -/
theorem ceilingEvent_enabled (on : (s.object i).enable = true) : ceilingEvent i s =
    if (pacedCeiling (s.object i)).ceiling = (s.object i).ceiling then ceilingCore i s
    else grantJoined (ceilingCore i s) := by
  have object : (ceilingCore i s).object i = pacedCeiling (s.object i) :=
    (object_ceilingCore i i s).trans (if_pos ⟨rfl, on⟩)
  rw [← object]
  exact if_congr eq_comm rfl rfl

end ceiling

/-! ### What the minute adds (R81 to R87) -/

/-- R86: the open minute, in the statement's words. -/
theorem openMinute_iff (t : Tick) (z : Zone) : openMinute t z = true ↔ z.enable = true ∧
    (z.modeSource = .auto ∧ t.isSet = true ∧
      (z.openFrom < z.openTo ∧ z.openFrom ≤ t.minute ∧ t.minute < z.openTo ∨
        z.openTo < z.openFrom ∧ (z.openFrom ≤ t.minute ∨ t.minute < z.openTo)) ∨
      z.modeSource = .forced ∧ z.forcedMode = .opened) := by
  rw [openMinute, Bool.and_eq_true]
  refine and_congr_right fun _ => ?_
  cases z.modeSource with
  | auto => simp only [Bool.and_eq_true, inOpenHours_iff, true_and, reduceCtorEq, false_and, or_false]
  | forced => simp only [beq_iff_eq, reduceCtorEq, false_and, true_and, false_or]

/-- R80, steps 2 to 6: the record, field by field. -/
theorem accrued_eq (isOpen : Bool) (e w : Nat) (degraded : Bool) (o : Obj) : accrued isOpen e w degraded o =
    { o with
      dose := min 4294967295 (o.dose + (o.fraction + e * w / 1000) / 60)
      fraction := (o.fraction + e * w / 1000) % 60
      thisHour := min 4294967295 (o.thisHour + e * w / 1000)
      today := min 4294967295 (o.today + e * w / 1000)
      peak := max o.peak (e * w / 1000)
      weight := w
      remaining := if isOpen then o.remaining - 1 else o.remaining
      overMinutes := if o.ceiling < e then min 65535 (o.overMinutes + 1) else o.overMinutes
      degraded := degraded } := by
  have counted : ∀ x : Obj, countOver e x =
      { x with overMinutes := if x.ceiling < e then min 65535 (x.overMinutes + 1) else x.overMinutes } := by
    intro x
    unfold countOver
    split <;> rfl
  rw [accrued, counted]
  cases isOpen <;> rfl

/-- R87: the record with the over-ceiling marker set where the minute must raise OVER_CEILING. -/
def overMarked (e : Nat) (o : Obj) : Obj := { o with overMarker := overDue e o || o.overMarker }

theorem overDue_iff (e : Nat) (o : Obj) : overDue e o = true ↔
    o.ceiling < e ∧ o.overThreshold ≠ 0 ∧ o.overThreshold ≤ o.overMinutes ∧ o.overMarker = false := by
  simp only [overDue, Bool.and_eq_true, decide_eq_true_iff, Bool.not_eq_true', and_assoc]

theorem object_judgeOver (i e j : Nat) (s : State) (l : j < 256) :
    (judgeOver i e s).object j = if i = j then overMarked e (s.object j) else s.object j := by
  have record : ∀ b, overDue e (s.object j) = b →
      overMarked e (s.object j) = { s.object j with overMarker := b || (s.object j).overMarker } := by
    rintro _ rfl
    rfl
  unfold judgeOver
  by_cases own : i = j
  · subst own
    rw [if_pos rfl]
    split
    · next due => rw [object_raise, object_modObject_self _ _ _ l, record _ due, Bool.true_or]
    · next idle => rw [record _ (Bool.eq_false_iff.2 idle), Bool.false_or]
  · rw [if_neg own]
    split
    · rw [object_raise, object_modObject_other _ _ _ _ own]
    · rfl

/-- R80, steps 2 to 6: what the minute adds to the record of an enabled object. -/
def minuteAccrued (t : Tick) (s : State) (o : Obj) : Obj :=
  accrued (openMinute t (s.zone o.zone)) (illuminance s o) (weightOf s o) (!sourcesFresh s o) o

theorem minuteAccrued_enable (t : Tick) (s : State) (o : Obj) : (minuteAccrued t s o).enable = o.enable := by
  rw [minuteAccrued, accrued_eq]

/-- R80: what the minute makes of the record of an enabled object. -/
def minuteRecord (t : Tick) (s : State) (o : Obj) : Obj :=
  pacedCeiling (overMarked (illuminance s o) (minuteAccrued t s o))

/-- The record depends on the points, and on the zones but for their waiting evaluations. -/
theorem minuteRecord_congr {s u : State} (points : ∀ i, u.point i = s.point i)
    (zones : ∀ z, zoneSettings (u.zone z) = zoneSettings (s.zone z)) (t : Tick) (o : Obj) :
    minuteRecord t u o = minuteRecord t s o := by
  have opens : openMinute t (u.zone o.zone) = openMinute t (s.zone o.zone) :=
    (congrArg (openMinute t) (zones o.zone) :)
  have light : illuminance u o = illuminance s o := by simp only [illuminance, points]
  have weight : weightOf u o = weightOf s o := by simp only [weightOf, points]
  have fresh : sourcesFresh u o = sourcesFresh s o := by simp only [sourcesFresh, points]
  rw [minuteRecord, minuteAccrued, opens, light, weight, fresh]
  rfl

/-- The minute of an object, before its ceiling is computed. -/
def accruedMinute (t : Tick) (i : Nat) (s : State) : State :=
  judgeOver i (illuminance s (s.object i))
    (follow .sourceDegraded i (s.object i).zone (s.object i).degraded (!sourcesFresh s (s.object i))
      (s.modObject i fun _ => minuteAccrued t s (s.object i)))

theorem accrueObject_enabled (t : Tick) (i : Nat) (s : State) (on : (s.object i).enable = true) :
    accrueObject t i s = ceilingEvent i (accruedMinute t i s) := by
  unfold accrueObject
  dsimp only
  rw [if_pos on, modObject_at]
  rfl

theorem accrueObject_disabled (t : Tick) (i : Nat) (s : State) (off : (s.object i).enable = false) :
    accrueObject t i s = s := if_neg (Bool.eq_false_iff.1 off)

/-- The minute of one object changes what changes of objects, reports, evaluations and grants change. -/
theorem exceptObjects_accrueObject (t : Tick) (i : Nat) (s : State) :
    exceptObjects (accrueObject t i s) = exceptObjects s := by
  by_cases on : (s.object i).enable = true
  · rw [accrueObject_enabled t i s on, exceptObjects_ceilingEvent]
    have followed : exceptObjects (follow .sourceDegraded i (s.object i).zone (s.object i).degraded
        (!sourcesFresh s (s.object i)) (s.modObject i fun _ => minuteAccrued t s (s.object i))) = exceptObjects s :=
      (reported_follow ..).lit.exceptObjects
    refine Eq.trans ?_ followed
    unfold accruedMinute judgeOver
    split
    · exact (reported_raise _ _ _ _).lit.exceptObjects
    · rfl
  · rw [accrueObject_disabled t i s (Bool.eq_false_iff.2 on)]

theorem object_accruedMinute (t : Tick) (i j : Nat) (s : State) (l : j < 256) : (accruedMinute t i s).object j =
    if i = j then overMarked (illuminance s (s.object j)) (minuteAccrued t s (s.object j)) else s.object j := by
  rw [accruedMinute, object_judgeOver _ _ _ _ l, object_follow]
  by_cases own : i = j
  · subst own
    rw [if_pos rfl, if_pos rfl, object_modObject_self _ _ _ l]
  · rw [if_neg own, if_neg own, object_modObject_other _ _ _ _ own]

theorem object_accrueObject (t : Tick) (i j : Nat) (s : State) (l : j < 256) : (accrueObject t i s).object j =
    if i = j ∧ (s.object j).enable = true then minuteRecord t s (s.object j) else s.object j := by
  by_cases on : (s.object i).enable = true
  · rw [accrueObject_enabled t i s on, object_ceilingEvent, object_accruedMinute t i j s l]
    by_cases own : i = j
    · subst own
      have enabled : ((accruedMinute t i s).object i).enable = true := by
        rw [object_accruedMinute t i i s l, if_pos rfl]
        exact (minuteAccrued_enable t s (s.object i)).trans on
      rw [if_pos ⟨rfl, enabled⟩, if_pos rfl, if_pos ⟨rfl, on⟩]
      rfl
    · rw [if_neg fun c => own c.1, if_neg own, if_neg fun c => own c.1]
  · rw [accrueObject_disabled t i s (Bool.eq_false_iff.2 on), if_neg]
    rintro ⟨rfl, c⟩
    exact on c

/-- R80: the accrual leaves of every enabled object the record of its minute; no object's turn changes what another's
reads. -/
theorem accrue_objects (t : Tick) (s : State) (j : Nat) (l : j < 256) (on : (s.object j).enable = true) :
    exceptObjects (accrue t s) = exceptObjects s ∧ (accrue t s).object j = minuteRecord t s (s.object j) := by
  have turns : exceptObjects (accrue t s) = exceptObjects s ∧
      (accrue t s).object j = if j < 256 then minuteRecord t s (s.object j) else s.object j := by
    refine forEach_invariant (accrueObject t) (fun k u => exceptObjects u = exceptObjects s ∧
      u.object j = if j < k then minuteRecord t s (s.object j) else s.object j) s 256 ⟨rfl, rfl⟩ ?_
    rintro i - u ⟨frame, object⟩
    refine ⟨(exceptObjects_accrueObject t i u).trans frame, ?_⟩
    obtain ⟨-, -, -, points, -, -⟩ := fields_exceptObjects frame
    rw [object_accrueObject t i j u l, object,
      minuteRecord_congr (point_congr points) (zone_exceptObjects frame)]
    by_cases own : i = j
    · subst own
      simp only [Nat.lt_irrefl, if_false, Nat.lt_succ_self, if_true, on, and_self]
    · have order : j < i + 1 ↔ j < i := by omega
      simp only [own, false_and, if_false, order]
  obtain ⟨frame, object⟩ := turns
  exact ⟨frame, object.trans (if_pos l)⟩

/-! ### The tick as a whole -/

/-- The Calendar's advance leaves the tables. -/
theorem tables_advanceCalendar (s : State) : let t := advanceCalendar s
    t.nodes = s.nodes ∧ t.points = s.points ∧ t.objects = s.objects ∧ t.zones = s.zones := by
  intro t
  by_cases on : s.calendar.isSet = true
  · by_cases m : s.calendar.minute + 1 < 1440
    · have run : t = _ := advanceCalendar_minute s on m
      rw [run]
      exact ⟨rfl, rfl, rfl, rfl⟩
    · by_cases y : 2199 < (nextDate ⟨s.calendar.year, s.calendar.day⟩).year
      · have run : t = _ := advanceCalendar_overflow s on (Nat.not_lt.1 m) y
        rw [run, nodes_raise, points_raise, objects_raise, zones_raise]
        exact ⟨rfl, rfl, rfl, rfl⟩
      · have run : t = _ := advanceCalendar_day s on (Nat.not_lt.1 m) _ rfl (Nat.not_lt.1 y)
        rw [run]
        exact ⟨rfl, rfl, rfl, rfl⟩
  · rw [Bool.not_eq_true] at on
    by_cases m : s.calendar.localMinute + 1 < 1440
    · have run : t = _ := advanceCalendar_localMinute s on m
      rw [run]
      exact ⟨rfl, rfl, rfl, rfl⟩
    · have run : t = _ := advanceCalendar_localDay s on (Nat.not_lt.1 m)
      rw [run]
      exact ⟨rfl, rfl, rfl, rfl⟩

theorem objects_bandCondition (q : ClimateQuantity) (z : Nat) (b : BandState) (s : State) :
    (bandCondition q z b s).objects = s.objects := by
  cases b with
  | pendingHigh | pendingLow => exact objects_raise ..
  | returningHigh | returningLow => exact objects_clear ..
  | inBand | high | low => rfl

theorem objects_stepBand (q : ClimateQuantity) (z : Nat) (s : State) : (stepBand q z s).objects = s.objects := by
  unfold stepBand
  dsimp only
  split
  · rfl
  · split
    · rw [objects_bandCondition, objects_clearIf, objects_modZone]
    · rw [objects_clearIf, objects_modZone]

/-- R129: the Climate Supervisor's minute leaves the objects. -/
theorem objects_climateMinute (s : State) : (climateMinute s).objects = s.objects := by
  refine forEach_invariant climateMinuteZone (fun _ u => u.objects = s.objects) s 24 rfl fun z _ u h => ?_
  refine Eq.trans ?_ h
  unfold climateMinuteZone
  split
  · rw [objects_stepBand, objects_stepBand, objects_modZone, judgeBlind, objects_follow]
    rfl
  · rfl

/-- R101: the judgement of the modes leaves the objects. -/
theorem objects_judgeModes (s : State) : (judgeModes s).objects = s.objects := by
  obtain ⟨frame, -⟩ := judgesMode_judgeMode.foldl (List.range 24) s
  obtain ⟨-, -, -, -, -, -, objects⟩ := fields_exceptModes frame
  exact objects

theorem object_readersMinute (t : Tick) (s : State) (i : Nat) (l : i < 256) (on : (s.object i).enable = true) :
    (readersMinute t s).object i = minuteRecord t s (s.object i) := by
  obtain ⟨-, object⟩ := accrue_objects t s i l on
  exact (object_congr ((objects_climateMinute _).trans (objects_judgeModes _)) i).trans object

/-- R55: the judgement of the points leaves the objects. -/
theorem object_judgePoints (s : State) (i : Nat) : (judgePoints s).object i = s.object i := rfl

/-- The state of a tick whose points the accrual reads: as judged, or as they stood. -/
def tickReads (monitorFirst : Bool) (s : State) : State := if monitorFirst then judgePoints s else s

/-- R80: what a tick leaves of an enabled object. -/
theorem object_minuteTick (m : Bool) (s : State) (i : Nat) (l : i < 256) (on : (s.object i).enable = true) :
    (minuteTick m s).object i = minuteRecord (tickOf s.calendar) (tickReads m s) (s.object i) := by
  obtain ⟨nodes, points, objects, zones⟩ := tables_advanceCalendar s
  have object : ∀ u : State, u.objects = (advanceCalendar s).objects → u.object i = s.object i := fun u h =>
    object_congr (h.trans objects) i
  have read := fun u : State => object_readersMinute (tickOf s.calendar) u i l
  cases m with
  | true =>
    have zone : ∀ z, zoneSettings ((judgePoints (advanceCalendar s)).zone z) = zoneSettings ((judgePoints s).zone z) :=
      fun z => congrArg zoneSettings (zone_congr zones z)
    have judged : (judgePoints (advanceCalendar s)).points = (judgePoints s).points := by
      simp only [judgePoints, points, node_congr nodes]
    have own := object (judgePoints (advanceCalendar s)) rfl
    have run : minuteTick true s = readersMinute (tickOf s.calendar) (judgePoints (advanceCalendar s)) := rfl
    rw [run, read (judgePoints (advanceCalendar s)) (own.symm ▸ on), own, tickReads, if_pos rfl]
    exact minuteRecord_congr (point_congr judged) zone _ _
  | false =>
    have own := object (advanceCalendar s) rfl
    have run : minuteTick false s = judgePoints (readersMinute (tickOf s.calendar) (advanceCalendar s)) := rfl
    rw [run, object_judgePoints, read (advanceCalendar s) (own.symm ▸ on), own]
    exact minuteRecord_congr (point_congr points) (fun z => congrArg zoneSettings (zone_congr zones z)) _ _

end Sys2Proof.Machine
end

section
/-! PROOF. MINUTE_TICK accrues the minute (O27): the tick, the minute of one object, and the ceiling computation. -/

namespace Sys2Proof.Machine

/-- R80 to R87: the record of the minute, field by field; its ceiling is that of its own computation. -/
theorem minuteRecord_fields (t : Tick) (s : State) (o : Obj) :
    let x := minuteRecord t s o
    let eff := illuminance s o * weightOf s o / 1000
    x.dose = min 4294967295 (o.dose + (o.fraction + eff) / 60) ∧ x.fraction = (o.fraction + eff) % 60 ∧
      x.thisHour = min 4294967295 (o.thisHour + eff) ∧ x.today = min 4294967295 (o.today + eff) ∧
      x.peak = max o.peak eff ∧ x.weight = weightOf s o ∧
      x.remaining = (if openMinute t (s.zone o.zone) then o.remaining - 1 else o.remaining) ∧
      x.overMinutes = (if o.ceiling < illuminance s o then min 65535 (o.overMinutes + 1) else o.overMinutes) ∧
      x.degraded = !sourcesFresh s o ∧ x.ceiling = (pacedCeiling x).ceiling := by
  intro x eff
  have idem : x.ceiling = (pacedCeiling x).ceiling :=
    (congrArg Obj.ceiling (pacedCeiling_idem (overMarked (illuminance s o) (minuteAccrued t s o)))).symm
  obtain ⟨c, f, p, computed⟩ := pacedCeiling_frame (overMarked (illuminance s o) (minuteAccrued t s o))
  have record : x = _ := computed
  rw [overMarked, minuteAccrued, accrued_eq] at record
  refine ⟨?_, ?_, ?_, ?_, ?_, ?_, ?_, ?_, ?_, idem⟩ <;> rw [record]

/-- R83: whether the sources are fresh, in the statement's words. -/
theorem sourcesFresh_iff (s : State) (o : Obj) : (!sourcesFresh s o) = false ↔
    countsFresh (s.point o.lightPoint) = true ∧ ∀ u, o.uvPoint = some u → countsFresh (s.point u) = true := by
  rw [Bool.not_eq_false', sourcesFresh, Bool.and_eq_true, Option.all_eq_true]

/-- R64: a minute of the tick of a Calendar is open by the Calendar's own minute. -/
theorem openMinute_tickOf_iff (c : Calendar) (z : Zone) : openMinute (tickOf c) z = true ↔ z.enable = true ∧
    (z.modeSource = .auto ∧ c.isSet = true ∧
      (z.openFrom < z.openTo ∧ z.openFrom ≤ c.minute ∧ c.minute < z.openTo ∨
        z.openTo < z.openFrom ∧ (z.openFrom ≤ c.minute ∨ c.minute < z.openTo)) ∨
      z.modeSource = .forced ∧ z.forcedMode = .opened) := by
  rw [openMinute_iff, tickOf_eq]
  cases c.isSet with
  | true => simp only [if_true]
  | false => simp only [Bool.false_eq_true, if_false, false_and, and_false]

/-- R80: the record that a MINUTE_TICK with no roll outstanding leaves of an enabled object. -/
theorem object_execMinuteTick (m : Bool) (s : State) (i : Nat) (l : i < 256) (on : (s.object i).enable = true) :
    (minuteTick m (taken (.minuteTick m) s)).object i =
      minuteRecord (tickOf s.calendar) (tickReads m s) (s.object i) := by
  have own : (taken (.minuteTick m) s).object i = s.object i := rfl
  rw [object_minuteTick m _ i l (own.symm ▸ on), own]
  cases m with
  | true => exact minuteRecord_congr (fun _ => rfl) (fun _ => rfl) _ _
  | false => exact minuteRecord_congr (fun _ => rfl) (fun _ => rfl) _ _

/-- Settles O27: the record of the minute, the minute of one object as it runs, and the ceiling computation. -/
theorem tickAccruesTheMinute : Obligations.TickAccruesTheMinute := by
  refine ⟨fun m s i rolls l on => ⟨_, execMinuteTick_of_noRolls m s rolls, ?_⟩, fun t i s l => ?_, fun i s l => ?_⟩
  · intro r o p fresh e w eff z now hours isOpen
    have zone : r.zone o.zone = z := by cases m <;> rfl
    have opens : openMinute (tickOf s.calendar) (r.zone o.zone) = true ↔ isOpen := by
      rw [zone]
      exact openMinute_tickOf_iff s.calendar z
    obtain ⟨dose, fraction, hour, today, peak, weight, remaining, minutes, degraded, ceiling⟩ :=
      minuteRecord_fields (tickOf s.calendar) r o
    rw [object_execMinuteTick m s i l on]
    refine ⟨dose, fraction, hour, today, peak, weight, fun h => remaining.trans (if_pos (opens.2 h)),
      fun h => remaining.trans (if_neg (mt opens.1 h)), minutes, ?_, ceiling⟩
    have flag : (minuteRecord (tickOf s.calendar) r o).degraded = _ := degraded
    rw [show tickReads m s = r from rfl, flag]
    exact sourcesFresh_iff r o
  · intro o z fresh light e w eff hours isOpen degraded x a due b
    refine ⟨accrueObject_disabled t i s, fun on => (accrueObject_enabled t i s on).trans (congrArg (ceilingEvent i) ?_)⟩
    have record : minuteAccrued t s o = x := by
      have minutes : (if openMinute t z = true then o.remaining - 1 else o.remaining) =
          if isOpen then o.remaining - 1 else o.remaining := if_congr (openMinute_iff t z) rfl rfl
      rw [minuteAccrued, accrued_eq, minutes]
      rfl
    have stored : follow .sourceDegraded i o.zone o.degraded (!sourcesFresh s o)
        (s.modObject i fun _ => minuteAccrued t s o) = a := by
      rw [record]
      rfl
    have own : a.object i = x := (object_follow ..).trans (object_modObject_self _ _ _ l)
    show judgeOver i e (follow .sourceDegraded i o.zone o.degraded (!sourcesFresh s o)
        (s.modObject i fun _ => minuteAccrued t s o)) = b
    rw [stored, judgeOver, own, modObject_at, own]
    exact if_congr (overDue_iff e x) rfl rfl
  · intro o c computed
    refine ⟨fun off => ⟨ceilingCore_disabled i s off, ceilingEvent_disabled i s off⟩, fun on same => ?_,
      fun on moved => ?_⟩
    · have core : ceilingCore i s = computed := (ceilingCore_enabled i s l on).trans (if_pos same)
      exact ⟨core, ((ceilingEvent_enabled i s on).trans (if_pos same)).trans core⟩
    · have core : ceilingCore i s = requestCore o.zone computed :=
        (ceilingCore_enabled i s l on).trans (if_neg moved)
      refine ⟨core, ((ceilingEvent_enabled i s on).trans (if_neg moved)).trans ?_⟩
      rw [core]
      rfl

end Sys2Proof.Machine
end

section
/-! PROOF. The writes of an object's ceiling terms, field by field (O47). -/

namespace Sys2Proof.Machine

/-! ### What the fields take (R78, R79) -/

/-- A write of a field of an object that the ceiling computation may follow. -/
theorem writeValue_term (i f : Nat) (v : Half) (s : State) (l : i < 256) (a : 11 ≤ f) (b : f ≤ 23) :
    let y := (putObject f v (s.object i)).1
    let w := s.modObject i fun _ => y
    writeValue .object ⟨i, f⟩ v s =
      (if ceilingFollows f (s.object i) y then ceilingCore i w else w,
        storedStatus (putObject f v (s.object i)).2) := by
  intro y w
  have inside : inTable .object ⟨i, f⟩ = true := (inTable_iff _ _).2 ⟨l, show f < 44 by omega⟩
  have code : codeAccepted .object ⟨i, f⟩ v = true := codeAccepted_number _ _ v (show ¬f = 0 by omega) rfl
  rw [writeValue_owned inside code (.inl (.inr ⟨a, b⟩))]
  simp only [writeOwned, writeObject, if_neg (show f ≠ 0 by omega), object_modObject_self _ _ _ l]
  rw [modObject_at]

theorem storedStatus_putNat_zero (hi v : Nat) :
    storedStatus (putNat 0 hi v).2 = if min hi v = v then .ok else .clamped := by
  rw [storedStatus_putNat, Nat.zero_max]

theorem putCfloor_eq (v : Half) (o : Obj) :
    putObject 14 v o = ({ o with cfloor := min o.cmax v.toNat }, (putNat 0 o.cmax v.toNat).2) :=
  congrArg (fun c => ({ o with cfloor := c }, (putNat 0 o.cmax v.toNat).2)) (Nat.zero_max _)

theorem putRemaining_eq (o : Obj) (n : Nat) :
    putRemaining o n = ({ o with remaining := min o.planned n }, (putNat 0 o.planned n).2) :=
  congrArg (fun p => ({ o with remaining := p }, (putNat 0 o.planned n).2)) (Nat.zero_max _)

/-- R79: the planned open minutes as stored, with P no greater. -/
def replanned (o : Obj) (n : Nat) : Obj :=
  { o with planned := min 527040 n, remaining := min o.remaining (min 527040 n) }

theorem putPlanned_eq (o : Obj) (n : Nat) : putPlanned o n = (replanned o n, (putNat 0 527040 n).2) :=
  congrArg (fun p => ({ o with planned := p, remaining := min o.remaining p }, (putNat 0 527040 n).2)) (Nat.zero_max _)

/-- The fields that are always followed by a ceiling computation. -/
theorem ceilingFollows_term (f : Nat) (o x : Obj) (h : 11 ≤ f ∧ f ≤ 14 ∨ f = 22 ∨ f = 23) :
    ceilingFollows f o x = true := by
  simp only [ceilingFollows, Bool.or_eq_true, Bool.and_eq_true, decide_eq_true_iff, beq_iff_eq]
  exact .inl (or_assoc.2 h)

/-- R79: a planned figure is followed where it lowers P. -/
theorem ceilingFollows_planned (f n : Nat) (o : Obj) (h : f = 19 ∨ f = 20) :
    ceilingFollows f o (replanned o n) = true ↔ min 527040 n < o.remaining := by
  have lowered : (o.remaining != (replanned o n).remaining) = true ↔ min 527040 n < o.remaining := by
    rw [bne_iff_ne]
    show o.remaining ≠ min o.remaining (min 527040 n) ↔ _
    omega
  rw [← lowered]
  rcases h with rfl | rfl
  · exact Iff.rfl
  · exact Iff.rfl

section takes

variable (i : Nat) (v : Half) (s : State)

/-- A value stored, with the ceiling computation after it. -/
def takesTerm (f : Nat) (x : Obj) (st : Status) : Prop :=
  writeValue .object ⟨i, f⟩ v s = (ceilingCore i (s.modObject i fun _ => x), st)

variable {i v s}

theorem takesTerm_of {f : Nat} {x : Obj} {c : Bool} {st : Status} (l : i < 256)
    (h : 11 ≤ f ∧ f ≤ 14 ∨ f = 22 ∨ f = 23) (put : putObject f v (s.object i) = (x, c)) (e : storedStatus c = st) :
    takesTerm i v s f x st := by
  have run := writeValue_term i f v s l (by omega) (by omega)
  dsimp only at run
  rw [ceilingFollows_term f _ _ h, if_pos rfl, put] at run
  exact stored_of run e

/-- R79: a planned figure, by whether it lowers P. -/
theorem writeValue_planned {f n : Nat} (l : i < 256) (h : f = 19 ∨ f = 20)
    (put : putObject f v (s.object i) = putPlanned (s.object i) n) :
    let st := if min 527040 n = n then Status.ok else .clamped
    (min 527040 n < (s.object i).remaining → takesTerm i v s f (replanned (s.object i) n) st) ∧
      ((s.object i).remaining ≤ min 527040 n → writeValue .object ⟨i, f⟩ v s =
        (s.modObject i fun _ => replanned (s.object i) n, st)) := by
  intro st
  have run := writeValue_term i f v s l (by omega) (by omega)
  dsimp only at run
  rw [put, putPlanned_eq] at run
  have follows := ceilingFollows_planned f n (s.object i) h
  refine ⟨fun lowers => ?_, fun keeps => ?_⟩
  · rw [if_pos (follows.2 lowers)] at run
    exact stored_of run (storedStatus_putNat_zero ..)
  · rw [if_neg (mt follows.1 (Nat.not_lt.2 keeps))] at run
    exact stored_of run (storedStatus_putNat_zero ..)

end takes

/-! ### The record that a request leaves -/

/-- R89: the object with its ceiling computed, where it is enabled. -/
def ceiled (o : Obj) : Obj := if o.enable then pacedCeiling o else o

theorem ceiled_frame (o : Obj) : ∃ c e p, ceiled o = { o with ceiling := c, exhausted := e, paceShort := p } := by
  unfold ceiled
  split
  · exact pacedCeiling_frame o
  · exact ⟨_, _, _, rfl⟩

theorem ceiled_disabled (o : Obj) (off : o.enable = false) : ceiled o = o := if_neg (Bool.eq_false_iff.1 off)

/-- R88: ceiling and flags are those of the object's own computation. -/
def ceilingStands (o : Obj) : Prop :=
  o.ceiling = (pacedCeiling o).ceiling ∧ o.exhausted = (pacedCeiling o).exhausted ∧
    o.paceShort = (pacedCeiling o).paceShort

theorem ceilingStands_ceiled (o : Obj) (on : o.enable = true) : ceilingStands (ceiled o) := by
  rw [ceiled, if_pos on, ceilingStands, pacedCeiling_idem]
  exact ⟨rfl, rfl, rfl⟩

/-- What a write of a term leaves of the object's other fields. -/
structure TermWritten (o x : Obj) : Prop where
  dose : x.dose = o.dose
  enable : x.enable = o.enable
  ceiling : o.enable = false → x.ceiling = o.ceiling

theorem TermWritten.trans {o x y : Obj} (h : TermWritten o x) (k : TermWritten x y) : TermWritten o y where
  dose := k.dose.trans h.dose
  enable := k.enable.trans h.enable
  ceiling off := (k.ceiling (h.enable.trans off)).trans (h.ceiling off)

theorem termWritten_ceiled (o : Obj) : TermWritten o (ceiled o) := by
  obtain ⟨c, e, p, computed⟩ := ceiled_frame o
  refine ⟨?_, ?_, fun off => congrArg Obj.ceiling (ceiled_disabled o off)⟩
  · rw [computed]
  · rw [computed]

/-- The object that a write of one field leaves. -/
def wrote (f : Nat) (v : Half) (o : Obj) : Obj :=
  if ceilingFollows f o (putObject f v o).1 then ceiled (putObject f v o).1 else (putObject f v o).1

theorem wrote_term (f : Nat) (v : Half) (o : Obj) (h : 11 ≤ f ∧ f ≤ 14 ∨ f = 22 ∨ f = 23) :
    wrote f v o = ceiled (putObject f v o).1 := if_pos (ceilingFollows_term f _ _ h)

/-- From `s` to `t`, object `i` becomes `x`, and the other objects, the nodes, the points, the settings, the Calendar
and the store are kept. -/
structure ObjectLeft (i : Nat) (x : Obj) (s t : State) : Prop where
  object : t.object i = x
  others : ∀ j, j ≠ i → t.object j = s.object j
  nodes : t.nodes = s.nodes
  points : t.points = s.points
  device : t.device = s.device
  calendar : t.calendar = s.calendar
  store : t.store = s.store

section ObjectLeft

variable {i : Nat} {x y : Obj} {s t u : State}

theorem ObjectLeft.trans (h : ObjectLeft i x s t) (k : ObjectLeft i y t u) : ObjectLeft i y s u where
  object := k.object
  others j n := (k.others j n).trans (h.others j n)
  nodes := k.nodes.trans h.nodes
  points := k.points.trans h.points
  device := k.device.trans h.device
  calendar := k.calendar.trans h.calendar
  store := k.store.trans h.store

theorem ObjectLeft.lit (h : ObjectLeft i x s t) (k : Lit t u) : ObjectLeft i x s u :=
  h.trans ⟨(k.object i).trans h.object, fun j _ => k.object j, k.nodes, k.points, k.device, k.calendar, k.store⟩

theorem ObjectLeft.after_setCursor (h : ObjectLeft i x s t) (c : TableId) (p : Position) :
    ObjectLeft i x s (setCursor c p t) :=
  h.trans ⟨h.object, fun _ _ => rfl, rfl, rfl, rfl, rfl, rfl⟩

theorem objectLeft_supervisionRestart (i : Nat) (s : State) : ObjectLeft i (s.object i) s (supervisionRestart s) :=
  ⟨object_supervisionRestart .., fun _ _ => object_supervisionRestart .., nodes_supervisionRestart s,
    points_supervisionRestart s, device_supervisionRestart s, calendar_supervisionRestart s,
    store_supervisionRestart s⟩

theorem ObjectLeft.after_modObject (h : ObjectLeft i x s t) (y : Obj) (l : i < 256) :
    ObjectLeft i y s (t.modObject i fun _ => y) :=
  h.trans ⟨object_modObject_self _ _ _ l, fun _ n => object_modObject_other _ _ _ _ (Ne.symm n), rfl, rfl, rfl, rfl, rfl⟩

theorem ObjectLeft.after_ceilingCore (h : ObjectLeft i x s t) : ObjectLeft i (ceiled x) s (ceilingCore i t) := by
  obtain ⟨calendar, -, nodes, points, device, store⟩ := fields_exceptObjects (exceptObjects_ceilingCore i t)
  refine h.trans ⟨?_, fun j n => ?_, nodes, points, device, calendar, store⟩
  · rw [object_ceilingCore, h.object, ceiled]
    simp only [true_and]
  · rw [object_ceilingCore, if_neg fun c => n c.1.symm]

theorem ObjectLeft.after_writeValue (h : ObjectLeft i x s t) (f : Nat) (v : Half) (l : i < 256) (a : 11 ≤ f) (b : f ≤ 23) :
    ObjectLeft i (wrote f v x) s (writeValue .object ⟨i, f⟩ v t).1 := by
  have run := writeValue_term i f v t l a b
  dsimp only at run
  rw [run, wrote, h.object]
  dsimp only
  split
  · exact (h.after_modObject _ l).after_ceilingCore
  · exact h.after_modObject _ l

end ObjectLeft

theorem cursorOf_writeValue_term (i f : Nat) (v : Half) (s : State) (l : i < 256) (a : 11 ≤ f) (b : f ≤ 23) :
    cursorOf (writeValue .object ⟨i, f⟩ v s).1 .object = cursorOf s .object := by
  have run := writeValue_term i f v s l a b
  dsimp only at run
  have cursors : (writeValue .object ⟨i, f⟩ v s).1.cursors = s.cursors := by
    rw [run]
    dsimp only
    split
    · exact (congrArg State.cursors (exceptObjects_ceilingCore i (s.modObject i fun _ => _)) :)
    · rfl
  rw [cursorOf, cursors]
  rfl

/-! ### The requests (R156, R159) -/

section requests

variable (rq : Requester) (entry : Half) (f : Nat) (s : State)

/-- A request that writes one term. -/
theorem request_term (v : Half) (l : entry.toNat < 256) (a : 11 ≤ f) (b : f ≤ 23) :
    ∃ t, request rq (fieldElement .object entry f v) s = .next t ∧
      ObjectLeft entry.toNat (wrote f v (s.object entry.toNat)) s t := by
  refine ⟨_, request_field rq .object entry f v s (by omega), ?_⟩
  have reached : ObjectLeft entry.toNat (s.object entry.toNat) s (fieldReached .object entry f s) :=
    (objectLeft_supervisionRestart entry.toNat s).after_setCursor ..
  exact (reached.after_writeValue f v l a b).lit (lit_answered ..)

/-- R158, R159: the two halves of a term, written from its first field on. -/
theorem ObjectLeft.after_writeHalves {i : Nat} {x : Obj} {s t : State} (h : ObjectLeft i x s t) (f : Nat) (hi lo : Half)
    (l : i < 256) (a : 11 ≤ f) (b : f + 1 ≤ 23) (c : cursorOf t .object = ⟨i, f⟩) :
    ObjectLeft i (wrote (f + 1) lo (wrote f hi x)) s (writeValues .object .field [hi, lo] t).state := by
  have first := (h.after_writeValue f hi l a (by omega)).after_setCursor .object ⟨i, f + 1⟩
  have stepped : stepCursor .object .field (writeValue .object ⟨i, f⟩ hi t).1 =
      setCursor .object ⟨i, f + 1⟩ (writeValue .object ⟨i, f⟩ hi t).1 := by
    rw [stepCursor, cursorOf_writeValue_term i f hi t l a (by omega), c]
    exact congrArg (setCursor .object · _) (if_pos ⟨l, show f + 1 < 44 by omega⟩)
  have run : (writeValues .object .field [hi, lo] t).state = stepCursor .object .field
      (writeValue .object ⟨i, f + 1⟩ lo (setCursor .object ⟨i, f + 1⟩ (writeValue .object ⟨i, f⟩ hi t).1)).1 := by
    simp only [c, stepped, cursorOf_setCursor_self, writeValues]
  rw [run]
  exact (first.after_writeValue (f + 1) lo l (by omega) b).after_setCursor ..

/-- R159: a request that writes a term half by half. -/
theorem request_wideTerm (v : BitVec 32) (l : entry.toNat < 256) (a : 11 ≤ f) (b : f + 1 ≤ 23) :
    ∃ t, request rq (wideElement .object entry f v) s = .next t ∧
      ObjectLeft entry.toNat (wrote (f + 1) (v.extractLsb' 0 16) (wrote f (v.extractLsb' 16 16)
        (s.object entry.toNat))) s t := by
  refine ⟨_, exec_write rq .object (some ⟨entry, byteOfNat f⟩) .field [v.extractLsb' 16 16, v.extractLsb' 0 16] s rfl,
    ?_⟩
  rw [loadCursor_some, toNat_byteOfNat f (by omega)]
  have reached := (objectLeft_supervisionRestart entry.toNat s).after_setCursor .object ⟨entry.toNat, f⟩
  have written := reached.after_writeHalves f (v.extractLsb' 16 16) (v.extractLsb' 0 16) l a b (cursorOf_setCursor_self ..)
  exact (written.lit (reported_answer ..).lit).lit (lit_grantAfter ..)

end requests

end Sys2Proof.Machine
end

section
/-! PROOF. CEILING_TERMS_WRITE and OPEN_MINUTES_WRITE as requests (O47): the term stored, half by half where it is wide,
and what the request leaves. -/

namespace Sys2Proof.Machine

/-! ### The terms of the object that a request leaves (R78, R79) -/

theorem toNat_halves (v : BitVec 32) :
    (v.extractLsb' 16 16).toNat = v.toNat / 65536 ∧ (v.extractLsb' 0 16).toNat = v.toNat % 65536 := by
  have := v.isLt
  simp only [BitVec.extractLsb'_toNat, Nat.shiftRight_eq_div_pow]
  omega

/-- The computation leaves the terms. -/
theorem ceiled_terms (o : Obj) : (ceiled o).cmax = o.cmax ∧ (ceiled o).cfloor = o.cfloor ∧
    (ceiled o).budget = o.budget ∧ (ceiled o).remaining = o.remaining ∧ (ceiled o).planned = o.planned := by
  obtain ⟨c, e, p, computed⟩ := ceiled_frame o
  rw [computed]
  exact ⟨rfl, rfl, rfl, rfl, rfl⟩

/-- A write of a term of `o` after which the ceiling of an enabled object stands. -/
structure TermComputed (o x : Obj) : Prop extends TermWritten o x where
  stands : o.enable = true → ceilingStands x

/-- A change of terms alone, with the ceiling computed after it. -/
theorem termComputed_ceiled (o x : Obj) (dose : x.dose = o.dose) (enable : x.enable = o.enable)
    (ceiling : x.ceiling = o.ceiling) : TermComputed o (ceiled x) where
  toTermWritten := TermWritten.trans ⟨dose, enable, fun _ => ceiling⟩ (termWritten_ceiled x)
  stands on := ceilingStands_ceiled x (enable.trans on)

theorem TermComputed.trans {o x y : Obj} (h : TermComputed o x) (k : TermComputed x y) : TermComputed o y where
  toTermWritten := h.toTermWritten.trans k.toTermWritten
  stands on := k.stands (h.enable.trans on)

theorem wrote_cmax (v : Half) (o : Obj) : let x := wrote 13 v o
    x.cmax = max (max 10 o.cfloor) (min 1000 v.toNat) ∧ x.cfloor = o.cfloor ∧ x.budget = o.budget ∧
      x.remaining = o.remaining ∧ TermComputed o x := by
  intro x
  have record : x = ceiled _ := wrote_term 13 v o (by omega)
  obtain ⟨cmax, cfloor, budget, remaining, -⟩ := ceiled_terms (putObject 13 v o).1
  rw [record]
  exact ⟨cmax, cfloor, budget, remaining, termComputed_ceiled o _ rfl rfl rfl⟩

theorem wrote_cfloor (v : Half) (o : Obj) : let x := wrote 14 v o
    x.cfloor = min o.cmax v.toNat ∧ x.cmax = o.cmax ∧ x.budget = o.budget ∧ x.remaining = o.remaining ∧
      TermComputed o x := by
  intro x
  have record : x = ceiled { o with cfloor := min o.cmax v.toNat } :=
    (wrote_term 14 v o (by omega)).trans (congrArg (fun w : Obj × Bool => ceiled w.1) (putCfloor_eq v o))
  obtain ⟨cmax, cfloor, budget, remaining, -⟩ := ceiled_terms { o with cfloor := min o.cmax v.toNat }
  rw [record]
  exact ⟨cfloor, cmax, budget, remaining, termComputed_ceiled o _ rfl rfl rfl⟩

/-- R78: a write of a half of the budget. -/
theorem wrote_budgetHalf (f n : Nat) (v : Half) (o : Obj) (h : f = 11 ∨ f = 12)
    (put : putObject f v o = putBudget o n) : let x := wrote f v o
    x.budget = max 1 (min 4000000000 n) ∧ x.cmax = o.cmax ∧ x.cfloor = o.cfloor ∧ x.remaining = o.remaining ∧
      TermComputed o x := by
  intro x
  have record : x = ceiled { o with budget := max 1 (min 4000000000 n) } :=
    (wrote_term f v o (by omega)).trans (congrArg (fun w : Obj × Bool => ceiled w.1) put)
  obtain ⟨cmax, cfloor, budget, remaining, -⟩ := ceiled_terms { o with budget := max 1 (min 4000000000 n) }
  rw [record]
  exact ⟨budget, cmax, cfloor, remaining, termComputed_ceiled o _ rfl rfl rfl⟩

theorem wrote_budget (v : BitVec 32) (o : Obj) :
    let first := max 1 (min 4000000000 (v.toNat / 65536 * 65536 + o.budget % 65536))
    let x := wrote 12 (v.extractLsb' 0 16) (wrote 11 (v.extractLsb' 16 16) o)
    x.budget = max 1 (min 4000000000 (first / 65536 * 65536 + v.toNat % 65536)) ∧ x.cmax = o.cmax ∧
      x.cfloor = o.cfloor ∧ x.remaining = o.remaining ∧ TermComputed o x := by
  intro first x
  obtain ⟨high, low⟩ := toNat_halves v
  obtain ⟨budget, cmax, cfloor, remaining, written⟩ := wrote_budgetHalf 11 _ (v.extractLsb' 16 16) o (.inl rfl) rfl
  obtain ⟨budget', cmax', cfloor', remaining', written'⟩ :=
    wrote_budgetHalf 12 _ (v.extractLsb' 0 16) (wrote 11 (v.extractLsb' 16 16) o) (.inr rfl) rfl
  rw [withHigh, high] at budget
  rw [withLow, low, budget] at budget'
  exact ⟨budget', cmax'.trans cmax, cfloor'.trans cfloor, remaining'.trans remaining, written.trans written'⟩

/-- R79: a write of a half of P. -/
theorem wrote_remainingHalf (f n : Nat) (v : Half) (o : Obj) (h : f = 22 ∨ f = 23)
    (put : putObject f v o = putRemaining o n) : let x := wrote f v o
    x.remaining = min o.planned n ∧ x.planned = o.planned ∧ TermComputed o x := by
  intro x
  have record : x = ceiled { o with remaining := min o.planned n } :=
    (wrote_term f v o (by omega)).trans
      (congrArg (fun w : Obj × Bool => ceiled w.1) (put.trans (putRemaining_eq o n)))
  obtain ⟨-, -, -, remaining, planned⟩ := ceiled_terms { o with remaining := min o.planned n }
  rw [record]
  exact ⟨remaining, planned, termComputed_ceiled o _ rfl rfl rfl⟩

theorem wrote_remaining (v : BitVec 32) (o : Obj) :
    let first := min o.planned (v.toNat / 65536 * 65536 + o.remaining % 65536)
    let x := wrote 23 (v.extractLsb' 0 16) (wrote 22 (v.extractLsb' 16 16) o)
    x.remaining = min o.planned (first / 65536 * 65536 + v.toNat % 65536) ∧ x.planned = o.planned ∧
      TermComputed o x := by
  intro first x
  obtain ⟨high, low⟩ := toNat_halves v
  obtain ⟨remaining, planned, written⟩ := wrote_remainingHalf 22 _ (v.extractLsb' 16 16) o (.inl rfl) rfl
  obtain ⟨remaining', planned', written'⟩ :=
    wrote_remainingHalf 23 _ (v.extractLsb' 0 16) (wrote 22 (v.extractLsb' 16 16) o) (.inr rfl) rfl
  rw [withHigh, high] at remaining
  rw [withLow, low, remaining, planned] at remaining'
  exact ⟨remaining', planned'.trans planned, written.trans written'⟩

/-! ### A planned figure (R79) -/

theorem pacedCeiling_planned (o : Obj) (p : Nat) :
    pacedCeiling { o with planned := p } = { pacedCeiling o with planned := p } := by
  by_cases budget : remainingBudget o = 0
  · rw [pacedCeiling_exhausted o budget]
    exact pacedCeiling_exhausted { o with planned := p } budget
  · by_cases minutes : o.remaining = 0
    · rw [pacedCeiling_unpaced o budget minutes]
      exact pacedCeiling_unpaced { o with planned := p } budget minutes
    · rw [pacedCeiling_paced o budget minutes]
      exact pacedCeiling_paced { o with planned := p } budget minutes

/-- What a write of the planned figure leaves: P no greater, and the ceiling standing where P has fallen, or where it
stood. -/
structure PlannedWritten (n : Nat) (o x : Obj) : Prop extends TermWritten o x where
  planned : x.planned = min 527040 n
  remaining : x.remaining = min o.remaining (min 527040 n)
  stands : x.remaining ≠ o.remaining ∨ ceilingStands o → o.enable = true → ceilingStands x

theorem plannedWritten_wrote (f n : Nat) (v : Half) (o : Obj) (h : f = 19 ∨ f = 20)
    (put : putObject f v o = putPlanned o n) : PlannedWritten n o (wrote f v o) := by
  have follows := ceilingFollows_planned f n o h
  rw [wrote, put, putPlanned_eq]
  dsimp only
  by_cases lowers : min 527040 n < o.remaining
  · rw [if_pos (follows.2 lowers)]
    have written : TermComputed o (ceiled (replanned o n)) := termComputed_ceiled o _ rfl rfl rfl
    obtain ⟨-, -, -, remaining, planned⟩ := ceiled_terms (replanned o n)
    exact ⟨written.toTermWritten, planned, remaining, fun _ => written.stands⟩
  · rw [if_neg (mt follows.1 lowers)]
    have same : o.remaining = min o.remaining (min 527040 n) := (Nat.min_eq_left (Nat.not_lt.1 lowers)).symm
    have record : replanned o n = { o with planned := min 527040 n } := by rw [replanned, ← same]
    rw [record]
    refine ⟨⟨rfl, rfl, fun _ => rfl⟩, rfl, same, fun stood _ => ?_⟩
    have stands : ceilingStands o := stood.resolve_left fun c => c rfl
    rw [ceilingStands, pacedCeiling_planned]
    exact stands

theorem wrote_planned (v : BitVec 32) (o : Obj) :
    let first := min 527040 (v.toNat / 65536 * 65536 + o.planned % 65536)
    let x := wrote 20 (v.extractLsb' 0 16) (wrote 19 (v.extractLsb' 16 16) o)
    x.planned = min 527040 (first / 65536 * 65536 + v.toNat % 65536) ∧
      x.remaining = min (min o.remaining first) x.planned ∧
      (x.remaining ≠ o.remaining → o.enable = true → ceilingStands x) ∧ TermWritten o x := by
  intro first x
  obtain ⟨high, low⟩ := toNat_halves v
  have a := plannedWritten_wrote 19 _ (v.extractLsb' 16 16) o (.inl rfl) rfl
  have b := plannedWritten_wrote 20 _ (v.extractLsb' 0 16) (wrote 19 (v.extractLsb' 16 16) o) (.inr rfl) rfl
  have planned := b.planned
  have remaining := b.remaining
  rw [← planned, a.remaining] at remaining
  rw [withLow, low, a.planned, withHigh, high] at planned
  rw [withHigh, high] at remaining
  refine ⟨planned, remaining, fun lowered on => b.stands ?_ (a.enable.trans on), a.toTermWritten.trans b.toTermWritten⟩
  by_cases same : (wrote 19 (v.extractLsb' 16 16) o).remaining = o.remaining
  · exact .inl (same ▸ lowered)
  · exact .inr (a.stands (.inl same) on)

/-! ### What a request keeps -/

/-- A term written leaves dose and enable, a disabled object's ceiling, the other entries and the settings. -/
theorem ObjectLeft.frame {i : Nat} {x : Obj} {s t : State} (h : ObjectLeft i x s t) (w : TermWritten (s.object i) x) :
    (t.object i).dose = (s.object i).dose ∧ (t.object i).enable = (s.object i).enable ∧
      ((s.object i).enable = false → (t.object i).ceiling = (s.object i).ceiling) ∧
      (∀ j, j ≠ i → t.object j = s.object j) ∧ t.nodes = s.nodes ∧ t.points = s.points ∧ t.device = s.device ∧
      t.calendar = s.calendar ∧ t.store = s.store := by
  rw [h.object]
  exact ⟨w.dose, w.enable, w.ceiling, h.others, h.nodes, h.points, h.device, h.calendar, h.store⟩

/-- Settles O47: the rows by definition, each field by `writeValue_term`, each request by the record that it leaves. -/
theorem ceilingTermWrites : Obligations.CeilingTermWrites := by
  refine ⟨fun rq object s => ⟨fun _ => rfl, fun _ => rfl, fun _ => rfl, fun _ => rfl, fun _ => rfl⟩,
    fun i v s l => ?_, fun rq object s l => ?_⟩
  · intro o n high low st takes cmax cfloor budget planned
    refine ⟨?_, ?_, ?_, ?_, ?_, ?_, ?_⟩
    · exact takesTerm_of l (by omega) rfl (storedStatus_putNat ..)
    · exact takesTerm_of l (by omega) (putCfloor_eq v o) (storedStatus_putNat_zero ..)
    · exact takesTerm_of l (by omega) rfl (storedStatus_putNat ..)
    · exact takesTerm_of l (by omega) rfl (storedStatus_putNat ..)
    · exact takesTerm_of l (by omega) (putRemaining_eq o _) (storedStatus_putNat_zero ..)
    · exact takesTerm_of l (by omega) (putRemaining_eq o _) (storedStatus_putNat_zero ..)
    · rintro f a (⟨rfl, rfl⟩ | ⟨rfl, rfl⟩)
      · exact writeValue_planned l (.inl rfl) rfl
      · exact writeValue_planned l (.inr rfl) rfl
  · intro i o computed frame
    refine ⟨fun v => ?_, fun v => ?_, fun v => ?_, fun v => ?_, fun v => ?_⟩
    · obtain ⟨t, run, left⟩ := request_term rq object 13 s v l (by omega) (by omega)
      obtain ⟨cmax, cfloor, budget, remaining, written⟩ := wrote_cmax v o
      have kept := left.frame written.toTermWritten
      have stands := written.stands
      rw [← left.object] at cmax cfloor budget remaining stands
      exact ⟨t, run, cmax, cfloor, budget, remaining, stands, kept⟩
    · obtain ⟨t, run, left⟩ := request_term rq object 14 s v l (by omega) (by omega)
      obtain ⟨cfloor, cmax, budget, remaining, written⟩ := wrote_cfloor v o
      have kept := left.frame written.toTermWritten
      have stands := written.stands
      rw [← left.object] at cmax cfloor budget remaining stands
      exact ⟨t, run, cfloor, cmax, budget, remaining, stands, kept⟩
    · obtain ⟨t, run, left⟩ := request_wideTerm rq object 11 s v l (by omega) (by omega)
      obtain ⟨budget, cmax, cfloor, remaining, written⟩ := wrote_budget v o
      have kept := left.frame written.toTermWritten
      have stands := written.stands
      rw [← left.object] at cmax cfloor budget remaining stands
      exact ⟨t, run, budget, cmax, cfloor, remaining, stands, kept⟩
    · obtain ⟨t, run, left⟩ := request_wideTerm rq object 22 s v l (by omega) (by omega)
      obtain ⟨remaining, planned, written⟩ := wrote_remaining v o
      have kept := left.frame written.toTermWritten
      have stands := written.stands
      rw [← left.object] at remaining planned stands
      exact ⟨t, run, remaining, planned, stands, kept⟩
    · obtain ⟨t, run, left⟩ := request_wideTerm rq object 19 s v l (by omega) (by omega)
      obtain ⟨planned, remaining, stands, written⟩ := wrote_planned v o
      have kept := left.frame written
      rw [← left.object] at planned remaining stands
      exact ⟨t, run, planned, remaining, stands, kept⟩

end Sys2Proof.Machine
end

section
/-! PROOF. The groups' levels that every step keeps (O59), and the writes of a group's limits (O48). -/

namespace Sys2Proof.Machine

/-- Settles O59: every command, and the passing of time, keeps the levels within 0 to 1000 and within their caps. -/
theorem everyStepKeepsLevelsInRange : Obligations.EveryStepKeepsLevelsInRange := by
  unfold Obligations.EveryStepKeepsLevelsInRange
  exact fun s t h run => (keeps_step s t run).levels h

/-! ### A write of one field, stored or refused (R156, R161) -/

/-- A value that its block takes: the request is answered with the block's status, and its grant follows. -/
theorem request_written {rq : Requester} {t : TableId} {entry v : Half} {field : Nat} {s w : State} {st : Status}
    (h : field < 256) (written : writeValue t ⟨entry.toNat, field⟩ v (fieldReached t entry field s) = (w, st)) :
    request rq (fieldElement t entry field v) s = .next (answered rq st (fieldReached t entry field s) w) := by
  have run := request_field rq t entry field v s h
  dsimp only at run
  rwa [written] at run

/-- A value that is refused leaves the state in which it was judged, and asks for no grant. -/
theorem request_unwritten {rq : Requester} {t : TableId} {entry v : Half} {field : Nat} {s : State} {st : Status}
    (h : field < 256)
    (refused : writeValue t ⟨entry.toNat, field⟩ v (fieldReached t entry field s) =
      (fieldReached t entry field s, st)) :
    request rq (fieldElement t entry field v) s = .next (answer rq st (fieldReached t entry field s)) :=
  (request_written h refused).trans (congrArg Host.Outcome.next (answered_self rq st _))

/-- R161, R162: a configuration field beyond the table, or a code that it does not take. -/
theorem writeValue_range {t : TableId} {p : Position} {v : Half} {s : State} (config : configField t p)
    (h : inTable t p = false ∨ codeAccepted t p v = false) : writeValue t p v s = (s, .range) := by
  by_cases inside : inTable t p = true
  · refine writeValue_badCode inside ?_ (h.resolve_left (by simp [inside]))
    rw [(access_config t p).2 config]
    exact fun c => by cases c
  · exact writeValue_beyond (Bool.not_eq_true _ ▸ inside)

/-! ### The limits of a group (R99) -/

/-- R99: the value that a limit's field stores. -/
def limitStored (f : GroupLimitField) (v : Half) (gr : Group) : Nat :=
  match f with
  | .lo => min gr.hi v.toNat
  | .hi => max gr.lo (min 1000 v.toNat)
  | .cleaning => min 1000 v.toNat

/-- The group with one limit set. -/
def withLimit (f : GroupLimitField) (n : Nat) (gr : Group) : Group :=
  match f with
  | .lo => { gr with lo := n }
  | .hi => { gr with hi := n }
  | .cleaning => { gr with cleaning := n }

theorem withLimit_keeps (f : GroupLimitField) (n : Nat) (gr : Group) :
    (withLimit f n gr).zone = gr.zone ∧ (withLimit f n gr).enable = gr.enable := by
  cases f with
  | lo | hi | cleaning => exact ⟨rfl, rfl⟩

theorem putGroup_limit (f : GroupLimitField) (v : Half) (gr : Group) :
    (putGroup (groupLimitFieldNumber f) v gr).1 = withLimit f (limitStored f v gr) gr ∧
    storedStatus (putGroup (groupLimitFieldNumber f) v gr).2 =
      if limitStored f v gr = v.toNat then .ok else .clamped := by
  cases f with
  | lo => exact ⟨congrArg (fun n => { gr with lo := n }) (Nat.zero_max _), storedStatus_putNat_zero gr.hi v.toNat⟩
  | hi => exact ⟨rfl, storedStatus_putNat gr.lo 1000 v.toNat⟩
  | cleaning =>
    exact ⟨congrArg (fun n => { gr with cleaning := n }) (Nat.zero_max _), storedStatus_putNat_zero 1000 v.toNat⟩

theorem groupLimitFieldNumber_cases (f : GroupLimitField) :
    groupLimitFieldNumber f = 5 ∨ groupLimitFieldNumber f = 6 ∨ groupLimitFieldNumber f = 10 := by
  cases f <;> decide

theorem configField_groupLimit (i : Nat) (f : GroupLimitField) : configField .group ⟨i, groupLimitFieldNumber f⟩ := by
  have number := groupLimitFieldNumber_cases f
  exact .inr (show 5 ≤ groupLimitFieldNumber f ∧ groupLimitFieldNumber f ≤ 10 by omega)

/-- R99, R102: the limit is stored, and an enabled group's zone has its evaluation requested. -/
theorem writeValue_groupLimit (i : Nat) (f : GroupLimitField) (v : Half) (s : State) (l : i < 48) :
    let gr := s.group i
    let w := s.modGroup i (withLimit f (limitStored f v gr))
    writeValue .group ⟨i, groupLimitFieldNumber f⟩ v s =
      (if gr.enable then requestCore gr.zone w else w,
        if limitStored f v gr = v.toNat then .ok else .clamped) := by
  intro gr w
  obtain ⟨put, status⟩ := putGroup_limit f v gr
  obtain ⟨zone, enable⟩ := withLimit_keeps f (limitStored f v gr) gr
  have number := groupLimitFieldNumber_cases f
  have stored : s.modGroup i (fun x => (putGroup (groupLimitFieldNumber f) v x).1) = w := by
    rw [modGroup_at, put, ← modGroup_at s i (withLimit f (limitStored f v gr))]
  have record : w.group i = withLimit f (limitStored f v gr) gr := group_modGroup_self s i _ l
  have code : codeAccepted .group ⟨i, groupLimitFieldNumber f⟩ v = true :=
    codeAccepted_number _ _ v (show ¬groupLimitFieldNumber f = 0 by omega)
      (if_neg (show ¬groupLimitFieldNumber f = 1 by omega))
  have inside : inTable .group ⟨i, groupLimitFieldNumber f⟩ = true :=
    (inTable_iff _ _).2 ⟨l, show groupLimitFieldNumber f < 18 by omega⟩
  have asks : (groupLimitFieldNumber f == 5 || groupLimitFieldNumber f == 6 ||
      groupLimitFieldNumber f == 10) = true := by
    simp only [Bool.or_eq_true, beq_iff_eq]
    omega
  rw [writeValue_owned inside code (.inl (configField_groupLimit i f))]
  simp only [writeOwned, writeGroup, if_neg (show groupLimitFieldNumber f ≠ 0 by omega), stored, record, zone, enable,
    asks, Bool.true_and]
  rw [← status]

/-- Settles O48: the value by `putGroup_limit`, the request by what the group's block does with it. -/
theorem groupLimitWrite : Obligations.GroupLimitWrite := by
  intro rq group f value s g u gr v w st
  have number := groupLimitFieldNumber_cases f
  have below : groupLimitFieldNumber f < 256 := by omega
  have own : u.group g = gr := group_fieldReached ..
  have stored := writeValue_groupLimit g f value u
  rw [own] at stored
  refine ⟨fun beyond => ?_, fun l off => ?_, fun l on => ?_⟩
  · refine request_unwritten below (writeValue_range (configField_groupLimit g f) (.inl ?_))
    exact Bool.eq_false_iff.2 fun inside => absurd ((inTable_iff _ _).1 inside).1 (Nat.not_lt.2 beyond)
  · refine (request_written below ((stored l).trans (congrArg (·, st) (if_neg (by simp [off]))))).trans ?_
    exact congrArg Host.Outcome.next (answered_of rq st (asksGrant_of rfl rfl rfl rfl))
  · exact request_written below ((stored l).trans (congrArg (·, st) (if_pos on)))

end Sys2Proof.Machine
end

section
/-! PROOF. The writes of a zone's shade and of its mode fields (O44). -/

namespace Sys2Proof.Machine

/-! ### The mode of a zone, judged (R101) -/

/-- R101: the zone with its mode as judged; a disabled one's stays. -/
def modeJudged (c : Calendar) (z : Zone) : Zone := { z with mode := if z.enable then judgedMode c z else z.mode }

theorem modeJudged_same (c : Calendar) (z : Zone) (h : z.enable = false ∨ z.mode = judgedMode c z) :
    modeJudged c z = z := by
  have same : (if z.enable then judgedMode c z else z.mode) = z.mode := by
    rcases h with off | same
    · rw [off]
      rfl
    · rw [← same, ite_self]
  rw [modeJudged, same]

/-- R101: the judgement brings its own zone's mode up to date, and leaves every other setting of the zones. -/
theorem zone_judgeModeCore (z j : Nat) (s : State) : zoneSettings ((judgeModeCore z s).zone j) =
    zoneSettings (if z = j then modeJudged s.calendar (s.zone j) else s.zone j) := by
  by_cases same : (s.zone z).enable = false ∨ (s.zone z).mode = judgedMode s.calendar (s.zone z)
  · rw [(judgeMode_keeps z s same).1]
    split
    · next e =>
      subst e
      rw [modeJudged_same _ _ same]
    · rfl
  · obtain ⟨notOff, changes⟩ := not_or.1 same
    have on : (s.zone z).enable = true := by simpa using notOff
    have inside : z < 24 := Nat.lt_of_not_le fun beyond => by
      rw [zone_beyond s z beyond] at on
      cases on
    rw [(judgeMode_changes z s on changes).1, (evaluated_requestCore _ _).zone, zone_modZone]
    by_cases e : z = j
    · subst e
      rw [if_pos ⟨rfl, inside⟩, if_pos rfl, modeJudged, if_pos on]
    · rw [if_neg fun c => e c.1, if_neg e]

/-! ### The shade of a zone (R100) -/

theorem shadeServes_iff (s : State) (z g : Nat) : shadeServes s z g = true ↔
    (s.group g).enable = true ∧ (s.group g).kind = .shade ∧ (s.group g).zone = z := by
  simp only [shadeServes, Bool.and_eq_true, beq_iff_eq, and_assoc]

/-- R100: a shade that is stored requests an evaluation of its zone. -/
theorem writeShade_stored (z : Nat) (v : Half) (s : State) (shade : Option Nat)
    (put : (putIndex 47 v).1 = shade) (serves : shade.all (shadeServes s z) = true) : writeShade z v s =
      (requestCore z (s.modZone z fun zn => { zn with shade := shade }),
        if v = 0xFFFF ∨ v.toNat ≤ 47 then .ok else .clamped) := by
  subst put
  rw [← (putIndex_eq 47 v).2]
  exact if_pos serves

theorem writeShade_unserved (z : Nat) (v : Half) (s : State)
    (other : (putIndex 47 v).1.all (shadeServes s z) = false) : writeShade z v s = (s, .refError) :=
  if_neg fun c => Bool.false_ne_true (other.symm.trans c)

theorem writeValue_shade (z : Nat) (v : Half) (s : State) (l : z < 24) :
    writeValue .zone ⟨z, 1⟩ v s = writeShade z v s := by
  have inside : inTable .zone ⟨z, 1⟩ = true := (inTable_iff _ _).2 ⟨l, show 1 < 63 by omega⟩
  exact writeValue_owned inside rfl (.inl (.inl (show 1 ≤ 5 by omega)))

/-! ### The mode fields of a zone (R101, R126) -/

/-- R101, R126: the zone with a mode field stored. -/
def modeFieldStored (f : ZoneModeField) (v : Half) (z : Zone) : Zone :=
  match f with
  | .openFrom => { z with openFrom := min 1439 v.toNat }
  | .openTo => { z with openTo := min 1439 v.toNat }
  | .modeSource => { z with modeSource := if v = 1 then .forced else .auto }
  | .forcedMode => { z with forcedMode := if v = 1 then .opened else if v = 2 then .closed else .dark }

/-- R162: the codes that a mode field takes. -/
def modeCodes (f : ZoneModeField) (v : Half) : Prop :=
  (f = .modeSource → v.toNat ≤ 1) ∧ (f = .forcedMode → 1 ≤ v.toNat ∧ v.toNat ≤ 3)

theorem codeAccepted_modeField (i : Nat) (f : ZoneModeField) (v : Half) :
    codeAccepted .zone ⟨i, zoneModeFieldNumber f⟩ v = true ↔ modeCodes f v := by
  cases f with
  | openFrom | openTo => simp [codeAccepted, zoneModeFieldNumber, modeCodes]
  | modeSource | forcedMode => simp [codeAccepted, zoneModeFieldNumber, modeCodes]

theorem putZone_modeField (f : ZoneModeField) (v : Half) (z : Zone) :
    (putZone (zoneModeFieldNumber f) v z).1 = modeFieldStored f v z ∧
    storedStatus (putZone (zoneModeFieldNumber f) v z).2 =
      if (f = .openFrom ∨ f = .openTo) ∧ 1439 < v.toNat then .clamped else .ok := by
  have minute : storedStatus (putNat 0 1439 v.toNat).2 = if 1439 < v.toNat then .clamped else .ok := by
    rw [storedStatus_putNat_zero]
    by_cases h : 1439 < v.toNat
    · rw [if_neg (by omega), if_pos h]
    · rw [if_pos (by omega), if_neg h]
  cases f with
  | openFrom =>
    exact ⟨congrArg (fun n => { z with openFrom := n }) (Nat.zero_max _), minute.trans (by simp)⟩
  | openTo => exact ⟨congrArg (fun n => { z with openTo := n }) (Nat.zero_max _), minute.trans (by simp)⟩
  | modeSource => exact ⟨rfl, rfl⟩
  | forcedMode => exact ⟨rfl, rfl⟩

theorem zoneModeFieldNumber_bounds (f : ZoneModeField) : 2 ≤ zoneModeFieldNumber f ∧ zoneModeFieldNumber f ≤ 5 := by
  cases f <;> decide

theorem configField_modeField (i : Nat) (f : ZoneModeField) : configField .zone ⟨i, zoneModeFieldNumber f⟩ :=
  .inl (zoneModeFieldNumber_bounds f).2

/-- R101: a mode field is stored, and the mode of its zone judged. -/
theorem writeValue_modeField (i : Nat) (f : ZoneModeField) (v : Half) (s : State) (l : i < 24) (c : modeCodes f v) :
    writeValue .zone ⟨i, zoneModeFieldNumber f⟩ v s =
      (judgeModeCore i (s.modZone i fun _ => modeFieldStored f v (s.zone i)),
        if (f = .openFrom ∨ f = .openTo) ∧ 1439 < v.toNat then .clamped else .ok) := by
  obtain ⟨put, status⟩ := putZone_modeField f v (s.zone i)
  have bounds := zoneModeFieldNumber_bounds f
  have inside : inTable .zone ⟨i, zoneModeFieldNumber f⟩ = true :=
    (inTable_iff _ _).2 ⟨l, show zoneModeFieldNumber f < 63 by omega⟩
  rw [writeValue_owned inside ((codeAccepted_modeField i f v).2 c) (.inl (configField_modeField i f))]
  simp only [writeOwned, writeZone, if_neg (show zoneModeFieldNumber f ≠ 0 by omega),
    if_neg (show zoneModeFieldNumber f ≠ 1 by omega), zoneStored, if_pos bounds]
  rw [modZone_at, put, status]

theorem modeFieldStored_keeps (f : ZoneModeField) (v : Half) (z : Zone) :
    (modeFieldStored f v z).enable = z.enable ∧ (modeFieldStored f v z).mode = z.mode := by
  cases f with
  | openFrom | openTo | modeSource | forcedMode => exact ⟨rfl, rfl⟩

theorem inTable_zone_beyond (i f : Nat) (h : 24 ≤ i) : inTable .zone ⟨i, f⟩ = false :=
  Bool.eq_false_iff.2 fun inside => absurd ((inTable_iff _ _).1 inside).1 (Nat.not_lt.2 h)

/-- R101: what the judgement of one zone's mode leaves of the rest of the state. -/
theorem judgeModeCore_frame (z : Nat) (s : State) :
    let t := judgeModeCore z s
    t.groups.map groupSettings = s.groups.map groupSettings ∧ t.nodes = s.nodes ∧ t.points = s.points ∧
      t.objects = s.objects ∧ t.device = s.device ∧ t.calendar = s.calendar ∧ t.store = s.store := by
  intro t
  have frame := exceptModes_judgeModeCore z s
  obtain ⟨calendar, -, nodes, points, device, store, objects⟩ := fields_exceptModes frame
  exact ⟨(congrArg State.groups frame :), nodes, points, objects, device, calendar, store⟩

/-- Settles O44: the shade by `writeShade_stored`, the mode fields by `writeValue_modeField`, and the judged mode by
`zone_judgeModeCore`. -/
theorem zoneLightWrites : Obligations.ZoneLightWrites := by
  refine ⟨fun rq zone value s => ?_, fun rq zone f value s => ?_⟩
  · intro u z g serves stored
    have serves_iff : shadeServes u z g = true ↔ serves := by
      rw [shadeServes_iff, group_fieldReached]
    have put := (putIndex_eq 47 value).1
    refine ⟨fun beyond => ?_, fun l none' => ?_, fun l some' other => ?_, fun l some' serving => ?_⟩
    · exact request_unwritten (by omega)
        (writeValue_range (.inl (show 1 ≤ 5 by omega)) (.inl (inTable_zone_beyond z 1 beyond)))
    · refine request_written (by omega) ((writeValue_shade z value u l).trans ?_)
      refine (writeShade_stored z value u none (put.trans (if_pos none')) rfl).trans ?_
      rw [if_pos (.inl none')]
    · refine request_unwritten (by omega) ((writeValue_shade z value u l).trans (writeShade_unserved z value u ?_))
      rw [put, if_neg some']
      exact Bool.eq_false_iff.2 (mt serves_iff.1 other)
    · refine request_written (by omega) ((writeValue_shade z value u l).trans ?_)
      refine (writeShade_stored z value u (some g) (put.trans (if_neg some')) (serves_iff.2 serving)).trans ?_
      simp only [some', false_or]
  · intro u z codes old new
    have below : zoneModeFieldNumber f < 256 := Nat.lt_of_le_of_lt (zoneModeFieldNumber_bounds f).2 (by omega)
    have own : u.zone z = old := zone_fieldReached ..
    refine ⟨fun outside => ?_, ?_⟩
    · refine request_unwritten below (writeValue_range (configField_modeField z f) ?_)
      exact outside.imp (inTable_zone_beyond z _)
        fun bad => Bool.eq_false_iff.2 (mt (codeAccepted_modeField z f value).1 bad)
    · intro st
      have run : z < 24 → codes → exec (.zoneModeWrite rq zone f value) s =
          .next (answered rq st u (judgeModeCore z (u.modZone z fun _ => new))) := fun l c => by
        have written := writeValue_modeField z f value u l c
        rw [own] at written
        exact request_written below written
      refine ⟨run, fun l c => ⟨_, run l c, ?_⟩⟩
      have lit := lit_answered rq st u (judgeModeCore z (u.modZone z fun _ => new))
      obtain ⟨groups, nodes, points, objects, device, calendar, store⟩ :=
        judgeModeCore_frame z (u.modZone z fun _ => new)
      refine ⟨?_, fun j other => ?_, lit.groupsCore.trans (groups.trans ?_), lit.nodes.trans (nodes.trans ?_),
        lit.points.trans (points.trans ?_), lit.objects.trans (objects.trans ?_), lit.device.trans (device.trans ?_),
        lit.calendar.trans (calendar.trans ?_), lit.store.trans (store.trans ?_)⟩
      · obtain ⟨enable, mode⟩ := modeFieldStored_keeps f value old
        rw [lit.zone, zone_judgeModeCore, if_pos rfl, zone_modZone_self _ _ _ l, calendar_modZone,
          calendar_fieldReached, ← enable, ← mode]
        rfl
      · rw [lit.zone, zone_judgeModeCore, if_neg (Ne.symm other), zone_modZone_other _ _ _ _ (Ne.symm other),
          zone_fieldReached]
      · exact congrArg _ (groups_fieldReached .zone zone (zoneModeFieldNumber f) s)
      · exact nodes_fieldReached .zone zone (zoneModeFieldNumber f) s
      · exact points_fieldReached .zone zone (zoneModeFieldNumber f) s
      · exact objects_fieldReached .zone zone (zoneModeFieldNumber f) s
      · exact device_fieldReached .zone zone (zoneModeFieldNumber f) s
      · exact calendar_fieldReached .zone zone (zoneModeFieldNumber f) s
      · exact store_fieldReached .zone zone (zoneModeFieldNumber f) s

end Sys2Proof.Machine
end

section
/-! PROOF. What a revert keeps (O36): a condition that stands keeps standing through raises, through clears of other
kinds and through the grants of a part that is UNATTENDED with REVERT, and every group keeps its cap. -/

namespace Sys2Proof.Machine

/-! ### The Condition Table through a report (R143, R144, R149) -/

/-- What a raise and a clear say: the Condition Table and the summary latches. -/
def tableOf (s : State) : List Condition × Latches := (s.conditions, s.latches)

theorem tableOf_plantTake (s : State) : tableOf (plantTake s) = tableOf s := by
  unfold plantTake
  split
  · rfl
  · split
    · rfl
    · rfl
    · rfl
    · split
      · rfl
      · rfl

theorem tableOf_dropOrigin (o : OriginFrame) (s : State) : tableOf (dropOrigin o s) = tableOf s := by
  unfold dropOrigin restartReplyGone
  dsimp only
  split
  · split
    · rfl
    · rfl
  · rfl

theorem tableOf_offerOrigin (o : OriginFrame) (s : State) : tableOf (offerOrigin o s) = tableOf s := by
  unfold offerOrigin
  split
  · exact tableOf_dropOrigin o s
  · split
    · rfl
    · split
      · exact tableOf_plantTake _
      · exact tableOf_dropOrigin o s

theorem tableOf_report (c : Condition) (raised : Bool) (s : State) : tableOf (report c raised s) = tableOf s := by
  unfold report
  split
  · rfl
  · exact tableOf_offerOrigin _ s

theorem stands_congr {k : ConditionKind} {i : Nat} {s t : State} (h : tableOf t = tableOf s) :
    Stands k i t ↔ Stands k i s := by
  obtain ⟨conditions, latches⟩ := Prod.mk.inj h
  rw [Stands, Stands, conditions, latches]

section stands

variable (k : ConditionKind) (a d : Nat) (s : State)

theorem stands_latchRaise (c : ConditionKind) (i : Nat) : Stands c i (latchRaise k s) ↔ Stands c i s := by
  obtain ⟨conditions, overflow⟩ := latchRaise_table k s
  rw [Stands, Stands, conditions, overflow]

/-- R143: a raise leaves in the table what it records there. -/
theorem stands_raise_iff (c : ConditionKind) (i : Nat) :
    Stands c i (raise k a d s) ↔ Stands c i (recorded (stamped k a d s) s) :=
  (stands_congr (tableOf_report ..)).trans (stands_latchRaise k _ c i)

/-- R143: what has been raised stands. -/
theorem raise_stands : Stands k a (raise k a d s) := by
  obtain ⟨self, -, -⟩ := recorded_keeps (stamped k a d s) s
  exact (stands_raise_iff k a d s k a).2 (self.imp (fun m => ⟨_, m, rfl, rfl, rfl⟩) id)

/-- R143: a raise replaces no ACTIVE entry but its own. -/
theorem Stands.after_raise {c : ConditionKind} {i : Nat} (h : Stands c i s) : Stands c i (raise k a d s) := by
  obtain ⟨-, others, overflow⟩ := recorded_keeps (stamped k a d s) s
  rcases h with ⟨e, m, rfl, rfl, active⟩ | full
  · by_cases same : sameCondition k a e = true
    · obtain ⟨kind, subject⟩ := Prod.mk.inj ((conditionKey_eq (stamped k a d s) e).1 same)
      rw [kind, subject]
      exact raise_stands k a d s
    · exact (stands_raise_iff ..).2 (.inl ⟨e, others e m active (Bool.not_eq_true _ ▸ same), rfl, rfl, active⟩)
  · exact (stands_raise_iff ..).2 (.inr (overflow full))

/-- R144: a clear touches the entries of its own kind alone. -/
theorem Stands.after_clear {c : ConditionKind} {i : Nat} (h : Stands c i s) (other : k ≠ c) :
    Stands c i (clear k a s) := by
  refine (stands_congr (tableOf_report ..)).2 (h.imp ?_ id)
  rintro ⟨e, m, rfl, rfl, active⟩
  have differs : sameCondition k a e = false := Bool.and_eq_false_imp.2 fun c => absurd (beq_iff_eq.1 c).symm other
  exact ⟨e, List.mem_map.2 ⟨e, m, if_neg (by simp [differs])⟩, rfl, rfl, active⟩

end stands

/-! ### What a revert keeps (R119, R169) -/

/-- From `s` to `t` MGMT_LOST keeps standing and every group keeps its cap. -/
structure RevertKeeps (s t : State) : Prop where
  lost : Stands .mgmtLost 0 s → Stands .mgmtLost 0 t
  caps : ∀ g, (t.group g).cap = (s.group g).cap

theorem RevertKeeps.refl (s : State) : RevertKeeps s s := ⟨id, fun _ => rfl⟩

theorem RevertKeeps.trans {s t u : State} (h : RevertKeeps s t) (k : RevertKeeps t u) : RevertKeeps s u :=
  ⟨k.lost ∘ h.lost, fun g => (k.caps g).trans (h.caps g)⟩

/-- A change that touches neither the Condition Table nor the groups. -/
theorem revertKeeps_of {s t : State} (c : tableOf t = tableOf s) (g : t.groups = s.groups) : RevertKeeps s t :=
  ⟨(stands_congr c).2, fun i => by rw [group_congr g]⟩

theorem revertKeeps_modGroup (s : State) (i : Nat) (f : Group → Group) (h : ∀ x, (f x).cap = x.cap) :
    RevertKeeps s (s.modGroup i f) := by
  refine ⟨id, fun g => ?_⟩
  rw [group_modGroup]
  split
  · exact h _
  · rfl

theorem revertKeeps_modZone (s : State) (i : Nat) (f : Zone → Zone) : RevertKeeps s (s.modZone i f) :=
  revertKeeps_of rfl rfl

theorem revertKeeps_count (c : CounterId) (s : State) : RevertKeeps s (count c s) := revertKeeps_of rfl rfl

theorem revertKeeps_foldl {α : Type} (f : State → α → State) (h : ∀ s a, RevertKeeps s (f s a)) (l : List α)
    (s : State) : RevertKeeps s (l.foldl f s) := by
  induction l generalizing s with
  | nil => exact .refl s
  | cons a l ih => exact (h s a).trans (ih _)

theorem revertKeeps_follow (k : ConditionKind) (a d : Nat) (x y : Bool) (s : State) (other : k ≠ .mgmtLost) :
    RevertKeeps s (follow k a d x y s) := by
  refine ⟨fun h => ?_, fun g => by rw [group_follow]⟩
  unfold follow
  split
  · exact h.after_raise k a d s
  · split
    · exact h.after_clear k a s other
    · exact h

/-! ### Evaluations (R102 to R112) -/

theorem revertKeeps_judgeLamp (z g : Nat) (s : State) : RevertKeeps s (judgeLamp z g s) := by
  unfold judgeLamp
  split
  · exact (revertKeeps_modGroup s g _ (by intro x; rfl)).trans (revertKeeps_follow _ _ _ _ _ _ (by decide))
  · exact .refl s

theorem revertKeeps_storeShadeRatio (z : Nat) (s : State) : RevertKeeps s (storeShadeRatio z s) := by
  unfold storeShadeRatio
  split
  · exact revertKeeps_modGroup s _ _ (by intro x; rfl)
  · exact .refl s

theorem revertKeeps_changeJudged (g : Nat) (f : Group → Group) (s : State) (h : ∀ x, (f x).cap = x.cap) :
    RevertKeeps s (changeJudged g f s) :=
  (revertKeeps_modGroup s g f h).trans (revertKeeps_follow _ _ _ _ _ _ (by decide))

theorem revertKeeps_commandGroup (g t : Nat) (s : State) : RevertKeeps s (commandGroup g t s) := by
  unfold commandGroup
  split
  · exact .refl s
  · split
    · refine RevertKeeps.trans (t := s.modGroup g fun gr => { gr with level := t, phase := .queued }) ?_
        (revertKeeps_of rfl rfl)
      exact revertKeeps_modGroup s g _ fun _ => rfl
    · exact revertKeeps_changeJudged g _ s (by intro x; rfl)

theorem revertKeeps_evaluate (z : Nat) (s : State) : RevertKeeps s (evaluate z s) :=
  ((revertKeeps_storeShadeRatio z s).trans (revertKeeps_foldl _ (fun s g => revertKeeps_judgeLamp z g s) _ _)).trans
    (revertKeeps_foldl _ (fun s (gt : Nat × Nat) => revertKeeps_commandGroup gt.1 gt.2 s) _ _)

theorem revertKeeps_requestCore (z : Nat) (s : State) : RevertKeeps s (requestCore z s) := by
  unfold requestCore
  split
  · exact revertKeeps_evaluate z s
  · exact revertKeeps_of rfl rfl

theorem revertKeeps_rejudgeZone (z : Nat) (s : State) : RevertKeeps s (rejudgeZone z s) := by
  unfold rejudgeZone
  split
  · exact (revertKeeps_modZone s z _).trans (revertKeeps_evaluate z _)
  · exact .refl s

/-! ### Grants (R28 to R30) -/

theorem revertKeeps_startSending (kind : TransactionKind) (f : Frame) (awaited accepts : Option Byte) (s : State) :
    RevertKeeps s (startSending kind f awaited accepts s) := by
  unfold startSending abandonForDrive
  dsimp only
  split
  · exact revertKeeps_of rfl rfl
  · exact revertKeeps_of rfl rfl

theorem revertKeeps_sendOwn (kind : TransactionKind) (dest frameKind : Byte) (payload : List Byte) (accepts : Byte)
    (s : State) : RevertKeeps s (sendOwn kind dest frameKind payload accepts s) :=
  RevertKeeps.trans (t := { s with gallerySeq := s.gallerySeq + 1 }) (revertKeeps_of rfl rfl)
    (revertKeeps_startSending ..)

theorem revertKeeps_grantCommand (s : State) : RevertKeeps s (grantCommand s) := by
  unfold grantCommand
  split
  · exact .refl s
  · next g rest _ =>
    refine RevertKeeps.trans (t := { s with galleryOrigin := rest }) (revertKeeps_of rfl rfl) ?_
    unfold presentCommand
    dsimp only
    split
    · exact (revertKeeps_modGroup _ g _ (by intro x; rfl)).trans (revertKeeps_sendOwn ..)
    · exact (revertKeeps_changeJudged g _ _ (by intro x; rfl)).trans (revertKeeps_rejudgeZone ..)

theorem revertKeeps_grantPoll (s : State) : RevertKeeps s (grantPoll s) := by
  unfold grantPoll
  split
  · exact .refl s
  · dsimp only
    split
    · exact (revertKeeps_count _ s).trans (revertKeeps_sendOwn ..)
    · exact revertKeeps_sendOwn ..

/-- R119: the part is UNATTENDED, and its settings say REVERT, so it declines the building side's LEVELs. -/
def Reverting (s : State) : Prop := s.supervision.attended = false ∧ s.device.supervisionAction = .revert

theorem Reverting.lit {s t : State} (r : Reverting s) (h : Lit s t) : Reverting t := by
  rwa [Reverting, h.supervision, h.device]

/-- R119: no LEVEL caps a group while the part is reverting. -/
theorem revertKeeps_presentLevel (f : Frame) (s : State) (r : Reverting s) : RevertKeeps s (presentLevel f s).1 := by
  unfold presentLevel
  split
  · exact .refl s
  · dsimp only
    split
    · split
      · exact revertKeeps_of rfl rfl
      · exact .refl s
    · split
      · exact .refl s
      · rw [if_pos (show s.supervision.attended = false ∧ s.device.supervisionAction = .revert from r)]
        exact revertKeeps_of rfl rfl

theorem revertKeeps_grantForward (s : State) (r : Reverting s) : RevertKeeps s (grantForward s) := by
  unfold grantForward
  split
  · exact .refl s
  · next f rest _ =>
    refine RevertKeeps.trans (t := { s with p2g := rest }) (revertKeeps_of rfl rfl) ?_
    have level := revertKeeps_presentLevel f { s with p2g := rest } r
    unfold presentForward
    split
    · split
      · next e =>
        rw [e] at level
        exact level.trans (revertKeeps_startSending ..)
      · next e =>
        rw [e] at level
        exact level
    · exact revertKeeps_startSending ..

theorem revertKeeps_grantOnce (c : GrantClass) (s : State) (r : Reverting s) : RevertKeeps s (grantOnce c s) := by
  refine RevertKeeps.trans (t := { s with pointer := classAfter c }) (revertKeeps_of rfl rfl) ?_
  cases c with
  | command => exact revertKeeps_grantCommand _
  | forward => exact revertKeeps_grantForward _ r
  | poll => exact revertKeeps_grantPoll _

theorem revertKeeps_grantLoop (fuel : Nat) (s : State) (r : Reverting s) : RevertKeeps s (grantLoop fuel s) := by
  induction fuel generalizing s with
  | zero => exact .refl s
  | succ fuel ih =>
    unfold grantLoop
    split
    · split
      · exact .refl s
      · next c _ => exact (revertKeeps_grantOnce c s r).trans (ih _ (r.lit (lit_grantOnce c s)))
    · exact .refl s

theorem revertKeeps_grantJoined (s : State) (r : Reverting s) : RevertKeeps s (grantJoined s) := by
  unfold grantJoined
  split
  · exact .refl s
  · exact revertKeeps_grantLoop _ s r

/-! ### The judgement of a mode (R101) -/

theorem revertKeeps_judgeModeCore (z : Nat) (s : State) : RevertKeeps s (judgeModeCore z s) := by
  unfold judgeModeCore
  split
  · exact (revertKeeps_modZone s z _).trans (revertKeeps_requestCore z _)
  · exact .refl s

theorem revertKeeps_judgeMode (z : Nat) (s : State) (r : Reverting s) : RevertKeeps s (judgeMode z s) := by
  unfold judgeMode
  split
  · refine (revertKeeps_judgeModeCore z s).trans (revertKeeps_grantJoined _ ?_)
    have frame := exceptModes_judgeModeCore z s
    have device : (judgeModeCore z s).device = s.device := (congrArg State.device frame :)
    have supervision : (judgeModeCore z s).supervision = s.supervision := (congrArg State.supervision frame :)
    rwa [Reverting, supervision, device]
  · exact .refl s

end Sys2Proof.Machine
end

section
/-! PROOF. The supervision window (O36): PRESENCE and the restart of the timer, the expiry, and the revert of the
zones. -/

namespace Sys2Proof.Machine

/-! ### PRESENCE (R168, R170) -/

theorem becomeAttended_attended (s : State) (h : s.supervision.attended = true) : becomeAttended s = s := if_pos h

theorem becomeAttended_unattended (s : State) (h : s.supervision.attended = false) : becomeAttended s =
    clear .mgmtLost 0 { s with supervision := ⟨true, s.supervision.timer⟩ } := if_neg (by simp [h])

theorem supervisionRestart_closed (s : State) (h : s.device.supervisionWindow = 0) : supervisionRestart s = s :=
  if_pos h

theorem supervisionRestart_open (s : State) (h : s.device.supervisionWindow ≠ 0) : supervisionRestart s =
    { becomeAttended s with
      supervision := ⟨true, some (s.now + s.device.supervisionWindow * unitsPerSecond)⟩ } := by
  rw [supervisionRestart, if_neg h, ← attended_becomeAttended s]
  simp only [windowEnd, now_becomeAttended, device_becomeAttended]

/-! ### The revert of the zones (R101, R169) -/

theorem revertZone_eq (z : Nat) (s : State) : revertZone z s =
    if (s.zone z).modeSource = .forced then judgeMode z (s.modZone z fun zn => { zn with modeSource := .auto })
    else s := by
  unfold revertZone
  cases h : (s.zone z).modeSource with
  | forced => rfl
  | auto => rfl

/-- R169: a zone after the revert. -/
def revertedZone (c : Calendar) (z : Zone) : Zone :=
  match z.modeSource with
  | .forced => modeJudged c { z with modeSource := .auto }
  | .auto => z

theorem revertedZone_zoneSettings (c : Calendar) (z : Zone) :
    revertedZone c (zoneSettings z) = zoneSettings (revertedZone c z) := by
  unfold revertedZone
  cases h : z.modeSource with
  | forced => simp only [zoneSettings, h, modeJudged, judgedMode]
  | auto => simp only [zoneSettings, h]

theorem revertedZone_fields (c : Calendar) (z : Zone) : (revertedZone c z).modeSource = .auto ∧
    (revertedZone c z).forcedMode = z.forcedMode ∧ (revertedZone c z).mode =
      if z.modeSource = .forced ∧ z.enable = true then judgedMode c { z with modeSource := .auto } else z.mode := by
  unfold revertedZone
  cases h : z.modeSource with
  | forced => exact ⟨rfl, rfl, by simp [modeJudged]⟩
  | auto => exact ⟨h, rfl, by simp⟩

theorem lit_judgeMode_core (z : Nat) (s : State) : Lit (judgeModeCore z s) (judgeMode z s) := by
  unfold judgeMode
  split
  · exact lit_grantJoined _
  · next same =>
    rw [judgeModeCore, if_neg same]
    exact .refl s

theorem zone_revertZone (z j : Nat) (s : State) (l : j < 24) : zoneSettings ((revertZone z s).zone j) =
    zoneSettings (if z = j then revertedZone s.calendar (s.zone j) else s.zone j) := by
  rw [revertZone_eq]
  by_cases forced : (s.zone z).modeSource = .forced
  · rw [if_pos forced, (lit_judgeMode_core z _).zone, zone_judgeModeCore]
    by_cases e : z = j
    · subst e
      rw [if_pos rfl, if_pos rfl, zone_modZone_self _ _ _ l, revertedZone, forced]
      rfl
    · rw [if_neg e, if_neg e, zone_modZone_other _ _ _ _ e]
  · rw [if_neg forced]
    split
    · next e =>
      subst e
      unfold revertedZone
      split
      · next h => exact absurd h forced
      · rfl
    · rfl

/-- The state but for the zones and what evaluations and grants change. -/
def exceptZones (s : State) : State := { exceptLight s with zones := Vector.replicate 24 factoryZone }

theorem exceptZones_judgeMode (z : Nat) (s : State) : exceptZones (judgeMode z s) = exceptZones s :=
  congrArg (fun u : State => { u with zones := Vector.replicate 24 factoryZone }) (judgesMode_judgeMode z s).1

theorem exceptZones_revertZone (z : Nat) (s : State) : exceptZones (revertZone z s) = exceptZones s := by
  rw [revertZone_eq]
  split
  · exact exceptZones_judgeMode z _
  · rfl

theorem exceptZones_revertZones (s : State) : exceptZones (revertZones s) = exceptZones s :=
  forEach_invariant revertZone (fun _ u => exceptZones u = exceptZones s) s 24 rfl
    fun z _ u h => (exceptZones_revertZone z u).trans h

theorem fields_exceptZones {s t : State} (h : exceptZones t = exceptZones s) : t.supervision = s.supervision ∧
    t.nodes = s.nodes ∧ t.points = s.points ∧ t.objects = s.objects ∧ t.device = s.device ∧
    t.calendar = s.calendar ∧ t.store = s.store :=
  ⟨(congrArg State.supervision h :), (congrArg State.nodes h :), (congrArg State.points h :),
    (congrArg State.objects h :), (congrArg State.device h :), (congrArg State.calendar h :),
    (congrArg State.store h :)⟩

/-- R169: every zone is reverted once, by the Calendar as it stands. -/
theorem zone_revertZones (s : State) (z : Nat) (l : z < 24) :
    zoneSettings ((revertZones s).zone z) = zoneSettings (revertedZone s.calendar (s.zone z)) := by
  have turn : ∀ i u, (fun v : State => (v.calendar, zoneSettings (v.zone z))) (revertZone i u) =
      if i = z then (u.calendar, revertedZone u.calendar (zoneSettings (u.zone z)))
      else (u.calendar, zoneSettings (u.zone z)) := fun i u => by
    obtain ⟨-, -, -, -, -, calendar, -⟩ := fields_exceptZones (exceptZones_revertZone i u)
    dsimp only
    rw [calendar, zone_revertZone i z u l, revertedZone_zoneSettings]
    split
    · rfl
    · rfl
  have entry := forEach_entry (fun v : State => (v.calendar, zoneSettings (v.zone z))) z revertZone
    (fun p => (p.1, revertedZone p.1 p.2)) turn 24 s
  rw [if_pos l] at entry
  exact (congrArg Prod.snd entry).trans (revertedZone_zoneSettings ..)

theorem revertKeeps_revertZone (z : Nat) (s : State) (r : Reverting s) : RevertKeeps s (revertZone z s) := by
  rw [revertZone_eq]
  split
  · exact (revertKeeps_modZone s z _).trans (revertKeeps_judgeMode z _ r)
  · exact .refl s

theorem revertKeeps_revertZones (s : State) (r : Reverting s) : RevertKeeps s (revertZones s) := by
  refine (forEach_invariant revertZone (fun _ u => Reverting u ∧ RevertKeeps s u) s 24 ⟨r, .refl s⟩ ?_).2
  rintro z - u ⟨ru, keeps⟩
  obtain ⟨supervision, -, -, -, device, -⟩ := fields_exceptZones (exceptZones_revertZone z u)
  exact ⟨by rwa [Reverting, supervision, device], keeps.trans (revertKeeps_revertZone z u ru)⟩

/-! ### SUPERVISION_EXPIRY (R169) -/

/-- R169: the part as the window's end leaves it, before a revert. -/
def unattended (s : State) : State := raise .mgmtLost 0 0 { s with supervision := ⟨false, none⟩ }

theorem supervisionExpiry_running (s : State) (e : Nat) (h : s.supervision.timer = some e) : supervisionExpiry s =
    match s.device.supervisionAction with
    | .hold => unattended s
    | .revert => revertZones (unattended s) := by
  have action : (raise .mgmtLost 0 0 { s with supervision := ⟨false, none⟩ }).device.supervisionAction =
      s.device.supervisionAction := congrArg Device.supervisionAction (device_raise ..)
  simp only [supervisionExpiry, h, action]
  rfl

/-- Settles O36: PRESENCE by the restart's equations, the expiry by what the revert does to each zone
(`zone_revertZones`), leaves (`exceptZones_revertZones`) and keeps (`revertKeeps_revertZones`). -/
theorem supervisionWindow : Obligations.SupervisionWindow := by
  refine ⟨fun f s => ?_, fun s e running => ?_⟩
  · intro u
    refine ⟨fun closed => congrArg Host.Outcome.next (supervisionRestart_closed u closed), fun window => ?_⟩
    refine ⟨_, congrArg Host.Outcome.next (supervisionRestart_open u window), rfl, fun on => ?_, fun off => ?_⟩
    · rw [becomeAttended_attended u on]
    · rw [becomeAttended_unattended u off]
      rfl
  · intro u
    have expiry := supervisionExpiry_running (taken .supervisionExpiry s) e running
    have revert (a : s.device.supervisionAction = .revert) :
        exec .supervisionExpiry s = .next (revertZones u) := by
      refine congrArg Host.Outcome.next (expiry.trans ?_)
      rw [show (taken .supervisionExpiry s).device.supervisionAction = .revert from a]
      rfl
    refine ⟨fun hold => ?_, fun a => (revert a).trans ?_, fun a => ⟨_, revert a, ?_⟩⟩
    · refine congrArg Host.Outcome.next (expiry.trans ?_)
      rw [show (taken .supervisionExpiry s).device.supervisionAction = .hold from hold]
      rfl
    · have turns : (fun (v : State) z => revertZone z v) = fun v z =>
          if (v.zone z).modeSource = .forced then judgeMode z (v.modZone z fun zn => { zn with modeSource := .auto })
          else v := funext fun v => funext fun z => revertZone_eq z v
      rw [revertZones, forEach, turns]
    · have raised : Reported { taken .supervisionExpiry s with supervision := ⟨false, none⟩ } u :=
        reported_raise .mgmtLost 0 0 _
      have reverting : Reverting u := by
        rw [Reverting, raised.supervision, raised.device]
        exact ⟨rfl, a⟩
      obtain ⟨lost, caps⟩ := revertKeeps_revertZones u reverting
      obtain ⟨supervision, nodes, points, objects, device, calendar, store⟩ :=
        fields_exceptZones (exceptZones_revertZones u)
      refine ⟨supervision.trans raised.supervision, lost (raise_stands ..), fun z l => ?_,
        fun g => (caps g).trans (congrArg Group.cap (raised.group g)), nodes.trans raised.nodes,
        points.trans raised.points, objects.trans raised.objects, device.trans raised.device,
        calendar.trans raised.calendar, store.trans raised.store⟩
      have settings := zone_revertZones u z l
      rw [raised.calendar, raised.zone] at settings
      obtain ⟨source, forcedMode, mode⟩ := revertedZone_fields s.calendar (s.zone z)
      exact ⟨(congrArg Zone.modeSource settings :).trans source,
        (congrArg Zone.forcedMode settings :).trans forcedMode, (congrArg Zone.mode settings :).trans mode⟩

end Sys2Proof.Machine
end

section
/-! PROOF. The setpoints that every step keeps (O57). -/

namespace Sys2Proof.Machine

/-- Settles O57: every command, and the passing of time, keeps each setpoint within its narrowed band or at its
midpoint. -/
theorem everyStepKeepsSetpointsInBand : Obligations.EveryStepKeepsSetpointsInBand := by
  unfold Obligations.EveryStepKeepsSetpointsInBand
  exact fun s t h run => (keeps_step s t run).setpoints h

end Sys2Proof.Machine
end

section
/-! PROOF. The minute of a zone and the band machines (O34). -/

namespace Sys2Proof.Machine

/-! ### The narrowed band (R123, R127) -/

theorem nLo_eq (c : Climate) : nLo c =
    if c.hi - c.hysteresis < c.lo + c.hysteresis then (c.lo + c.hi) / 2 else c.lo + c.hysteresis := by
  simp only [nLo, narrowEmpty, midpoint, decide_eq_true_eq]

theorem nHi_eq (c : Climate) : nHi c =
    if c.hi - c.hysteresis < c.lo + c.hysteresis then (c.lo + c.hi) / 2 else c.hi - c.hysteresis := by
  simp only [nHi, narrowEmpty, midpoint, decide_eq_true_eq]

theorem clampSetpoint_eq (c : Climate) :
    clampSetpoint c = { c with setpoint := max (nLo c) (min (nHi c) c.setpoint) } := by
  have order := nLo_le_nHi c
  have setpoint : (if c.setpoint < nLo c then nLo c else if nHi c < c.setpoint then nHi c else c.setpoint) =
      max (nLo c) (min (nHi c) c.setpoint) := by
    split
    · omega
    · split
      · omega
      · omega
  rw [clampSetpoint, setpoint]

/-! ### The persistence test (R136) -/

section moves

variable {p n : Nat} {c : Climate} {v : Int} {b : BandState} {cleared : Bool}

/-- A move that is tested completes where its timer has reached the persistence. -/
theorem rises_of (m : bandMove c v = ⟨b, n, cleared, true⟩) :
    if p ≤ n then movedBand p (bandMove c v) c = { c with band := persisted b, timer := 0 }
    else movedBand p (bandMove c v) c = { c with band := b, timer := n } := by
  rw [m]
  simp only [movedBand, moveCompletes, Bool.true_and, decide_eq_true_eq]
  split
  · rfl
  · rfl

/-- A crossing clears the excursion and starts towards the other one. -/
theorem crosses_of (m : bandMove c v = ⟨b, n, true, true⟩) :
    (if p ≤ n then movedBand p (bandMove c v) c = { c with band := persisted b, timer := 0 }
      else movedBand p (bandMove c v) c = { c with band := b, timer := n }) ∧ (bandMove c v).cleared = true :=
  ⟨rises_of m, congrArg BandMove.cleared m⟩

theorem goes_of (m : bandMove c v = ⟨b, n, cleared, false⟩) :
    movedBand p (bandMove c v) c = { c with band := b, timer := n } := by
  rw [m]
  rfl

theorem stays_of (h : c.band = b) (m : bandMove c v = ⟨b, n, cleared, false⟩) :
    movedBand p (bandMove c v) c = { c with timer := n } := by
  rw [goes_of m, ← h]

end moves

/-! ### The moves (R133 to R135) -/

section bandMove

variable {c : Climate} {v : Int}

theorem bandMove_inBand (h : c.band = .inBand) : bandMove c v =
    if c.hi < v then ⟨.pendingHigh, 1, false, true⟩ else if v < c.lo then ⟨.pendingLow, 1, false, true⟩
    else ⟨.inBand, 0, false, false⟩ := by
  simp only [bandMove, h, aboveBand, belowBand, decide_eq_true_eq]

theorem bandMove_pendingHigh (h : c.band = .pendingHigh) : bandMove c v =
    if c.hi < v then ⟨.pendingHigh, c.timer + 1, false, true⟩
    else if v < c.lo then ⟨.pendingLow, 1, false, true⟩ else ⟨.inBand, 0, false, false⟩ := by
  simp only [bandMove, h, aboveBand, belowBand, decide_eq_true_eq]

theorem bandMove_pendingLow (h : c.band = .pendingLow) : bandMove c v =
    if v < c.lo then ⟨.pendingLow, c.timer + 1, false, true⟩
    else if c.hi < v then ⟨.pendingHigh, 1, false, true⟩ else ⟨.inBand, 0, false, false⟩ := by
  simp only [bandMove, h, aboveBand, belowBand, decide_eq_true_eq]

theorem bandMove_high (h : c.band = .high) : bandMove c v =
    if v < c.lo then ⟨.pendingLow, 1, true, true⟩
    else if c.hi < v ∨ nHi c < v then ⟨.high, 0, false, false⟩ else ⟨.returningHigh, 1, false, true⟩ := by
  simp only [bandMove, h, aboveBand, belowBand, Bool.or_eq_true, decide_eq_true_eq]

theorem bandMove_low (h : c.band = .low) : bandMove c v =
    if c.hi < v then ⟨.pendingHigh, 1, true, true⟩
    else if v < c.lo ∨ v < nLo c then ⟨.low, 0, false, false⟩ else ⟨.returningLow, 1, false, true⟩ := by
  simp only [bandMove, h, aboveBand, belowBand, Bool.or_eq_true, decide_eq_true_eq]

theorem bandMove_returningHigh (h : c.band = .returningHigh) : bandMove c v =
    if c.hi < v then ⟨.high, 0, false, false⟩ else if v < c.lo then ⟨.pendingLow, 1, true, true⟩
    else if nLo c ≤ v ∧ v ≤ nHi c then ⟨.returningHigh, c.timer + 1, false, true⟩
    else ⟨.returningHigh, c.timer, false, false⟩ := by
  simp only [bandMove, h, aboveBand, belowBand, insideNarrow, decide_eq_true_eq]

theorem bandMove_returningLow (h : c.band = .returningLow) : bandMove c v =
    if v < c.lo then ⟨.low, 0, false, false⟩ else if c.hi < v then ⟨.pendingHigh, 1, true, true⟩
    else if nLo c ≤ v ∧ v ≤ nHi c then ⟨.returningLow, c.timer + 1, false, true⟩
    else ⟨.returningLow, c.timer, false, false⟩ := by
  simp only [bandMove, h, aboveBand, belowBand, insideNarrow, decide_eq_true_eq]

end bandMove

/-! ### The condition of a machine (R136) -/

theorem stepBand_unknown (q : ClimateQuantity) (z : Nat) (s : State) (h : (climateOf q (s.zone z)).value = none) :
    stepBand q z s = s := by
  simp only [stepBand, h]

theorem stepBand_known (q : ClimateQuantity) (z : Nat) (v : Int) (s : State)
    (h : (climateOf q (s.zone z)).value = some v) :
    let move := bandMove (climateOf q (s.zone z)) v
    let w := s.modZone z fun zn => withClimate q (movedBand zn.persistence move (climateOf q zn)) zn
    stepBand q z s = if move.tested = true ∧ (s.zone z).persistence ≤ move.timer
      then bandCondition q z move.band (clearIf move.cleared (excursionKind q) z w)
      else clearIf move.cleared (excursionKind q) z w := by
  simp only [stepBand, h, moveCompletes, Bool.and_eq_true, decide_eq_true_eq]

theorem reported_bandCondition (q : ClimateQuantity) (z : Nat) (b : BandState) (s : State) :
    Reported s (bandCondition q z b s) := by
  cases b with
  | pendingHigh | pendingLow => exact reported_raise ..
  | returningHigh | returningLow => exact reported_clear ..
  | inBand | high | low => exact .refl s

/-! ### What a step leaves of the zone's record -/

/-- One quantity of a zone after its machine's step. -/
def steppedClimate (persistence : Nat) (c : Climate) : Climate :=
  match c.value with
  | none => c
  | some v => movedBand persistence (bandMove c v) c

/-- The zone after the step of one machine. -/
def bandStepped (q : ClimateQuantity) (zn : Zone) : Zone :=
  withClimate q (steppedClimate zn.persistence (climateOf q zn)) zn

theorem bandStepped_unknown (q : ClimateQuantity) (zn : Zone) (h : (climateOf q zn).value = none) :
    bandStepped q zn = zn := by
  simp only [bandStepped, steppedClimate, h]
  cases q with
  | rh | temp => rfl

theorem bandStepped_known (q : ClimateQuantity) (zn : Zone) (v : Int) (h : (climateOf q zn).value = some v) :
    bandStepped q zn = withClimate q (movedBand zn.persistence (bandMove (climateOf q zn) v) (climateOf q zn)) zn := by
  simp only [bandStepped, steppedClimate, h]

/-- A machine's step is a change of its zone's record, and reports. -/
theorem reported_stepBand (q : ClimateQuantity) (z : Nat) (s : State) :
    Reported (s.modZone z (bandStepped q)) (stepBand q z s) := by
  cases h : (climateOf q (s.zone z)).value with
  | none =>
    rw [stepBand_unknown q z s h, modZone_same s z _ (bandStepped_unknown q _ h)]
    exact .refl s
  | some v =>
    rw [stepBand_known q z v s h, modZone_at s z (bandStepped q), bandStepped_known q _ v h, ← modZone_at s z fun zn =>
      withClimate q (movedBand zn.persistence (bandMove (climateOf q (s.zone z)) v) (climateOf q zn)) zn]
    split
    · exact (reported_clearIf ..).trans (reported_bandCondition ..)
    · exact reported_clearIf ..

theorem Reported.modZone {s t : State} (h : Reported s t) (z : Nat) (f : Zone → Zone) :
    Reported (s.modZone z f) (t.modZone z f) where
  frame := congrArg (fun u : State => u.modZone z f) h.frame
  queues q :=
    have k := h.queues ⟨q.g2p, q.p2g, q.origin, q.trims⟩
    ⟨k.g2p, k.p2g, k.origin, k.trims⟩
  table q :=
    have k := h.table ⟨q.length, q.keys⟩
    ⟨k.length, k.keys⟩

/-! ### The values of a zone (R130, R131) -/

/-- The enabled points of a zone that read a quantity. -/
def zonePoints (points : Vector Point 192) (z : Nat) (q : Quantity) : List Point :=
  points.toList.filter fun p => p.enable && p.zone == z && p.quantity == q

/-- Those of them that give the zone's value. -/
def freshPoints (points : Vector Point 192) (z : Nat) (q : Quantity) : List Point :=
  (zonePoints points z q).filter fun p => p.state == .fresh || p.state == .held

/-- R130: the rounded mean of some points, where there are any. -/
def pointsMean (l : List Point) : Option Int :=
  if l = [] then none else some ((2 * (l.map Point.value).sum + l.length) / (2 * l.length))

/-- R131: points, and no value. -/
def pointsBlind (points : Vector Point 192) (z : Nat) (q : Quantity) : Bool :=
  !(zonePoints points z q).isEmpty && (pointsMean (freshPoints points z q)).isNone

theorem zoneValue_eq (s : State) (z : Nat) (q : ClimateQuantity) :
    zoneValue s z q = pointsMean (freshPoints s.points z (pointQuantity q)) := by
  have used : usedPoints s z q = freshPoints s.points z (pointQuantity q) := by
    rw [freshPoints, zonePoints, List.filter_filter]
    exact congrArg (fun f => s.points.toList.filter f) (funext fun p => Bool.and_comm _ _)
  simp only [zoneValue, used, pointsMean, roundedMean, List.isEmpty_iff, List.map_eq_nil_iff, List.length_map]

theorem hasPoint_eq (s : State) (z : Nat) (q : ClimateQuantity) :
    hasPoint s z q = !(zonePoints s.points z (pointQuantity q)).isEmpty := by
  rw [hasPoint, ← Vector.any_toList, zonePoints, Bool.eq_iff_iff, List.any_eq_true, Bool.not_eq_true',
    List.isEmpty_eq_false_iff_exists_mem]
  simp only [List.mem_filter]

theorem pointsBlind_iff (points : Vector Point 192) (z : Nat) (q : Quantity) : pointsBlind points z q = true ↔
    zonePoints points z q ≠ [] ∧ pointsMean (freshPoints points z q) = none := by
  simp only [pointsBlind, Bool.and_eq_true, Bool.not_eq_true', List.isEmpty_eq_false_iff, Option.isNone_iff_eq_none]

theorem blindDetail_eq (rh temp : Bool) :
    blindDetail rh temp = if rh then (if temp then 3 else 1) else if temp then 2 else 0 := by
  cases rh <;> cases temp <;> rfl

/-! ### One zone at a minute tick (R129 to R132) -/

/-- The zone with its values formed and BLIND judged. -/
def valuesJudged (points : Vector Point 192) (z : Nat) (zn : Zone) : Zone := { zn with
  rh := { zn.rh with value := pointsMean (freshPoints points z .rh) }
  temp := { zn.temp with value := pointsMean (freshPoints points z .temp) }
  blind := pointsBlind points z .rh || pointsBlind points z .temp }

/-- The state with the zone's values formed and BLIND judged, ZONE_BLIND following. -/
def blindFollowed (z : Nat) (s : State) : State :=
  follow .zoneBlind z (blindDetail (pointsBlind s.points z .rh) (pointsBlind s.points z .temp)) (s.zone z).blind
    (pointsBlind s.points z .rh || pointsBlind s.points z .temp)
    (s.modZone z fun _ => valuesJudged s.points z (s.zone z))

theorem judgeBlind_formValues (z : Nat) (s : State) (l : z < 24) :
    judgeBlind z (formValues z s) = blindFollowed z s := by
  have formed : (formValues z s).zone z = { s.zone z with
      rh := { (s.zone z).rh with value := zoneValue s z .rh }
      temp := { (s.zone z).temp with value := zoneValue s z .temp } } := zone_modZone_self _ _ _ l
  have blind (q : ClimateQuantity) : quantityBlind (formValues z s) z q = pointsBlind s.points z (pointQuantity q) := by
    have value : (climateOf q ((formValues z s).zone z)).value = zoneValue s z q := by
      rw [formed]
      cases q with
      | rh | temp => rfl
    rw [quantityBlind, value, zoneValue_eq, hasPoint_eq]
    rfl
  have record : (formValues z s).modZone z (fun zn =>
      { zn with blind := pointsBlind s.points z .rh || pointsBlind s.points z .temp }) =
      s.modZone z fun _ => valuesJudged s.points z (s.zone z) := by
    rw [formValues, zoneValue_eq, zoneValue_eq, modZone_modZone, modZone_at]
    rfl
  rw [judgeBlind, blind .rh, blind .temp, blindFollowed, ← record, formed]
  rfl

theorem climateMinuteZone_enabled (z : Nat) (s : State) (l : z < 24) (on : (s.zone z).enable = true) :
    climateMinuteZone z s = stepBand .temp z (stepBand .rh z
      ((blindFollowed z s).modZone z fun _ => addToHour (valuesJudged s.points z (s.zone z)))) := by
  have record : (blindFollowed z s).zone z = valuesJudged s.points z (s.zone z) :=
    (zone_follow ..).trans (zone_modZone_self _ _ _ l)
  rw [climateMinuteZone, if_pos on, judgeBlind_formValues z s l, modZone_at, record]

theorem climateMinuteZone_disabled (z : Nat) (s : State) (off : (s.zone z).enable = false) :
    climateMinuteZone z s = s := if_neg (Bool.eq_false_iff.1 off)

theorem addToHour_none (zn : Zone) (h : zn.rh.value = none) : addToHour zn = zn := by
  simp only [addToHour, h]

theorem addToHour_some (zn : Zone) (v : Int) (h : zn.rh.value = some v) : addToHour zn = { zn with
    hourSum := min 4294967295 (zn.hourSum + v.toNat), hourCount := min 65535 (zn.hourCount + 1) } := by
  simp only [addToHour, h]
  rfl

/-- What a minute tick makes of the record of a zone, from the points that it reads. -/
def minuteZone (points : Vector Point 192) (z : Nat) (zn : Zone) : Zone :=
  if zn.enable then bandStepped .temp (bandStepped .rh (addToHour (valuesJudged points z zn))) else zn

/-- The minute of a zone is a change of its record, and reports. -/
theorem reported_climateMinuteZone (z : Nat) (s : State) (l : z < 24) :
    Reported (s.modZone z (minuteZone s.points z)) (climateMinuteZone z s) := by
  by_cases on : (s.zone z).enable = true
  · have added : Reported (s.modZone z fun _ => addToHour (valuesJudged s.points z (s.zone z)))
        ((blindFollowed z s).modZone z fun _ => addToHour (valuesJudged s.points z (s.zone z))) := by
      have judged : Reported (s.modZone z fun _ => valuesJudged s.points z (s.zone z)) (blindFollowed z s) :=
        reported_follow ..
      have turned := judged.modZone z fun _ => addToHour (valuesJudged s.points z (s.zone z))
      rwa [modZone_modZone] at turned
    have stepped := ((added.modZone z (bandStepped .rh)).trans (reported_stepBand .rh z _)).modZone z (bandStepped .temp)
    have whole := stepped.trans (reported_stepBand .temp z _)
    rw [modZone_modZone, modZone_modZone, ← climateMinuteZone_enabled z s l on] at whole
    rw [modZone_at, minuteZone, if_pos on]
    exact whole
  · rw [climateMinuteZone_disabled z s (Bool.eq_false_iff.2 on), modZone_same s z (minuteZone s.points z) (if_neg on)]
    exact .refl s

/-- R129: zones are independent; each enabled one has its minute. -/
theorem zone_climateMinute (s : State) (z : Nat) (l : z < 24) :
    (climateMinute s).zone z = minuteZone s.points z (s.zone z) := by
  have turns : (climateMinute s).points = s.points ∧
      (climateMinute s).zone z = if z < 24 then minuteZone s.points z (s.zone z) else s.zone z := by
    refine forEach_invariant climateMinuteZone (fun k u => u.points = s.points ∧
      u.zone z = if z < k then minuteZone s.points z (s.zone z) else s.zone z) s 24 ⟨rfl, rfl⟩ ?_
    rintro y m u ⟨points, zone⟩
    have turn := reported_climateMinuteZone y u m
    refine ⟨turn.points.trans points, ?_⟩
    rw [turn.zone, points]
    by_cases own : y = z
    · subst own
      rw [zone_modZone_self _ _ _ l, zone, if_neg (Nat.lt_irrefl y), if_pos (Nat.lt_succ_self y)]
    · rw [zone_modZone_other _ _ _ _ own, zone]
      exact if_congr (by omega) rfl rfl
  obtain ⟨-, zone⟩ := turns
  exact zone.trans (if_pos l)

/-! ### The zone's record at the tick -/

/-- The minute neither reads nor writes a zone's mode and its waiting evaluation. -/
theorem zoneOfMode_minuteZone (points : Vector Point 192) (z : Nat) (zn : Zone) :
    zoneOfMode (minuteZone points z zn) = minuteZone points z (zoneOfMode zn) := by
  have added (x : Zone) : zoneOfMode (addToHour x) = addToHour (zoneOfMode x) := by
    cases h : x.rh.value with
    | none => rw [addToHour_none x h, addToHour_none (zoneOfMode x) h]
    | some v => rw [addToHour_some x v h, addToHour_some (zoneOfMode x) v h]; rfl
  have enable : (zoneOfMode zn).enable = zn.enable := rfl
  rw [minuteZone, minuteZone, enable]
  split
  · show bandStepped .temp (bandStepped .rh (zoneOfMode (addToHour (valuesJudged points z zn)))) = _
    rw [added]
    rfl
  · rfl

theorem exceptObjects_accrue (t : Tick) (s : State) : exceptObjects (accrue t s) = exceptObjects s :=
  forEach_invariant (accrueObject t) (fun _ u => exceptObjects u = exceptObjects s) s 256 rfl
    fun i _ u h => (exceptObjects_accrueObject t i u).trans h

/-- What the readers' minute leaves of a zone: its own minute, its mode apart. -/
theorem zone_readersMinute (t : Tick) (s : State) (z : Nat) (l : z < 24) :
    zoneOfMode ((readersMinute t s).zone z) = minuteZone s.points z (zoneOfMode (s.zone z)) := by
  have accrued := exceptObjects_accrue t s
  obtain ⟨-, -, -, points, -⟩ := fields_exceptObjects accrued
  obtain ⟨judged, -⟩ := judgesMode_judgeMode.foldl (List.range 24) (accrue t s)
  obtain ⟨-, -, -, points', -⟩ := fields_exceptModes judged
  have settings : zoneOfMode ((accrue t s).zone z) = zoneOfMode (s.zone z) :=
    congrArg (fun zn : Zone => { zn with mode := .dark }) (zone_exceptObjects accrued z)
  have mode : zoneOfMode ((judgeModes (accrue t s)).zone z) = zoneOfMode ((accrue t s).zone z) :=
    zoneOfMode_eq judged z
  have read : (judgeModes (accrue t s)).points = s.points := points'.trans points
  rw [readersMinute, zone_climateMinute _ z l, zoneOfMode_minuteZone, read, mode, settings]

/-- R64, R129: what a tick leaves of a zone, its mode apart. -/
theorem zone_minuteTick (m : Bool) (s : State) (z : Nat) (l : z < 24) :
    zoneOfMode ((minuteTick m s).zone z) = minuteZone (tickReads m s).points z (zoneOfMode (s.zone z)) := by
  obtain ⟨nodes, points, -, zones⟩ := tables_advanceCalendar s
  have zone (u : State) (h : u.zones = (advanceCalendar s).zones) : u.zone z = s.zone z := zone_congr (h.trans zones) z
  cases m with
  | true =>
    have judged : (judgePoints (advanceCalendar s)).points = (judgePoints s).points := by
      simp only [judgePoints, points, node_congr nodes]
    have run : minuteTick true s = readersMinute (tickOf s.calendar) (judgePoints (advanceCalendar s)) := rfl
    rw [run, zone_readersMinute _ _ z l, judged, zone (judgePoints (advanceCalendar s)) rfl, tickReads, if_pos rfl]
  | false =>
    have run : minuteTick false s = judgePoints (readersMinute (tickOf s.calendar) (advanceCalendar s)) := rfl
    have later (u : State) : (judgePoints u).zone z = u.zone z := rfl
    rw [run, later, zone_readersMinute _ _ z l, points, zone (advanceCalendar s) rfl]
    rfl

/-- R130 to R136: the record of an enabled zone after its minute, field by field. -/
theorem minuteZone_fields (points : Vector Point 192) (z : Nat) (zn : Zone) (on : zn.enable = true) :
    let value := fun q => pointsMean (freshPoints points z q)
    let x := minuteZone points z zn
    x.rh = steppedClimate zn.persistence { zn.rh with value := value .rh } ∧
      x.temp = steppedClimate zn.persistence { zn.temp with value := value .temp } ∧
      x.blind = (pointsBlind points z .rh || pointsBlind points z .temp) ∧
      (value .rh = none → x.hourSum = zn.hourSum ∧ x.hourCount = zn.hourCount) ∧
      (∀ v, value .rh = some v → x.hourSum = min 4294967295 (zn.hourSum + v.toNat) ∧
        x.hourCount = min 65535 (zn.hourCount + 1)) ∧
      x.ring = zn.ring ∧ x.drift = zn.drift ∧ x.span = zn.span := by
  intro value x
  have record : x = bandStepped .temp (bandStepped .rh (addToHour (valuesJudged points z zn))) := if_pos on
  by_cases h : value .rh = none
  · rw [addToHour_none (valuesJudged points z zn) h] at record
    rw [record]
    exact ⟨rfl, rfl, rfl, fun _ => ⟨rfl, rfl⟩, fun v known => absurd (h.symm.trans known) nofun, rfl, rfl, rfl⟩
  · obtain ⟨y, known⟩ := Option.ne_none_iff_exists'.1 h
    rw [addToHour_some (valuesJudged points z zn) y known] at record
    rw [record]
    refine ⟨rfl, rfl, rfl, fun unknown => absurd unknown h, fun v known' => ?_, rfl, rfl, rfl⟩
    obtain rfl : y = v := Option.some.inj (known.symm.trans known')
    exact ⟨rfl, rfl⟩

/-! ### O34 -/

/-- R133 to R136: one quantity after a minute, from the value that it forms. -/
theorem steppedClimate_eq (persistence : Nat) (c : Climate) (value : Option Int) :
    steppedClimate persistence { c with value := value } = match value with
      | none => { c with value := none }
      | some x => movedBand persistence (bandMove { c with value := value } x) { c with value := value } := by
  cases value with
  | none | some x => rfl

/-- Settles O34: the band by its equations, the minute of a zone by `climateMinuteZone_enabled`, the tick by
`zone_minuteTick` and `minuteZone_fields`, a machine's step by `stepBand_known` and its moves state by state. -/
theorem bandMachineSteps : Obligations.BandMachineSteps := by
  refine ⟨fun c => ?_, fun z s l => ?_, stepBand_unknown, fun m s z rolls l on => ?_, fun q z v s known => ?_,
    fun c v persistence order => ?_⟩
  · intro empty mid
    exact ⟨nLo_eq c, nHi_eq c, clampSetpoint_eq c⟩
  · intro zn points used value blindOf blind detail x judged summed
    refine ⟨climateMinuteZone_disabled z s, fun on => (climateMinuteZone_enabled z s l on).trans ?_⟩
    have followed : blindFollowed z s = judged := by
      rw [blindFollowed, blindDetail_eq]
      rfl
    have added : addToHour (valuesJudged s.points z (s.zone z)) = summed := rfl
    rw [followed, added]
  · refine ⟨_, execMinuteTick_of_noRolls m s rolls, ?_⟩
    intro r zn points used value stepped
    have own : (taken (.minuteTick m) s).zone z = zn := rfl
    have reads : (tickReads m (taken (.minuteTick m) s)).points = r.points := by
      cases m with
      | true | false => rfl
    have tick := zone_minuteTick m (taken (.minuteTick m) s) z l
    rw [own, reads] at tick
    obtain ⟨rh, temp, blind, unknown, known, ring, drift, span⟩ := minuteZone_fields r.points z (zoneOfMode zn) on
    rw [← tick] at rh temp blind unknown known ring drift span
    refine ⟨rh.trans (steppedClimate_eq ..), temp.trans (steppedClimate_eq ..), ?_, unknown, known, ring, drift, span⟩
    refine (Bool.eq_iff_iff.1 blind).trans ?_
    rw [Bool.or_eq_true, pointsBlind_iff, pointsBlind_iff]
    exact Iff.rfl
  · intro move w u completes
    have step : stepBand q z s = if completes then bandCondition q z move.band u else u := stepBand_known q z v s known
    have completed (c : completes) : stepBand q z s = bandCondition q z move.band u := step.trans (if_pos c)
    refine ⟨fun c b => ?_, fun c b => ?_, fun c b => ?_, fun c => step.trans (if_neg c)⟩
    · rw [completed c, b]
      rfl
    · rw [completed c, b]
      rfl
    · rw [completed c]
      rcases b with b | b
      · rw [b]
        rfl
      · rw [b]
        rfl
  · intro high low t rising
    have above : low → ¬high := fun (h : v < c.lo) (k : c.hi < v) => by omega
    have below : high → ¬low := fun k h => above h k
    refine ⟨fun b h => ?_, fun b h => ?_, fun b h k => ?_, fun b h => ?_, fun b h => ?_, fun b h k => ?_,
      fun b h => ?_, fun b h => ?_, fun b h k => ?_, fun b h k => ?_, fun b h k n => ?_, fun b h => ?_,
      fun b h k => ?_, fun b h k n => ?_, fun b h => ?_, fun b h => ?_, fun b h => ?_, fun b h k => ?_,
      fun b h => ?_, fun b h => ?_, fun b h k => ?_⟩
    · exact rises_of ((bandMove_inBand b).trans (if_pos h))
    · exact rises_of ((bandMove_inBand b).trans ((if_neg (above h)).trans (if_pos h)))
    · exact stays_of b ((bandMove_inBand b).trans ((if_neg h).trans (if_neg k)))
    · exact rises_of ((bandMove_pendingHigh b).trans (if_pos h))
    · exact rises_of ((bandMove_pendingHigh b).trans ((if_neg (above h)).trans (if_pos h)))
    · exact goes_of ((bandMove_pendingHigh b).trans ((if_neg h).trans (if_neg k)))
    · exact rises_of ((bandMove_pendingLow b).trans (if_pos h))
    · exact rises_of ((bandMove_pendingLow b).trans ((if_neg (below h)).trans (if_pos h)))
    · exact goes_of ((bandMove_pendingLow b).trans ((if_neg k).trans (if_neg h)))
    · exact stays_of b ((bandMove_high b).trans ((if_neg h).trans (if_pos (.inr k))))
    · exact rises_of ((bandMove_high b).trans ((if_neg h).trans (if_neg (not_or.2 ⟨k, Int.not_lt.2 n⟩))))
    · exact crosses_of ((bandMove_high b).trans (if_pos h))
    · exact stays_of b ((bandMove_low b).trans ((if_neg h).trans (if_pos (.inr k))))
    · exact rises_of ((bandMove_low b).trans ((if_neg h).trans (if_neg (not_or.2 ⟨k, Int.not_lt.2 n⟩))))
    · exact crosses_of ((bandMove_low b).trans (if_pos h))
    · exact goes_of ((bandMove_returningHigh b).trans (if_pos h))
    · exact crosses_of ((bandMove_returningHigh b).trans ((if_neg (above h)).trans (if_pos h)))
    · have move := (bandMove_returningHigh b).trans ((if_neg h).trans (if_neg k))
      split
      · next inside => exact rises_of (move.trans (if_pos inside))
      · next outside => exact stays_of b (move.trans (if_neg outside))
    · exact goes_of ((bandMove_returningLow b).trans (if_pos h))
    · exact crosses_of ((bandMove_returningLow b).trans ((if_neg (below h)).trans (if_pos h)))
    · have move := (bandMove_returningLow b).trans ((if_neg k).trans (if_neg h))
      split
      · next inside => exact rises_of (move.trans (if_pos inside))
      · next outside => exact stays_of b (move.trans (if_neg outside))

end Sys2Proof.Machine
end

section
/-! PROOF. The writes of a zone's band limits and of its air handler (O46). -/

namespace Sys2Proof.Machine

/-! ### A climate field of a zone (R126) -/

/-- R126, R127: a climate field of a zone is stored in its record, and what the field asks for follows. -/
theorem writeValue_climate (i f : Nat) (v : Half) (s : State) (l : i < 24) (a : 8 ≤ f) (b : f ≤ 23) :
    writeValue .zone ⟨i, f⟩ v s =
      (zoneStored i f (s.modZone i fun _ => (putZone f v (s.zone i)).1), storedStatus (putZone f v (s.zone i)).2) := by
  have inside : inTable .zone ⟨i, f⟩ = true := (inTable_iff _ _).2 ⟨l, show f < 63 by omega⟩
  have code : codeAccepted .zone ⟨i, f⟩ v = true :=
    codeAccepted_number _ _ v (show ¬(f = 0 ∨ f = 4) by omega) (if_neg (show f ≠ 5 by omega))
  rw [writeValue_owned inside code (.inl (.inr ⟨a, b⟩))]
  simp only [writeOwned, writeZone, if_neg (show f ≠ 0 by omega), if_neg (show f ≠ 1 by omega)]
  rw [modZone_at]

/-- R126: a climate field of an index beyond the table is refused. -/
theorem request_climate_beyond (rq : Requester) (zone v : Half) (f : Nat) (s : State) (h : 24 ≤ zone.toNat)
    (a : 8 ≤ f) (b : f ≤ 23) :
    request rq (fieldElement .zone zone f v) s = .next (answer rq .range (fieldReached .zone zone f s)) :=
  request_unwritten (by omega) (writeValue_range (.inr ⟨a, b⟩) (.inl (inTable_zone_beyond zone.toNat f h)))

/-- R126: a climate field stored with nothing but a report after it: the request is answered, and asks for no grant. -/
theorem request_climate {rq : Requester} {zone v : Half} {f : Nat} {s w t : State} {st : Status} (b : f ≤ 23)
    {y : Zone → Zone} (store : w = (fieldReached .zone zone f s).modZone zone.toNat y)
    (written : writeValue .zone ⟨zone.toNat, f⟩ v (fieldReached .zone zone f s) = (t, st)) (r : Reported w t) :
    request rq (fieldElement .zone zone f v) s = .next (answer rq st t) := by
  subst store
  exact (request_written (by omega) written).trans
    (congrArg Host.Outcome.next (answered_of rq st (asksGrant_of r.galleryOrigin r.nodes r.loading
      (congrArg Device.galleryEnable r.device :))))

/-- What such a write leaves: the other zones, the other tables, the settings, the Calendar and the store. -/
theorem climate_frame {zone : Half} {f : Nat} {s t : State} {y : Zone → Zone}
    (r : Reported ((fieldReached .zone zone f s).modZone zone.toNat y) t) :
    (∀ j, j ≠ zone.toNat → t.zone j = s.zone j) ∧ t.nodes = s.nodes ∧ t.points = s.points ∧ t.objects = s.objects ∧
      t.groups = s.groups ∧ t.device = s.device ∧ t.calendar = s.calendar ∧ t.store = s.store :=
  ⟨fun j other => by rw [r.zone, zone_modZone_other _ _ _ _ (Ne.symm other), zone_fieldReached],
    r.nodes.trans (nodes_fieldReached .zone zone f s), r.points.trans (points_fieldReached .zone zone f s),
    r.objects.trans (objects_fieldReached .zone zone f s), r.groups.trans (groups_fieldReached .zone zone f s),
    r.device.trans (device_fieldReached .zone zone f s), r.calendar.trans (calendar_fieldReached .zone zone f s),
    r.store.trans (store_fieldReached .zone zone f s)⟩

/-! ### The offer of a TRIM (R140) -/

theorem offerTrim_offers (z : Nat) (s : State) (on : (s.zone z).enable = true) (a : (s.zone z).airAddress ≠ 0) :
    offerTrim z s = offerOrigin (trimFrame z (s.zone z)) s := (offerTrim_eq z s).trans (if_pos ⟨on, a⟩)

theorem offerTrim_quiet (z : Nat) (s : State) (h : (s.zone z).enable = false ∨ (s.zone z).airAddress = 0) :
    offerTrim z s = s := by
  refine (offerTrim_eq z s).trans (if_neg ?_)
  rintro ⟨on, air⟩
  rcases h with off | none'
  · exact Bool.false_ne_true (off.symm.trans on)
  · exact air none'

/-! ### The band of a zone (R126, R127) -/

/-- The quantity whose band a field belongs to. -/
def bandQuantity : BandField → ClimateQuantity
  | .rhLo | .rhHi | .rhHysteresis => .rh
  | .tLo | .tHi | .tHysteresis => .temp

/-- R126: the number that a band field is asked to hold; a temperature is signed. -/
def bandAsked (f : BandField) (v : Half) : Int :=
  match f with
  | .tLo => v.toInt
  | .tHi => v.toInt
  | _ => v.toNat

/-- R126: the number that it stores, clamped into its range and against the other limit. -/
def bandTaken (f : BandField) (v : Half) (zn : Zone) : Int :=
  match f with
  | .rhLo => max 0 (min zn.rh.hi (bandAsked f v))
  | .rhHi => max zn.rh.lo (min 10000 (bandAsked f v))
  | .tLo => max (-4000) (min zn.temp.hi (bandAsked f v))
  | .tHi => max zn.temp.lo (min 8500 (bandAsked f v))
  | _ => max 0 (min 1000 (bandAsked f v))

/-- A quantity with one limit of its band set. -/
def withBand (f : BandField) (n : Int) (c : Climate) : Climate :=
  match f with
  | .rhLo | .tLo => { c with lo := n }
  | .rhHi | .tHi => { c with hi := n }
  | .rhHysteresis | .tHysteresis => { c with hysteresis := n }

/-- R126: the zone with a band field stored. -/
def bandPut (f : BandField) (v : Half) (zn : Zone) : Zone :=
  withClimate (bandQuantity f) (withBand f (bandTaken f v zn) (climateOf (bandQuantity f) zn)) zn

/-- R127: the zone with the setpoint of a quantity in its narrowed band. -/
def setpointPut (q : ClimateQuantity) (zn : Zone) : Zone := withClimate q (clampSetpoint (climateOf q zn)) zn

theorem putZone_band (f : BandField) (v : Half) (zn : Zone) :
    (putZone (bandFieldNumber f) v zn).1 = bandPut f v zn ∧
    storedStatus (putZone (bandFieldNumber f) v zn).2 =
      if bandTaken f v zn = bandAsked f v then .ok else .clamped := by
  cases f with
  | rhLo | rhHi | rhHysteresis | tLo | tHi | tHysteresis => exact ⟨rfl, storedStatus_putInt _ _ _⟩

theorem bandFieldNumber_bounds (f : BandField) : 8 ≤ bandFieldNumber f ∧ bandFieldNumber f ≤ 13 := by
  cases f <;> decide

/-- R127: what follows a band field is the block of its quantity. -/
theorem zoneStored_band (i : Nat) (f : BandField) (s : State) :
    zoneStored i (bandFieldNumber f) s = bandStored (bandQuantity f) i s := by
  cases f with
  | rhLo | rhHi | rhHysteresis | tLo | tHi | tHysteresis => rfl

/-- R127: a setpoint that the clamp moves is offered to the air handler. -/
theorem bandStored_eq (q : ClimateQuantity) (z : Nat) (zn : Zone) (s : State) (l : z < 24) :
    let w := s.modZone z fun _ => setpointPut q zn
    bandStored q z (s.modZone z fun _ => zn) =
      if (climateOf q (setpointPut q zn)).setpoint = (climateOf q zn).setpoint then w else offerTrim z w := by
  intro w
  have store : (s.modZone z fun _ => zn).modZone z (setpointPut q) = w := modZone_modZone s z _ _
  have before : (s.modZone z fun _ => zn).zone z = zn := zone_modZone_self s z _ l
  have after : w.zone z = setpointPut q zn := zone_modZone_self s z _ l
  rw [← after]
  unfold bandStored
  rw [before]
  exact store ▸ rfl

/-- R126, R127: the zone that a write of a band field leaves. -/
def bandWritten (f : BandField) (v : Half) (zn : Zone) : Zone := setpointPut (bandQuantity f) (bandPut f v zn)

/-- R127: the write moves the setpoint of the field's quantity. -/
def bandMoves (f : BandField) (v : Half) (zn : Zone) : Prop :=
  (bandWritten f v zn).rh.setpoint ≠ zn.rh.setpoint ∨ (bandWritten f v zn).temp.setpoint ≠ zn.temp.setpoint

theorem bandMoves_iff (f : BandField) (v : Half) (zn : Zone) : bandMoves f v zn ↔
    (climateOf (bandQuantity f) (bandWritten f v zn)).setpoint ≠
      (climateOf (bandQuantity f) (bandPut f v zn)).setpoint := by
  cases f with
  | rhLo | rhHi | rhHysteresis => exact or_iff_left fun c => c rfl
  | tLo | tHi | tHysteresis => exact or_iff_right fun c => c rfl

/-- R126, R127: a band field is stored and its setpoint clamped, with a TRIM where that moves it. -/
theorem writeValue_band (i : Nat) (f : BandField) (v : Half) (s : State) (l : i < 24) :
    let w := s.modZone i fun _ => bandWritten f v (s.zone i)
    let st := if bandTaken f v (s.zone i) = bandAsked f v then Status.ok else .clamped
    (bandMoves f v (s.zone i) → writeValue .zone ⟨i, bandFieldNumber f⟩ v s = (offerTrim i w, st)) ∧
      (¬bandMoves f v (s.zone i) → writeValue .zone ⟨i, bandFieldNumber f⟩ v s = (w, st)) := by
  intro w st
  obtain ⟨low, high⟩ := bandFieldNumber_bounds f
  obtain ⟨put, status⟩ := putZone_band f v (s.zone i)
  have run := writeValue_climate i (bandFieldNumber f) v s l low (by omega)
  rw [put, status, zoneStored_band, bandStored_eq _ _ _ _ l] at run
  rw [bandMoves_iff]
  exact ⟨fun moves => run.trans (congrArg (·, st) (if_neg moves)),
    fun stays => run.trans (congrArg (·, st) (if_pos (not_not.1 stays)))⟩

/-- R127: the setpoint of the field's quantity lies in its narrowed band. -/
theorem bandWritten_inBand (f : BandField) (v : Half) (zn : Zone) :
    setpointInBand (climateOf (bandQuantity f) (bandWritten f v zn)) := by
  cases f with
  | rhLo | rhHi | rhHysteresis | tLo | tHi | tHysteresis => exact clampSetpoint_inBand _

/-- A write of the band leaves the zone's enable and its air handler. -/
theorem bandWritten_keeps (f : BandField) (v : Half) (zn : Zone) : (bandWritten f v zn).enable = zn.enable ∧
    (bandWritten f v zn).airAddress = zn.airAddress ∧ (bandWritten f v zn).airChannel = zn.airChannel := by
  cases f with
  | rhLo | rhHi | rhHysteresis | tLo | tHi | tHysteresis => exact ⟨rfl, rfl, rfl⟩

/-- BAND_WRITE as a request: its answer, the TRIM that precedes it, and the zone's record. -/
theorem request_band (rq : Requester) (zone v : Half) (f : BandField) (s : State) (l : zone.toNat < 24) :
    let z := zone.toNat
    let y := bandWritten f v (s.zone z)
    let st := if bandTaken f v (s.zone z) = bandAsked f v then Status.ok else .clamped
    let w := (fieldReached .zone zone (bandFieldNumber f) s).modZone z fun _ => y
    ∃ t, exec (.bandWrite rq zone f v) s = .next t ∧ Reported w t ∧
      (bandMoves f v (s.zone z) → (s.zone z).enable = true → (s.zone z).airAddress ≠ 0 →
        t = answer rq st (offerOrigin (trimFrame z y) w)) ∧
      (¬bandMoves f v (s.zone z) ∨ (s.zone z).enable = false ∨ (s.zone z).airAddress = 0 → t = answer rq st w) := by
  intro z y st w
  have top : bandFieldNumber f ≤ 23 := (bandFieldNumber_bounds f).2.trans (by omega)
  obtain ⟨moves, stays⟩ := writeValue_band z f v (fieldReached .zone zone (bandFieldNumber f) s) l
  rw [zone_fieldReached] at moves stays
  have record : w.zone z = y := zone_modZone_self _ _ _ l
  obtain ⟨enable, address, -⟩ := bandWritten_keeps f v (s.zone z)
  rw [← enable, ← address, ← show w.zone z = bandWritten f v (s.zone z) from record]
  by_cases m : bandMoves f v (s.zone z)
  · have offered := reported_offerTrim z w
    refine ⟨_, request_climate top rfl (moves m) offered, offered.trans (reported_answer ..), fun _ on air => ?_,
      fun quiet => ?_⟩
    · rw [offerTrim_offers z w on air, record]
    · rw [offerTrim_quiet z w (quiet.resolve_left fun c => c m)]
  · exact ⟨_, request_climate top rfl (stays m) (.refl w), reported_answer .., fun c => absurd c m, fun _ => rfl⟩

/-! ### The air handler of a zone (R126, R140) -/

/-- R126: the top of an air handler field's range. -/
def airTop : AirHandlerField → Nat
  | .address => 126
  | .channel => 255

/-- R126: the zone with an air handler field stored. -/
def airPut (f : AirHandlerField) (v : Half) (zn : Zone) : Zone :=
  match f with
  | .address => { zn with airAddress := min 126 v.toNat }
  | .channel => { zn with airChannel := min 255 v.toNat }

theorem storedStatus_putNat_top (top v : Nat) :
    storedStatus (putNat 0 top v).2 = if v ≤ top then .ok else .clamped := by
  rw [storedStatus_putNat_zero]
  exact if_congr inf_eq_right rfl rfl

theorem putZone_air (f : AirHandlerField) (v : Half) (zn : Zone) :
    (putZone (airHandlerFieldNumber f) v zn).1 = airPut f v zn ∧
    storedStatus (putZone (airHandlerFieldNumber f) v zn).2 = if v.toNat ≤ airTop f then .ok else .clamped := by
  cases f with
  | address =>
    exact ⟨congrArg (fun n => { zn with airAddress := n }) (Nat.zero_max _), storedStatus_putNat_top 126 v.toNat⟩
  | channel =>
    exact ⟨congrArg (fun n => { zn with airChannel := n }) (Nat.zero_max _), storedStatus_putNat_top 255 v.toNat⟩

theorem airHandlerFieldNumber_bounds (f : AirHandlerField) :
    22 ≤ airHandlerFieldNumber f ∧ airHandlerFieldNumber f ≤ 23 := by
  cases f <;> decide

/-- R140: what follows an air handler field is the zone's TRIM. -/
theorem zoneStored_air (i : Nat) (f : AirHandlerField) (s : State) :
    zoneStored i (airHandlerFieldNumber f) s = offerTrim i s := by
  cases f with
  | address | channel => rfl

/-- AIR_HANDLER_WRITE as a request: the field is stored and the zone's TRIM offered. -/
theorem request_air (rq : Requester) (zone v : Half) (f : AirHandlerField) (s : State) (l : zone.toNat < 24) :
    let w := (fieldReached .zone zone (airHandlerFieldNumber f) s).modZone zone.toNat (airPut f v)
    exec (.airHandlerWrite rq zone f v) s =
      .next (answer rq (if v.toNat ≤ airTop f then .ok else .clamped) (offerTrim zone.toNat w)) := by
  intro w
  obtain ⟨low, high⟩ := airHandlerFieldNumber_bounds f
  obtain ⟨put, status⟩ := putZone_air f v ((fieldReached .zone zone (airHandlerFieldNumber f) s).zone zone.toNat)
  have run := writeValue_climate zone.toNat (airHandlerFieldNumber f) v
    (fieldReached .zone zone (airHandlerFieldNumber f) s) l (by omega) high
  rw [put, status, zoneStored_air, ← modZone_at _ _ (airPut f v)] at run
  exact request_climate high rfl run (reported_offerTrim _ w)

/-! ### O46 -/

/-- Settles O46: a band field by `request_band`, its zone's record by `bandWritten`, an air handler field by
`request_air`. -/
theorem zoneClimateWrites : Obligations.ZoneClimateWrites := by
  refine ⟨fun rq zone f value s l => ?_, fun rq zone f value s beyond => ?_, fun rq zone f value s => ?_⟩
  · intro z zn x stored rh' temp' isRh st moved w
    have record : bandWritten f value zn = { zn with rh := rh', temp := temp' } := by
      cases f with
      | rhLo | rhHi | rhHysteresis | tLo | tHi | tHysteresis => rfl
    have status : (if bandTaken f value zn = bandAsked f value then Status.ok else .clamped) = st := by
      cases f with
      | rhLo | rhHi | rhHysteresis | tLo | tHi | tHysteresis => rfl
    have store : (fieldReached .zone zone (bandFieldNumber f) s).modZone z (fun _ => bandWritten f value zn) = w := by
      rw [record]
      exact .symm ((modZone_at _ z _).trans (by rw [zone_fieldReached]))
    have moves : bandMoves f value zn ↔ moved := by rw [bandMoves, record]
    obtain ⟨t, run, r, offers, quiet⟩ := request_band rq zone value f s l
    rw [store, status, moves] at offers quiet
    rw [store] at r
    have own : t.zone z = bandWritten f value zn := by
      rw [r.zone, ← store]
      exact zone_modZone_self _ _ _ l
    have inBand := bandWritten_inBand f value zn
    rw [← own] at inBand
    refine ⟨t, run, fun m on air => (offers m on air).trans (by rw [record]; rfl), quiet, own.trans record, fun h => ?_,
      fun h => ?_, climate_frame r⟩
    · rcases h with rfl | rfl | rfl
      · exact inBand
      · exact inBand
      · exact inBand
    · cases f with
      | rhLo | rhHi | rhHysteresis => exact absurd (by simp [isRh]) h
      | tLo | tHi | tHysteresis => exact inBand
  · obtain ⟨low, high⟩ := bandFieldNumber_bounds f
    exact request_climate_beyond rq zone value _ s beyond low (by omega)
  · intro z top st u w
    have store : u.modZone z (airPut f value) = w := by
      cases f with
      | address | channel => rfl
    have status : (if value.toNat ≤ airTop f then Status.ok else .clamped) = st := by
      cases f with
      | address | channel => rfl
    obtain ⟨low, high⟩ := airHandlerFieldNumber_bounds f
    have run (l : z < 24) : exec (.airHandlerWrite rq zone f value) s = .next (answer rq st (offerTrim z w)) := by
      rw [← store, ← status]
      exact request_air rq zone value f s l
    refine ⟨fun beyond => request_climate_beyond rq zone value _ s beyond (by omega) high, fun l on air => ?_,
      fun l quiet => ?_⟩
    · rw [run l, offerTrim_offers z w on air]
      rfl
    · rw [run l, offerTrim_quiet z w quiet]

end Sys2Proof.Machine
end

section
/-! PROOF. The Condition Table, the latches and the reports of a raise and of a clear (O35). -/

namespace Sys2Proof.Machine

/-! ### The table after a raise (R143) -/

theorem sameCondition_iff (k : ConditionKind) (a : Nat) (e : Condition) :
    sameCondition k a e = true ↔ e.kind = k ∧ e.subject = a := by
  simp [sameCondition]

section recordRaise

variable {c : Condition} {l : List Condition}

/-- R143: an entry of the kind and subject is re-activated in place. -/
theorem recordRaise_present (h : ∃ e ∈ l, e.kind = c.kind ∧ e.subject = c.subject) :
    recordRaise c l = some (l.map fun e => if e.kind = c.kind ∧ e.subject = c.subject then c else e) := by
  simp only [← sameCondition_iff] at h ⊢
  exact if_pos (List.any_eq_true.2 h)

variable (absent : ∀ e ∈ l, ¬(e.kind = c.kind ∧ e.subject = c.subject))

include absent

theorem recordRaise_absent : recordRaise c l =
    if l.length < 64 then some (l ++ [c])
    else if l.any (fun e => e.state == .latched) then some (l.eraseP (fun e => e.state == .latched) ++ [c])
    else none := by
  simp only [← sameCondition_iff] at absent
  exact if_neg (by simpa only [List.any_eq_true, not_exists, not_and] using absent)

theorem recordRaise_appends (room : l.length < 64) : recordRaise c l = some (l ++ [c]) :=
  (recordRaise_absent absent).trans (if_pos room)

/-- R143: in a full table the first LATCHED entry gives way. -/
theorem recordRaise_evicts {early late : List Condition} {e : Condition} (full : 64 ≤ l.length)
    (split : l = early ++ e :: late) (active : ∀ x ∈ early, x.state = .active) (old : e.state = .latched) :
    recordRaise c l = some (early ++ late ++ [c]) := by
  have found : l.any (fun x => x.state == .latched) = true := by simp [split, old]
  have remaining : l.eraseP (fun x => x.state == .latched) = early ++ late := by
    rw [split, List.eraseP_append_right _ fun x m => by simp [active x m], List.eraseP_cons_of_pos (by simp [old])]
  rw [recordRaise_absent absent, if_neg (Nat.not_lt.2 full), if_pos found, remaining]

theorem recordRaise_full (full : 64 ≤ l.length) (active : ∀ e ∈ l, e.state = .active) : recordRaise c l = none := by
  have noneLatched : ¬l.any (fun e => e.state == .latched) = true := by
    simpa using fun e m => by simp [active e m]
  rw [recordRaise_absent absent, if_neg (Nat.not_lt.2 full), if_neg noneLatched]

end recordRaise

theorem recorded_some {c : Condition} {s : State} {table : List Condition}
    (h : recordRaise c s.conditions = some table) : recorded c s = { s with conditions := table } := by
  simp [recorded, h]

theorem recorded_none {c : Condition} {s : State} (h : recordRaise c s.conditions = none) :
    recorded c s = { s with latches := { s.latches with overflow := true } } := by
  simp [recorded, h]

/-- R151, R152: recording a raise leaves the two latches of reading. -/
theorem latches_recorded (c : Condition) (s : State) : (recorded c s).latches.raised = s.latches.raised ∧
    (recorded c s).latches.clear = s.latches.clear := by
  cases h : recordRaise c s.conditions with
  | some table => rw [recorded_some h]; exact ⟨rfl, rfl⟩
  | none => rw [recorded_none h]; exact ⟨rfl, rfl⟩

/-- Recording a raise changes the Condition Table and the latches alone. -/
theorem recorded_eq (c : Condition) (s : State) :
    recorded c s = { s with conditions := (recorded c s).conditions, latches := (recorded c s).latches } := by
  cases h : recordRaise c s.conditions with
  | some table => rw [recorded_some h]
  | none => rw [recorded_none h]

/-- So does latching it after that. -/
theorem latchRaise_eq {s u : State} (k : ConditionKind)
    (h : u = { s with conditions := u.conditions, latches := u.latches }) :
    latchRaise k u = { s with conditions := (latchRaise k u).conditions, latches := (latchRaise k u).latches } := by
  unfold latchRaise
  split
  · exact h
  · exact congrArg (fun v : State => { v with latches := { u.latches with raised := true, clear := false } }) h

/-! ### Reports (R147 to R149) -/

section report

variable {c : Condition} {s : State} (raised : Bool)

theorem report_quiet (h : masked s c.kind = true ∨ s.loading = true) : report c raised s = s :=
  if_pos (Bool.or_eq_true .. ▸ h.symm)

theorem report_offers (h : ¬(masked s c.kind = true ∨ s.loading = true)) :
    report c raised s = offerOrigin (conditionFrame s c raised) s :=
  if_neg fun q => h ((Bool.or_eq_true .. ▸ q).symm)

end report

/-! ### A raise (R143, R147 to R149, R151 to R153) -/

section raise

variable (k : ConditionKind) (a d : Nat) (s : State)

theorem tableOf_raise : tableOf (raise k a d s) = tableOf (latchRaise k (recorded (stamped k a d s) s)) :=
  tableOf_report ..

theorem conditions_raise : (raise k a d s).conditions = (recorded (stamped k a d s) s).conditions :=
  (congrArg Prod.fst (tableOf_raise k a d s)).trans (latchRaise_table k _).1

theorem latches_raise : (raise k a d s).latches = (latchRaise k (recorded (stamped k a d s) s)).latches :=
  congrArg Prod.snd (tableOf_raise k a d s)

/-- The state in which a raise is reported differs from the one before by the Condition Table and the latches. -/
theorem latchRaise_recorded : latchRaise k (recorded (stamped k a d s) s) =
    { s with conditions := (raise k a d s).conditions, latches := (raise k a d s).latches } := by
  rw [conditions_raise, latches_raise, ← (latchRaise_table k (recorded _ s)).1]
  exact latchRaise_eq k (recorded_eq _ s)

theorem raise_eq_report : raise k a d s = report (stamped k a d s) true
    { s with conditions := (raise k a d s).conditions, latches := (raise k a d s).latches } :=
  congrArg (report (stamped k a d s) true) (latchRaise_recorded k a d s)

variable {k a d s}

theorem raise_quiet (h : masked s k = true ∨ s.loading = true) : raise k a d s =
    { s with conditions := (raise k a d s).conditions, latches := (raise k a d s).latches } :=
  (raise_eq_report k a d s).trans (report_quiet true h)

theorem raise_offers (h : ¬(masked s k = true ∨ s.loading = true)) : raise k a d s =
    offerOrigin (conditionFrame s (stamped k a d s) true)
      { s with conditions := (raise k a d s).conditions, latches := (raise k a d s).latches } :=
  (raise_eq_report k a d s).trans (report_offers true h)

theorem conditions_raise_some {table : List Condition} (h : recordRaise (stamped k a d s) s.conditions = some table) :
    (raise k a d s).conditions = table := by
  rw [conditions_raise, recorded_some h]

theorem raise_overflows (h : recordRaise (stamped k a d s) s.conditions = none) :
    (raise k a d s).conditions = s.conditions ∧ (raise k a d s).latches.overflow = true := by
  rw [conditions_raise, latches_raise, (latchRaise_table k _).2, recorded_none h]
  exact ⟨rfl, rfl⟩

theorem masked_recorded (c : Condition) : masked (recorded c s) k = masked s k := by
  rw [masked, (reported_recorded c s).device, masked]

/-- R151, R152: a raise of an unmasked kind sets one latch and clears the other. -/
theorem latches_raise_unmasked (h : masked s k = false) :
    (raise k a d s).latches.raised = true ∧ (raise k a d s).latches.clear = false := by
  rw [latches_raise, latchRaise, masked_recorded, h]
  exact ⟨rfl, rfl⟩

/-- R148: a raise of a masked kind leaves both. -/
theorem latches_raise_masked (h : masked s k = true) : (raise k a d s).latches.raised = s.latches.raised ∧
    (raise k a d s).latches.clear = s.latches.clear := by
  rw [latches_raise, latchRaise, masked_recorded, h]
  exact latches_recorded _ s

end raise

/-! ### A clear (R144, R147 to R149) -/

section clear

variable (k : ConditionKind) (a : Nat) (s : State)

theorem tableOf_clear : tableOf (clear k a s) = tableOf (latched k a s) := tableOf_report ..

theorem conditions_clear : (clear k a s).conditions =
    s.conditions.map fun e => if e.kind = k ∧ e.subject = a then { e with state := .latched } else e := by
  simp only [← sameCondition_iff]
  exact congrArg Prod.fst (tableOf_clear k a s)

theorem latches_clear : (clear k a s).latches = s.latches := congrArg Prod.snd (tableOf_clear k a s)

theorem clear_eq_report : clear k a s = report (stamped k a (detailOf k a s.conditions) s) false
    { s with conditions := (clear k a s).conditions } :=
  congrArg (fun l => report (stamped k a (detailOf k a s.conditions) s) false { s with conditions := l })
    (congrArg Prod.fst (tableOf_clear k a s)).symm

variable {k a s}

theorem clear_quiet (h : masked s k = true ∨ s.loading = true) :
    clear k a s = { s with conditions := (clear k a s).conditions } :=
  (clear_eq_report k a s).trans (report_quiet false h)

theorem clear_offers (h : ¬(masked s k = true ∨ s.loading = true)) : clear k a s =
    offerOrigin (conditionFrame s (stamped k a (detailOf k a s.conditions) s) false)
      { s with conditions := (clear k a s).conditions } :=
  (clear_eq_report k a s).trans (report_offers false h)

/-- R144: the detail reported is that of the entry. -/
theorem detailOf_present {l early late : List Condition} {e : Condition} (split : l = early ++ e :: late)
    (first : ∀ x ∈ early, ¬(x.kind = k ∧ x.subject = a)) (own : e.kind = k ∧ e.subject = a) :
    detailOf k a l = e.detail := by
  simp only [← sameCondition_iff] at first own
  rw [detailOf, split, List.find?_append, List.find?_eq_none.2 first, Option.none_or, List.find?_cons_of_pos own]
  rfl

/-- R144: where there is no entry, the detail reported is 0. -/
theorem detailOf_absent {l : List Condition} (absent : ∀ e ∈ l, ¬(e.kind = k ∧ e.subject = a)) :
    detailOf k a l = 0 := by
  simp only [← sameCondition_iff] at absent
  rw [detailOf, List.find?_eq_none.2 absent]
  rfl

end clear

/-- Settles O35: the table by the cases of `recordRaise`, the reports by `raise_offers` and `clear_offers`, and what is
left alone by `reported_raise` and `reported_clear`. -/
theorem raiseAndClearRecord : Obligations.RaiseAndClearRecord := by
  unfold Obligations.RaiseAndClearRecord
  intro k a d s new is t
  refine ⟨fun present => ?_, fun absent room => ?_, fun absent full early e late split active old => ?_,
    fun absent full active => ?_, fun unmasked => latches_raise_unmasked unmasked, fun mask => ?_, ⟨fun quiet => ?_,
      fun heard => ⟨raise_offers heard, fun early e late split first own => ?_, fun absent => ?_⟩⟩,
    fun before after => ⟨follow_eq k a d before after s, rfl⟩, (reported_raise k a d s).frame, conditions_clear k a s,
    latches_clear k a s, (reported_clear k a s).frame⟩
  · exact conditions_raise_some (recordRaise_present (c := new) present)
  · exact conditions_raise_some (recordRaise_appends (c := new) absent room)
  · exact conditions_raise_some (recordRaise_evicts (c := new) absent full split active old)
  · exact raise_overflows (recordRaise_full (c := new) absent full active)
  · obtain ⟨raisedKept, clearKept⟩ := latches_raise_masked (a := a) (d := d) mask
    exact ⟨raisedKept, clearKept, (congrArg State.plantOrigin (raise_quiet (a := a) (d := d) (.inl mask)) :)⟩
  · exact ⟨raise_quiet quiet, clear_quiet quiet⟩
  · rw [← detailOf_present split first own]
    exact clear_offers heard
  · refine (clear_offers heard).trans ?_
    rw [detailOf_absent absent]
    rfl

end Sys2Proof.Machine
end

section
/-! PROOF. The reads of the summary latches, and ALERT (O38). -/

namespace Sys2Proof.Machine

/-! ### ALERT and the masks (R148, R150) -/

theorem alertAsserted_iff (s : State) :
    alertAsserted s = true ↔ ∃ e ∈ s.conditions, e.state = .active ∧ masked s e.kind = false := by
  simp only [alertAsserted, drivesAlert, List.any_eq_true, Bool.and_eq_true, beq_iff_eq, Bool.not_eq_true']

theorem masked_eq_getElem (s : State) (k : ConditionKind) (i : Fin 19) (h : i.val + 1 = conditionCode k) :
    masked s k = s.device.masks[i] := by
  simp [masked, ← h]

/-! ### A request of one READ element (R160) -/

/-- R156, R160: the reply to a READ of 1 to 16 values. -/
theorem request_read {rq : Requester} {t : TableId} {c : Option Cursor} {m : StepMode} {n : Nat} {s u : State}
    {values : List Half} {beyond : Bool} (h : 1 ≤ n ∧ n ≤ 16)
    (run : readValues t m n (loadCursor t c (supervisionRestart s)) = (u, values, beyond)) :
    request rq (readElement t c m n) s = .next (offerOrigin
      ⟨rq.src, kindServiceReply, rq.seq :: statusCode (if beyond then .range else .ok) :: octetsOfAll values,
        .reply false⟩ u) := by
  have element : readElement t c m n = some (.read t c m n) := if_pos ((countOk_iff n).2 h)
  have fits : 1 + ([] : List Byte).length + (1 + 2 * n) + 0 ≤ 48 := by
    rw [List.length_nil]
    omega
  rw [element, request, serviceRequest_one rq _ s _ _ _ (takeRead_fits t c m n 0 _ fits)]
  simp only [run]
  rfl

/-- R158, R160: a read of one value. -/
theorem readValues_one (t : TableId) (m : StepMode) (s : State) : readValues t m 1 s =
    (stepCursor t m (if inTable t (cursorOf s t) then latchRead t (cursorOf s t) s else s),
      [valueAt s t (cursorOf s t)], !inTable t (cursorOf s t)) := by
  simp only [readValues, Bool.false_or]

/-! ### The read of a summary latch (R151 to R153) -/

theorem latchRead_raised (s : State) :
    latchRead .device ⟨0, 20⟩ s = { s with latches := { s.latches with raised := false } } := rfl

/-- R152: CLEAR_SINCE_READ is set by a read at which ALERT is not asserted. -/
theorem latchRead_clear (s : State) : latchRead .device ⟨0, 21⟩ s =
    { s with latches := { s.latches with clear := s.latches.clear || !alertAsserted s } } := by
  show (if alertAsserted s then s else { s with latches := { s.latches with clear := true } }) = _
  split
  · next asserted => rw [asserted, Bool.not_true, Bool.or_false]
  · next quiet => rw [Bool.eq_false_of_not_eq_true quiet, Bool.not_false, Bool.or_true]

theorem latchRead_overflow (s : State) :
    latchRead .device ⟨0, 22⟩ s = { s with latches := { s.latches with overflow := false } } := rfl

theorem octetsOf_boolHalf (b : Bool) : octetsOf (boolHalf b) = [0, if b then 1 else 0] := by
  cases b with
  | false => rfl
  | true => rfl

/-- R156, R160: a request that reads one field of DEVICE entry 0, which holds the flag `b`. -/
theorem request_latch (rq : Requester) (field : Byte) {s t : State} {b : Bool} (width : field.toNat < 42)
    (value : readDevice (supervisionRestart s) field.toNat = boolHalf b)
    (read : latchRead .device ⟨0, field.toNat⟩ (setCursor .device ⟨0, field.toNat⟩ (supervisionRestart s)) = t) :
    request rq (latchElement field) s = .next (offerOrigin
      ⟨rq.src, kindServiceReply, rq.seq :: 0 :: [0, if b then 1 else 0], .reply false⟩ t) := by
  have inside : inTable .device ⟨0, field.toNat⟩ = true := (inTable_iff _ _).2 ⟨Nat.succ_pos 7, width⟩
  have start : loadCursor .device (some ⟨0, field⟩) (supervisionRestart s) =
      setCursor .device ⟨0, field.toNat⟩ (supervisionRestart s) := rfl
  have reads : valueAt (setCursor .device ⟨0, field.toNat⟩ (supervisionRestart s)) .device ⟨0, field.toNat⟩ =
      boolHalf b := (if_pos inside).trans value
  have run : readValues .device .stay 1 (loadCursor .device (some ⟨0, field⟩) (supervisionRestart s)) =
      (t, [boolHalf b], false) := by
    rw [start, readValues_one, stepCursor_stay, cursorOf_setCursor_self, if_pos inside, read, reads, inside,
      Bool.not_true]
  rw [← octetsOf_boolHalf b, ← List.append_nil (octetsOf (boolHalf b))]
  exact request_read (by decide) run

/-- Settles O38: each latch by `request_latch` and what the read does to it, ALERT by the entries that drive it. -/
theorem latchReadsChangeTheLatch : Obligations.LatchReadsChangeTheLatch := by
  unfold Obligations.LatchReadsChangeTheLatch
  refine ⟨fun s => ⟨alertAsserted_iff s, masked_eq_getElem s⟩, fun rq s => ?_⟩
  intro u reply
  refine ⟨?_, ?_, ?_⟩
  · exact request_latch rq 20 (by decide) rfl (latchRead_raised _)
  · exact request_latch rq 21 (by decide) rfl (latchRead_clear _)
  · exact request_latch rq 22 (by decide) rfl (latchRead_overflow _)

end Sys2Proof.Machine
end

section
/-! PROOF. READ: the values read one after another from the cursor, and what every field of every table reads (O37). -/

namespace Sys2Proof.Machine

/-! ### The values of one element (R158, R160) -/

/-- R151 to R153: a read does nothing to the state but to a summary latch. -/
theorem latchRead_frame (t : TableId) (p : Position) (s : State) :
    ∃ l, latchRead t p s = { s with latches := l } := by
  unfold latchRead
  split
  · split
    · exact ⟨_, rfl⟩
    · split
      · exact ⟨s.latches, rfl⟩
      · exact ⟨_, rfl⟩
    · exact ⟨_, rfl⟩
    · exact ⟨s.latches, rfl⟩
  · exact ⟨s.latches, rfl⟩

/-- R160: what the read of the value at the cursor leaves, before the cursor steps. -/
def cursorRead (t : TableId) (s : State) : State :=
  if inTable t (cursorOf s t) then latchRead t (cursorOf s t) s else s

theorem cursorRead_frame (t : TableId) (s : State) : ∃ l, cursorRead t s = { s with latches := l } := by
  unfold cursorRead
  split
  · exact latchRead_frame _ _ s
  · exact ⟨s.latches, rfl⟩

/-- R158: the cursor steps from where it stood before the read. -/
theorem stepCursor_cursorRead (t : TableId) (m : StepMode) (s : State) :
    stepCursor t m (cursorRead t s) = setCursor t (stepPosition t m (cursorOf s t)) (cursorRead t s) := by
  obtain ⟨l, read⟩ := cursorRead_frame t s
  rw [read]
  rfl

theorem readValues_succ (t : TableId) (m : StepMode) (n : Nat) (s : State) :
    let u := setCursor t (stepPosition t m (cursorOf s t)) (cursorRead t s)
    readValues t m (n + 1) s =
      ((readValues t m n u).1, valueAt s t (cursorOf s t) :: (readValues t m n u).2.1,
        (readValues t m n u).2.2 || !inTable t (cursorOf s t)) := by
  intro u
  rw [show u = stepCursor t m (cursorRead t s) from (stepCursor_cursorRead t m s).symm]
  rfl

theorem length_readValues (t : TableId) (m : StepMode) (n : Nat) (s : State) :
    (readValues t m n s).2.1.length = n := by
  induction n generalizing s with
  | zero => rfl
  | succ n ih => rw [readValues_succ, List.length_cons, ih]

/-- R160: the values are read without a change but to the cursors and the latches. -/
theorem readValues_frame (t : TableId) (m : StepMode) (n : Nat) (s : State) :
    { (readValues t m n s).1 with cursors := s.cursors, latches := s.latches } = s := by
  induction n generalizing s with
  | zero => rfl
  | succ n ih =>
    obtain ⟨l, read⟩ := cursorRead_frame t s
    have rest := ih (setCursor t (stepPosition t m (cursorOf s t)) (cursorRead t s))
    rw [readValues_succ]
    rw [read] at rest ⊢
    exact congrArg (fun v : State => { v with cursors := s.cursors, latches := s.latches }) rest

/-! ### READ as a request (R156, R157) -/

/-- R160: a READ of 1 to 16 values. -/
theorem exec_read (rq : Requester) (t : TableId) (c : Option Cursor) (m : StepMode) (n : Nat) (s : State)
    (h : 1 ≤ n ∧ n ≤ 16) :
    let u := loadCursor t c (supervisionRestart s)
    let r := readValues t m n u
    exec (.read rq t c m n) s = .next (offerOrigin
      ⟨rq.src, kindServiceReply, rq.seq :: statusCode (if r.2.2 then .range else .ok) :: octetsOfAll r.2.1,
        .reply false⟩ r.1) ∧
    r.2.1.length = n ∧
    (n = 1 → r.2.1 = [valueAt u t (cursorOf u t)] ∧ r.2.2 = !inTable t (cursorOf u t) ∧
      cursorOf r.1 t = stepPosition t m (cursorOf u t)) ∧
    { r.1 with cursors := u.cursors, latches := u.latches } = u := by
  intro u r
  refine ⟨request_read h rfl, length_readValues t m n u, fun one => ?_, readValues_frame t m n u⟩
  subst one
  have single : r = _ := readValues_succ t m 0 u
  rw [single]
  exact ⟨rfl, rfl, cursorOf_setCursor_self ..⟩

/-- R157: a READ of any other count. -/
theorem exec_read_format (rq : Requester) (t : TableId) (c : Option Cursor) (m : StepMode) (n : Nat) (s : State)
    (h : ¬(1 ≤ n ∧ n ≤ 16)) :
    exec (.read rq t c m n) s = .next (answer rq .format (count .serviceFormatErrors (supervisionRestart s))) := by
  have element : readElement t c m n = none := if_neg (mt (countOk_iff n).1 h)
  show request rq (readElement t c m n) s = _
  rw [element, request_format]

/-! ### Values of several fields (R159, R181) -/

/-- A table, or a tag, lists its values by index. -/
theorem toList_eq_range_map {α : Type} {n : Nat} (v : Vector α n) (d : α) :
    v.toList = (List.range n).map fun i => v[i]?.getD d := by
  apply List.ext_getElem
  · simp
  · intro i inside _
    have l : i < n := by simpa using inside
    simp [l]

theorem flagBits_eq (bits : List Bool) : flagBits bits = flagReads bits := by
  have bit : ∀ b : Bool, (if b then 1 else 0) = b.toNat := fun b => by cases b <;> rfl
  simp only [flagBits, flagReads, bit]
  rfl

theorem climateHalf_eq (unknown : Half) (v : Option Int) : climateHalf unknown v = valueReads unknown v := by
  cases v with
  | none | some => rfl

/-- R181: a ring position that is absent, and one that is not filled, read the same. -/
theorem ringHalf_eq (ring : List (Option Int)) (i : Nat) : ringHalf ring i = ringReads ring i := by
  unfold ringHalf ringReads
  cases ring[i]? with
  | none => rfl
  | some mean =>
    cases mean with
    | none | some => rfl

theorem ringPresent_eq (ring : List (Option Int)) : ringPresent ring = (ring.filterMap id).length := by
  induction ring with
  | nil => rfl
  | cons mean ring ih =>
    cases mean with
    | none => exact ih
    | some => exact congrArg (· + 1) ih

/-! ### What the fields of an entry read -/

theorem readNode_fields (n : Node) : (List.range 28).map (readNode n) = nodeReads n := by
  rw [nodeReads, toList_eq_range_map n.expectedTag 0, toList_eq_range_map n.receivedTag 0]
  rfl

theorem readPoint_fields (p : Point) : (List.range 11).map (readPoint p) = pointReads p := rfl

theorem readObject_fields (o : Obj) : (List.range 44).map (readObject o) = objectReads o := by
  simp only [objectReads, toList_eq_range_map o.tag 0, ← flagBits_eq, List.append_assoc]
  rfl

theorem readGroup_fields (g : Group) : (List.range 18).map (readGroup g) = groupReads g := by
  rw [groupReads, ← flagBits_eq]
  rfl

theorem readZone_fields (z : Zone) : (List.range 63).map (readZone z) = zoneReads z := by
  rw [zoneReads, ← flagBits_eq, ← ringPresent_eq, ← funext (ringHalf_eq z.ring), ← climateHalf_eq, ← climateHalf_eq]
  rfl

theorem readCondition_fields (c : Option Condition) : (List.range 6).map (readCondition c) = conditionReads c := by
  cases c with
  | none | some => rfl

theorem readCounter_fields (c : Counter) : (List.range 5).map (readCounter c) = counterReads c := rfl

theorem readDevice_fields (s : State) : (List.range 42).map (readDevice s) = deviceReads s := by
  have year : BitVec.ofNat 16 (if s.calendar.isSet then s.calendar.year else 0) =
      if s.calendar.isSet then halfOfNat s.calendar.year else 0 := apply_ite _ _ _ _
  rw [deviceReads, toList_eq_range_map s.device.masks false, year]
  rfl

/-! ### The descriptors (R164) -/

theorem countEnabled_eq {α : Type} {n : Nat} (enable : α → Bool) (v : Vector α n) (d : α) :
    countEnabled enable v = ((List.range n).filter fun i => enable (v[i]?.getD d)).length := by
  rw [countEnabled, toList_eq_range_map v d, List.filter_map, List.length_map]
  rfl

section enabledEntries

variable (s : State)

theorem enabledEntries_node :
    enabledEntries s .node = ((List.range 64).filter fun n => (s.node n).enable).length := countEnabled_eq _ _ _

theorem enabledEntries_point :
    enabledEntries s .point = ((List.range 192).filter fun i => (s.point i).enable).length := countEnabled_eq _ _ _

theorem enabledEntries_object :
    enabledEntries s .object = ((List.range 256).filter fun i => (s.object i).enable).length := countEnabled_eq _ _ _

theorem enabledEntries_group :
    enabledEntries s .group = ((List.range 48).filter fun g => (s.group g).enable).length := countEnabled_eq _ _ _

theorem enabledEntries_zone :
    enabledEntries s .zone = ((List.range 24).filter fun z => (s.zone z).enable).length := countEnabled_eq _ _ _

/-- R164: DEVICE entries 1 to 7 read marker, entry count, fields and enabled entries of tables 1 to 7. -/
theorem readDescriptor_fields : (List.range 7).map (fun i =>
      (List.range (fieldCount .device (i + 1))).map fun f => readField s .device ⟨i + 1, f⟩) =
    [[0x4E01, 64, 28, halfOfNat (enabledEntries s .node)], [0x4E02, 192, 11, halfOfNat (enabledEntries s .point)],
      [0x4E03, 256, 44, halfOfNat (enabledEntries s .object)], [0x4E04, 48, 18, halfOfNat (enabledEntries s .group)],
      [0x4E05, 24, 63, halfOfNat (enabledEntries s .zone)], [0x4E06, 64, 6, halfOfNat s.conditions.length],
      [0x4E07, 17, 5, 17]] := rfl

end enabledEntries

/-! ### O37 -/

/-- Settles O37: the values one by one by `readValues_succ`, the fields table by table, the request by its count. -/
theorem readAnswersItsValues : Obligations.ReadAnswersItsValues := by
  refine ⟨fun t m s => ⟨rfl, fun n => readValues_succ t m n s⟩, fun s => ?_, fun e => ?_, fun t p => ?_,
    fun rq t c m n s => ⟨exec_read rq t c m n s, exec_read_format rq t c m n s⟩⟩
  · refine ⟨readDevice_fields s, ?_, fun n _ => readNode_fields (s.node n), fun i _ => readPoint_fields (s.point i),
      fun i _ => readObject_fields (s.object i), fun g _ => readGroup_fields (s.group g),
      fun z _ => readZone_fields (s.zone z), fun i _ => readCondition_fields s.conditions[i]?, fun i => ?_⟩
    · refine (readDescriptor_fields s).trans ?_
      rw [enabledEntries_node, enabledEntries_point, enabledEntries_object, enabledEntries_group, enabledEntries_zone]
      rfl
    · have own : s.counters[i.val]?.getD factoryCounter = s.counters[i] := by simp
      rw [← own]
      exact readCounter_fields (s.counters[i.val]?.getD factoryCounter)
  · exact ⟨rfl, rfl, rfl, rfl, rfl, rfl, rfl, rfl, rfl, rfl, rfl, rfl, rfl, rfl, rfl⟩
  · exact ⟨inTable_iff t p, rfl, rfl, rfl⟩

end Sys2Proof.Machine
end

section
/-! PROOF. The start of the saves that SAVE and RESTART ask for (O50), and the end of a save (O52). -/

namespace Sys2Proof.Machine

/-! ### The start of a save (R176, R177) -/

/-- R176: the date that a save carries. -/
def saveDate (c : Calendar) : Option Date := if c.isSet then some ⟨c.year, c.day⟩ else none

theorem startSave_eq (k : SaveKind) (ofRestart : Bool) (s : State) : startSave k ofRestart s =
    { s with save := some ⟨k, firstRecord k, recordOctets s (saveDate s.calendar) (firstRecord k), 0,
        saveDate s.calendar, ofRestart, s.now + 20 * unitsPerMs⟩ } := rfl

/-- R182: a dose record holds its object. -/
theorem recordOctets_dose {s t : State} (d : Option Date) (i : Nat) (h : t.objects = s.objects) :
    recordOctets t d (.dose i) = recordOctets s d (.dose i) :=
  congrArg (fun o => withCrc (octetsOfAll (doseValues o))) (object_congr h i)

/-! ### The CALLs of SAVE and RESTART (R165 to R167) -/

/-- An accepted CALL that asks for no grant. -/
theorem call_started (rq : Requester) {c : Call} {s : State} (h : judgeCall s c = none)
    (quiet : asksGrant (supervisionRestart s) (runCall c (supervisionRestart s)) = false) :
    let r := offerOrigin ⟨rq.src, kindServiceReply, [rq.seq, statusCode (acceptedStatus c)], .reply (c == .restart)⟩
      (runCall c (supervisionRestart s))
    request rq (callElement c) s = .next (if c == .save then startSave .full false r else r) := by
  have accepted : judgeCall (supervisionRestart s) c = none := (judgeCall_supervisionRestart s c).trans h
  have element : takeElement (callElement c) 0 ⟨supervisionRestart s, [], false, false, false⟩ =
      ⟨runCall c (supervisionRestart s), [statusCode (acceptedStatus c)], c == .save, c == .restart, false⟩ := by
    simp only [callElement, takeElement, takeCall, loadCursor_none, accepted, quiet, List.nil_append, Bool.false_or]
  simp only [request, serviceRequest, takeElements, List.length_nil, element, replyFrame, grantAfter]
  rfl

section calls

variable (rq : Requester) (s : State) (idle : s.procedure.state ≠ .running)
include idle

theorem exec_save (free : s.save = none) :
    let u := answer rq .started { supervisionRestart s with
      procedure := { s.procedure with state := .running, result := 0 } }
    exec (.save rq) s = .next { u with save := some ⟨.full, .settings,
      recordOctets u (saveDate s.calendar) .settings, 0, saveDate s.calendar, false, s.now + 20 * unitsPerMs⟩ } := by
  intro u
  have accepted : judgeCall s .save = none := by simp [judgeCall, callBusy, idle, free, callInRange, callRefusal]
  have run : runCall .save (supervisionRestart s) = { supervisionRestart s with
      procedure := { s.procedure with state := .running, result := 0 } } := by
    rw [runCall, procedure_supervisionRestart]
  have calendar : u.calendar = s.calendar := (calendar_answer ..).trans (calendar_supervisionRestart s)
  have now : u.now = s.now := (now_answer ..).trans (now_supervisionRestart s)
  refine (call_started rq accepted (asksGrant_of rfl rfl rfl rfl)).trans ?_
  rw [run, ← calendar, ← now]
  rfl

theorem exec_restart : exec (.restart rq) s =
    .next (offerOrigin ⟨rq.src, kindServiceReply, [rq.seq, statusCode .started], .reply true⟩
      { supervisionRestart s with
        procedure := { s.procedure with state := .running, restart := .awaitingReply } }) := by
  have accepted : judgeCall s .restart = none := call_checked s idle .restart (by simp) rfl rfl
  have run : runCall .restart (supervisionRestart s) = { supervisionRestart s with
      procedure := { s.procedure with state := .running, restart := .awaitingReply } } := by
    rw [runCall, procedure_supervisionRestart]
  refine (call_started rq accepted (asksGrant_of rfl rfl rfl rfl)).trans ?_
  rw [run]
  rfl

end calls

/-! ### RESTART_SAVE_START (R167) -/

section restartSaveStart

variable {s : State}

theorem exec_restartSaveStart_asks (h : s.procedure.restart = .awaitingReply ∨ s.procedure.restart = .replyGone) :
    exec .restartSaveStart s = .next (askRestartSave (taken .restartSaveStart s)) := by
  show Host.Outcome.next (restartSaveStart (taken .restartSaveStart s)) = _
  rcases h with h | h
  · rw [restartSaveStart, procedure_taken, h]
  · rw [restartSaveStart, procedure_taken, h]

theorem exec_restartSaveStart_nothing (h : s.procedure.restart = .notRunning ∨ s.procedure.restart = .saveAsked) :
    exec .restartSaveStart s = .next (taken .restartSaveStart s) := by
  show Host.Outcome.next (restartSaveStart (taken .restartSaveStart s)) = _
  rcases h with h | h
  · rw [restartSaveStart, procedure_taken, h]
  · rw [restartSaveStart, procedure_taken, h]

theorem askRestartSave_starts (free : s.save = none) : askRestartSave s =
    startSave .hourly true { s with procedure := { s.procedure with restart := .saveAsked } } :=
  if_pos (Option.isNone_iff_eq_none.2 free)

theorem askRestartSave_waits (flight : s.save ≠ none) : askRestartSave s =
    { s with procedure := { s.procedure with restart := .saveAsked }, restartWaiting := true } :=
  if_neg (mt Option.isNone_iff_eq_none.1 flight)

end restartSaveStart

/-- Settles O50: the two CALLs by `call_started`, RESTART_SAVE_START by the phase of the RESTART. -/
theorem saveAndRestartStart : Obligations.SaveAndRestartStart := by
  refine ⟨fun rq s idle => ⟨exec_save rq s idle, exec_restart rq s idle⟩, fun s => ?_⟩
  intro u date
  refine ⟨fun asked => ⟨fun free => ?_, fun flight => ?_⟩, exec_restartSaveStart_nothing⟩
  · exact (exec_restartSaveStart_asks asked).trans (congrArg Host.Outcome.next (askRestartSave_starts free))
  · exact (exec_restartSaveStart_asks asked).trans (congrArg Host.Outcome.next (askRestartSave_waits flight))

/-! ### The end of a save (R166, R167, R176 to R178) -/

/-- R166: the procedure after the end of a save. -/
def procedureAfter (k : SaveKind) (state : ProcedureState) (result : Nat) (p : Procedure) : Procedure :=
  match k with
  | .hourly => p
  | .full => { p with state := state, result := result }

theorem handSaveEnd_eq (k : SaveKind) (state : ProcedureState) (result : Nat) (s : State) :
    handSaveEnd k state result s = { s with procedure := procedureAfter k state result s.procedure } := by
  cases k with
  | hourly | full => rfl

/-- R167: what follows a save that has ended in the state `u`: the reset of a RESTART, nothing, or the save of the
RESTART that waited. -/
theorem exec_afterSave {c : Instr} {v : Save} {s u : State} (run : exec c s = .next (afterSave v u))
    (objects : u.objects = s.objects) (waiting : u.restartWaiting = s.restartWaiting) :
    (v.ofRestart = true → ∃ pins, exec c s = exec (.reset pins) { u with freeCount := u.freeCount + 1 }) ∧
    (v.ofRestart = false → s.restartWaiting = false → exec c s = .next u) ∧
    (v.ofRestart = false → s.restartWaiting = true →
      ∃ t, exec c s = .next t ∧ t.restartWaiting = false ∧ t.store = u.store ∧ t.faulty = u.faulty ∧
        t.procedure = u.procedure ∧
        ∃ x, t.save = some x ∧ x.kind = .hourly ∧ x.ofRestart = true ∧ x.position = .dose 0 ∧ x.written = 0 ∧
          x.octets = recordOctets s x.date (.dose 0)) := by
  rw [run, ← waiting]
  refine ⟨fun own => ⟨freePins u, ?_⟩, fun other idle => ?_, fun other asked => ⟨_, rfl, ?_⟩⟩
  · rw [afterSave, if_pos own]
    rfl
  · rw [afterSave, other, idle]
    rfl
  · rw [afterSave, other, asked]
    exact ⟨rfl, rfl, rfl, rfl, _, rfl, rfl, rfl, rfl, rfl, recordOctets_dose _ 0 objects⟩

/-! ### PAGE_COMPLETE after the last page (R176 to R178) -/

/-- R177: IMAGE_FAULT is cleared where it has been raised and no section is faulty any more. -/
theorem clearImageFault_eq (s : State) : clearImageFault s =
    if s.faulty = [] ∧ s.imageFaultRaised = true then clear .imageFault 0 { s with imageFaultRaised := false }
    else s := by
  simp only [clearImageFault, Bool.and_eq_true, List.isEmpty_iff]

/-- The clear of IMAGE_FAULT does what reports do, and notes that the condition no longer stands. -/
theorem exceptReports_clearImageFault (s : State) :
    exceptReports { clearImageFault s with imageFaultRaised := s.imageFaultRaised } = exceptReports s := by
  rw [clearImageFault_eq]
  split
  · exact congrArg (fun t : State => { t with imageFaultRaised := s.imageFaultRaised })
      (reported_clear .imageFault 0 { s with imageFaultRaised := false }).frame
  · rfl

theorem saveSucceeded_eq (v : Save) (s : State) :
    let w := { s with save := none, faulty := faultyAfter v.kind s.faulty }
    saveSucceeded v s =
      afterSave v { clearImageFault w with procedure := procedureAfter v.kind .done 0 s.procedure } := by
  intro w
  have procedure : (clearImageFault w).procedure = s.procedure :=
    (congrArg State.procedure (exceptReports_clearImageFault w) :)
  rw [← procedure, ← handSaveEnd_eq]
  rfl

theorem pageComplete_last {s : State} {v : Save} (h : s.save = some v)
    (done : v.octets.length ≤ v.written + (pageOctets v).length)
    (last : nextRecord v.kind v.date.isSome v.position = none) :
    pageComplete s = saveSucceeded { v with written := v.written + (pageOctets v).length } (pageWritten v s) := by
  simp only [pageComplete, h, continueSave, Nat.not_lt.2 done, if_false, last]

/-- R176, R177: the last page stands in the store, and the save has succeeded. -/
theorem exec_pageComplete_last {s : State} {v : Save} (h : s.save = some v)
    (done : v.octets.length ≤ v.written + (pageOctets v).length)
    (last : nextRecord v.kind v.date.isSome v.position = none) :
    let w := { taken .pageComplete s with
      store := storeWriteAll s.store (pageAddress v) (pageOctets v)
      save := none, faulty := faultyAfter v.kind s.faulty }
    exec .pageComplete s = .next (afterSave { v with written := v.written + (pageOctets v).length }
      { clearImageFault w with procedure := procedureAfter v.kind .done 0 s.procedure }) :=
  congrArg Host.Outcome.next
    ((pageComplete_last (s := taken .pageComplete s) h done last).trans (saveSucceeded_eq _ _))

/-! ### PAGE_WRITE_TIMEOUT (R178) -/

theorem tearPage_some {s : State} {v : Save} (h : s.save = some v) : tearPage s =
    { s with
      store := storeWriteAll s.store (pageAddress v) (tornOctets (pageOctets v).length s.freeCount)
      freeCount := s.freeCount + (pageOctets v).length } := by
  rw [tearPage, h]

theorem length_tornOctets (n first : Nat) : (tornOctets n first).length = n :=
  (List.length_map _).trans List.length_range

/-- A write of octets leaves every other octet of the store. -/
theorem storeRead_storeWriteAll_outside {m : List Host.Cell} {a b : Nat} {octets : List Byte} (wf : Memory.wf m)
    (h : b < a ∨ a + octets.length ≤ b) : storeRead (storeWriteAll m a octets) b = storeRead m b := by
  rw [storeRead_storeWriteAll octets m a b wf, dif_neg (by omega)]

theorem saveFailed_eq (v : Save) (s : State) : saveFailed v s =
    afterSave v { imageFault (recordSection v.position) { tearPage s with save := none } with
      procedure := procedureAfter v.kind .failed (recordSection v.position) (tearPage s).procedure } := by
  have procedure : (imageFault (recordSection v.position) { tearPage s with save := none }).procedure =
      (tearPage s).procedure := procedure_raise ..
  rw [← procedure, ← handSaveEnd_eq]
  rfl

/-- R178: the page is torn, its section faulty, and the save has failed. -/
theorem exec_pageWriteTimeout_some {s : State} {v : Save} (h : s.save = some v) :
    let n := recordSection v.position
    let w := { taken .pageWriteTimeout s with
      store := storeWriteAll s.store (pageAddress v) (tornOctets (pageOctets v).length s.freeCount)
      freeCount := s.freeCount + (pageOctets v).length
      save := none, faulty := addFaulty n s.faulty, imageFaultRaised := true }
    exec .pageWriteTimeout s = .next (afterSave v
      { raise .imageFault 0 n w with procedure := procedureAfter v.kind .failed n s.procedure }) := by
  have failed : pageWriteTimeout (taken .pageWriteTimeout s) = saveFailed v (taken .pageWriteTimeout s) := by
    rw [pageWriteTimeout, save_taken, h]
  refine congrArg Host.Outcome.next (failed.trans ((saveFailed_eq v _).trans ?_))
  rw [tearPage_some (s := taken .pageWriteTimeout s) h]
  rfl

/-! ### O52 -/

/-- Settles O52: each end by its equation, and what follows it by `exec_afterSave`. -/
theorem savesEnd : Obligations.SavesEnd := by
  refine ⟨fun s v h => ?_, fun s v h wf => ?_⟩
  · intro a page left procedure done last w u
    have ended : { clearImageFault w with procedure := procedureAfter v.kind .done 0 s.procedure } = u := by
      rw [clearImageFault_eq]
      exact apply_ite (fun t : State => { t with procedure := procedure }) (left = [] ∧ s.imageFaultRaised = true) _ _
    have run : exec .pageComplete s = .next (afterSave { v with written := v.written + page.length } u) :=
      ended ▸ exec_pageComplete_last h done last
    have frame := exceptReports_clearImageFault w
    have freeCount : u.freeCount = s.freeCount := ended ▸ (congrArg State.freeCount frame :)
    have faulty : u.faulty = left := ended ▸ (congrArg State.faulty frame :)
    have objects : u.objects = s.objects := ended ▸ (congrArg State.objects frame :)
    have waiting : u.restartWaiting = s.restartWaiting := ended ▸ (congrArg State.restartWaiting frame :)
    obtain ⟨reset, quiet, starts⟩ := exec_afterSave run objects waiting
    rw [freeCount] at reset
    refine ⟨reset, quiet, fun other asked => ?_⟩
    obtain ⟨t, next, idle, store, sections, -, record⟩ := starts other asked
    exact ⟨t, next, idle, store, sections.trans faulty, record⟩
  · intro n procedure a
    refine ⟨storeWriteAll s.store a (tornOctets (pageOctets v).length s.freeCount), s.freeCount + (pageOctets v).length,
      fun b outside => ?_, storeWriteAll_wf _ _ _ wf, ?_⟩
    · exact storeRead_storeWriteAll_outside wf (by rwa [length_tornOctets])
    · intro faulty w u
      obtain ⟨reset, quiet, starts⟩ := exec_afterSave (u := u) (exec_pageWriteTimeout_some h)
        (objects_raise .imageFault 0 n w) (restartWaiting_raise .imageFault 0 n w)
      rw [show u.freeCount = _ from freeCount_raise .imageFault 0 n w] at reset
      refine ⟨reset, quiet, fun other asked => ?_⟩
      obtain ⟨t, next, idle, store, sections, procedure, record⟩ := starts other asked
      exact ⟨t, next, idle, store.trans (store_raise .imageFault 0 n w),
        sections.trans (faulty_raise .imageFault 0 n w), procedure, record⟩

end Sys2Proof.Machine
end

section
/-! PROOF. The state after reset and the invariants (O60). -/

namespace Sys2Proof.Machine

/-! ### The entries after reset (R173) -/

/-- In a table of blank entries every index finds a blank entry. -/
theorem entry_blank {α : Type} (n : Nat) (x : α) (i : Nat) : (Vector.replicate n x)[i]?.getD x = x := by
  rw [Vector.getElem?_replicate]
  split
  · rfl
  · rfl

@[simp] theorem node_reset (i : Nat) : State.reset.node i = factoryNode := entry_blank 64 factoryNode i
@[simp] theorem object_reset (i : Nat) : State.reset.object i = factoryObject := entry_blank 256 factoryObject i
@[simp] theorem group_reset (i : Nat) : State.reset.group i = factoryGroup := entry_blank 48 factoryGroup i
@[simp] theorem zone_reset (i : Nat) : State.reset.zone i = factoryZone := entry_blank 24 factoryZone i

/-! ### The invariants -/

theorem bounded_reset : Bounded State.reset where
  queues := ⟨by decide, by decide, by decide, List.nodup_nil⟩
  table := ⟨by decide, List.nodup_singleton _⟩
  rings i := by rw [zone_reset]; decide
  store := Memory.wf_nil

theorem ceilingsInRange_reset : CeilingsInRange State.reset := by
  intro i
  rw [object_reset]
  exact ⟨by decide, fun enabled => Bool.noConfusion enabled⟩

theorem setpointsInBand_reset : SetpointsInBand State.reset := by
  intro z
  rw [zone_reset]
  exact ⟨⟨by decide, by decide⟩, ⟨by decide, by decide⟩⟩

theorem ownAddressFree_reset : OwnAddressFree State.reset := by
  intro n enabled
  rw [node_reset] at enabled
  exact Bool.noConfusion enabled

theorem levelsInRange_reset : LevelsInRange State.reset := by
  intro g
  rw [group_reset]
  exact ⟨by decide, by decide, by decide, by decide, fun _ capped => nomatch capped⟩

/-- Settles O60: a blank entry stands at every index, and has each of them. -/
theorem resetMeetsTheInvariants : Obligations.ResetMeetsTheInvariants :=
  ⟨bounded_reset, ceilingsInRange_reset, setpointsInBand_reset, ownAddressFree_reset, levelsInRange_reset⟩

end Sys2Proof.Machine
end

section
/-! PROOF. PAGE_COMPLETE with more to come, and what the records of the image hold (O51). -/

namespace Sys2Proof.Machine

/-! ### What the records hold (R182) -/

section records

variable (s : State)

theorem settingsValues_eq : settingsValues s =
    ((deviceReads s).drop 3).take 10 ++ (deviceReads s).drop 23 ++
      s.counters.toList.map fun c => BitVec.ofNat 16 c.threshold := by
  rw [← readDevice_fields]
  rfl

theorem readNode_stored (n : Node) : nodeFields.map (readNode n) = (nodeReads n).take 13 := by
  rw [← readNode_fields]
  rfl

theorem readPoint_stored (p : Point) : pointFields.map (readPoint p) = (pointReads p).take 6 := rfl

theorem readObject_stored (o : Obj) : objectFields.map (readObject o) = (objectReads o).take 22 := by
  rw [← readObject_fields]
  rfl

theorem readGroup_stored (g : Group) : groupFields.map (readGroup g) = (groupReads g).take 11 := by
  rw [← readGroup_fields]
  rfl

theorem readZone_stored (z : Zone) :
    zoneFields.map (readZone z) = (zoneReads z).take 6 ++ ((zoneReads z).drop 8).take 16 := by
  rw [← readZone_fields]
  rfl

/-- A record that holds 16-bit values: their octets, and the CRC of them. -/
theorem recordOctets_values {d : Option Date} {r : RecordId} {values : List Half}
    (h : recordBody s d r = octetsOfAll values) :
    recordOctets s d r = values.flatMap octetsOf ++ octetsOf (crc16 (values.flatMap octetsOf)) :=
  congrArg withCrc h

end records

/-- A record is copied from the tables, the settings and the thresholds. -/
theorem recordOctets_store (s : State) (d : Option Date) (r : RecordId) (handed : List Instr) (store : List Host.Cell) :
    recordOctets { s with handed := handed, store := store } d r = recordOctets s d r := by
  cases r with
  | header | settings | node | point | object | group | zone | dose | setpoint | stamp => rfl

/-! ### The order of a save (R176, R177) -/

/-- A section of `size` records is written in index order, and then comes `first`. -/
theorem run_of_next {next : RecordId → Option RecordId} {size : Nat} {r : Nat → RecordId} {first : Option RecordId}
    (positive : 0 < size) (h : ∀ i, next (r i) = if i + 1 < size then some (r (i + 1)) else first) :
    (∀ i, i + 1 < size → next (r i) = some (r (i + 1))) ∧ next (r (size - 1)) = first := by
  refine ⟨fun i l => (h i).trans (if_pos l), (h _).trans (if_neg ?_)⟩
  omega

/-! ### PAGE_COMPLETE with more to come (R178) -/

theorem storeRead_storeWriteAll_getD {m : List Host.Cell} (wf : Memory.wf m) (a b : Nat) (octets : List Byte) :
    storeRead (storeWriteAll m a octets) b =
      if a ≤ b ∧ b - a < octets.length then octets.getD (b - a) 0 else storeRead m b := by
  rw [storeRead_storeWriteAll octets m a b wf]
  split
  · next inside => exact (List.getD_eq_getElem _ _ inside.2).symm
  · rfl

section pageComplete

variable {s : State} {v : Save} (h : s.save = some v)
include h

theorem exec_pageComplete_some : exec .pageComplete s =
    .next (continueSave { v with written := v.written + (pageOctets v).length }
      (pageWritten v (taken .pageComplete s))) := by
  show Host.Outcome.next (pageComplete (taken .pageComplete s)) = _
  rw [pageComplete, save_taken, h]

/-- The next page of the record is given. -/
theorem exec_pageComplete_page (more : v.written + (pageOctets v).length < v.octets.length) : exec .pageComplete s =
    .next { taken .pageComplete s with
      store := storeWriteAll s.store (pageAddress v) (pageOctets v)
      save := some { v with
        written := v.written + (pageOctets v).length, deadline := s.now + 20 * unitsPerMs } } := by
  rw [exec_pageComplete_some h, continueSave, if_pos more]
  rfl

/-- The next record is copied, and its first page is given. -/
theorem exec_pageComplete_record {r : RecordId} (done : v.octets.length ≤ v.written + (pageOctets v).length)
    (next : nextRecord v.kind v.date.isSome v.position = some r) : exec .pageComplete s =
    .next { taken .pageComplete s with
      store := storeWriteAll s.store (pageAddress v) (pageOctets v)
      save := some { v with
        position := r, octets := recordOctets s v.date r, written := 0, deadline := s.now + 20 * unitsPerMs } } := by
  rw [exec_pageComplete_some h, continueSave, if_neg (Nat.not_lt.2 done), ← recordOctets_store s v.date r
    (s.handed.erase .pageComplete) (storeWriteAll s.store (pageAddress v) (pageOctets v))]
  simp only [next]
  rfl

end pageComplete

/-! ### O51 -/

/-- Settles O51: the layout by the definitions, the contents by what the fields read, the course by whether the record
has another page. -/
theorem pageCompleteWritesThePage : Obligations.PageCompleteWritesThePage := by
  refine ⟨⟨rfl, rfl, rfl, fun i => ⟨rfl, rfl, rfl, rfl, rfl, rfl, rfl⟩⟩, fun s d => ?_, fun k dated => ?_,
    fun s v h wf => ?_⟩
  · intro holds marker
    have header : headerOctets = marker := by decide
    refine ⟨congrArg withCrc header, recordOctets_values s (congrArg octetsOfAll (settingsValues_eq s)),
      recordOctets_values s ?_, fun i => ⟨?_, ?_, ?_, ?_, ?_, ?_, ?_⟩⟩
    · cases d with
      | none | some => rfl
    · exact recordOctets_values s (congrArg octetsOfAll (readNode_stored (s.node i)))
    · exact recordOctets_values s (congrArg octetsOfAll (readPoint_stored (s.point i)))
    · exact recordOctets_values s (congrArg octetsOfAll (readObject_stored (s.object i)))
    · exact recordOctets_values s (congrArg octetsOfAll (readGroup_stored (s.group i)))
    · exact recordOctets_values s (congrArg octetsOfAll (readZone_stored (s.zone i)))
    · exact recordOctets_values s rfl
    · exact recordOctets_values s rfl
  · intro next last run
    have after : afterStamp k = last := by
      cases k with
      | hourly | full => rfl
    have listed {size : Nat} {r : Nat → RecordId} {first : RecordId} (positive : 0 < size)
        (h : ∀ i, next (r i) = some (if i + 1 < size then r (i + 1) else first)) : run size r (some first) :=
      run_of_next positive fun i => (h i).trans (apply_ite some _ _ _)
    refine ⟨rfl, listed (by decide) fun _ => rfl, listed (by decide) fun _ => rfl, listed (by decide) fun _ => rfl,
      listed (by decide) fun _ => rfl, listed (by decide) fun _ => rfl, listed (by decide) fun _ => rfl,
      run_of_next (by decide) fun i => ?_, after, rfl⟩
    rw [← after]
    rfl
  · intro a page done after more
    have octets (b : Nat) := storeRead_storeWriteAll_getD wf a b page
    have form : Memory.wf (storeWriteAll s.store a page) := storeWriteAll_wf _ _ _ wf
    by_cases same : done < v.octets.length
    · exact ⟨_, _, exec_pageComplete_page h same, form, octets, fun _ => rfl,
        fun finished => absurd same (Nat.not_lt.2 finished)⟩
    · obtain ⟨r, next⟩ := Option.ne_none_iff_exists'.1 (more.resolve_left same)
      refine ⟨_, _, exec_pageComplete_record h (Nat.not_lt.1 same) next, form, octets, fun yes => absurd yes same, ?_⟩
      intro _ r' next'
      obtain rfl : r = r' := Option.some.inj (next.symm.trans next')
      rfl

end Sys2Proof.Machine
end

section
/-! PROOF. A record written by a save passes its check and is read back as the values it holds; and what a dose, a
setpoint pair and the dose stamp then parse to (O54). -/

namespace Sys2Proof.Machine

/-! ### The octets of a record (R172, R182) -/

theorem halvesOf_octetsOfAll (values : List Half) : halvesOf (octetsOfAll values) = values := by
  induction values with
  | nil => rfl
  | cons v values ih =>
    show halfOf _ _ :: halvesOf (octetsOfAll values) = _
    rw [halfOf_octets, ih]

theorem length_octetsOfAll (values : List Half) : (octetsOfAll values).length = 2 * values.length := by
  induction values with
  | nil => rfl
  | cons v values ih =>
    show (octetsOfAll values).length + 1 + 1 = 2 * (values.length + 1)
    omega

theorem length_withCrc (body : List Byte) : (withCrc body).length = body.length + 2 := List.length_append

/-- R172: what was written with its CRC passes the check. -/
theorem checkedBody_written {m : List Host.Cell} (wf : Memory.wf m) {r : RecordId} {body : List Byte}
    (size : recordLength r = body.length + 2) :
    checkedBody (storeWriteAll m (recordAddress r) (withCrc body)) r = some body := by
  have octets : storeReadAll (storeWriteAll m (recordAddress r) (withCrc body)) (recordAddress r) (recordLength r) =
      withCrc body := by
    rw [size, ← length_withCrc]
    exact storeReadAll_storeWriteAll _ m _ wf
  simp only [checkedBody, octets]
  rw [size, Nat.add_sub_cancel, withCrc, List.take_left, List.drop_left, if_pos rfl]

/-- A saved record of 16-bit values is read back as these values. -/
theorem checkedValues_saved {s : State} {d : Option Date} {m : List Host.Cell} (wf : Memory.wf m) {r : RecordId}
    {values : List Half} (body : recordBody s d r = octetsOfAll values)
    (size : recordLength r = 2 * values.length + 2) :
    checkedValues (storeWriteAll m (recordAddress r) (recordOctets s d r)) r = some values := by
  rw [← length_octetsOfAll] at size
  rw [checkedValues, recordOctets, body, checkedBody_written wf size, Option.map_some, halvesOf_octetsOfAll]

/-! ### The values of fields (R159, R181) -/

theorem toNat_halfOfNat {n : Nat} (h : n < 65536) : (halfOfNat n).toNat = n := Nat.mod_eq_of_lt h

theorem toNat_halfOfInt {i : Int} (l : 0 ≤ i) (h : i < 65536) : ((halfOfInt i).toNat : Int) = i := by
  rw [halfOfInt, BitVec.toNat_ofInt]
  omega

theorem toInt_halfOfInt {i : Int} (l : -32768 ≤ i) (h : i < 32768) : (halfOfInt i).toInt = i :=
  BitVec.toInt_ofInt_eq_self (by decide) l h

/-- R159: a 32-bit value and its two halves. -/
theorem wholeOf_halves {n : Nat} (h : n ≤ 4294967295) : wholeOf (highHalf n) (lowHalf n) = n := by
  rw [wholeOf, highHalf, lowHalf, toNat_halfOfNat (by omega), toNat_halfOfNat (by omega)]
  omega

/-! ### Doses, setpoints and the stamp (R174, R182) -/

theorem parseDose_saved {o : Obj} (dose : o.dose ≤ 4294967295) (fraction : o.fraction ≤ 59)
    (remaining : o.remaining ≤ 527040) (previousYear : o.previousYear ≤ 4294967295)
    (lastRoll : o.lastRoll = 0 ∨ 1999 ≤ o.lastRoll ∧ o.lastRoll ≤ 2199) :
    parseDose (doseValues o) = some ⟨o.dose, o.fraction, o.remaining, o.previousYear, o.lastRoll⟩ := by
  have record : parseDose (doseValues o) =
      let d : DoseRecord := ⟨wholeOf (highHalf o.dose) (lowHalf o.dose), (halfOfNat o.fraction).toNat,
        wholeOf (highHalf o.remaining) (lowHalf o.remaining),
        wholeOf (highHalf o.previousYear) (lowHalf o.previousYear), (halfOfNat o.lastRoll).toNat⟩
      if d.fraction ≤ 59 ∧ d.remaining ≤ 527040 ∧ (d.lastRoll = 0 ∨ 1999 ≤ d.lastRoll ∧ d.lastRoll ≤ 2199) then some d
      else none := rfl
  rw [record, wholeOf_halves dose, wholeOf_halves (n := o.remaining) (by omega), wholeOf_halves previousYear,
    toNat_halfOfNat (n := o.fraction) (by omega), toNat_halfOfNat (n := o.lastRoll) (by omega)]
  exact if_pos ⟨fraction, remaining, lastRoll⟩

theorem parseSetpoints_saved {z : Zone} (rhLo : 0 ≤ z.rh.setpoint) (rhHi : z.rh.setpoint ≤ 10000)
    (tempLo : -4000 ≤ z.temp.setpoint) (tempHi : z.temp.setpoint ≤ 8500) :
    parseSetpoints (setpointValues z) = some (z.rh.setpoint, z.temp.setpoint) := by
  have rh : (((setpointValues z).getD 0 0).toNat : Int) = z.rh.setpoint := toNat_halfOfInt rhLo (by omega)
  have temp : ((setpointValues z).getD 1 0).toInt = z.temp.setpoint := toInt_halfOfInt (by omega) (by omega)
  rw [parseSetpoints, rh, temp]
  exact if_pos ⟨rhHi, tempLo, tempHi⟩

theorem yearLength_le (y : Nat) : yearLength y ≤ 366 := by
  unfold yearLength
  split
  · exact Nat.le_refl 366
  · exact Nat.le_succ 365

theorem parseStamp_saved {x : Date} (wf : x.wf = true) : parseStamp (stampValues (some x)) = some x := by
  obtain ⟨yearLo, yearHi, dayLo, dayHi⟩ := of_decide_eq_true wf
  have year : ((stampValues (some x)).getD 0 0).toNat = x.year := toNat_halfOfNat (by omega)
  have length := yearLength_le x.year
  have day : ((stampValues (some x)).getD 1 0).toNat = x.day := toNat_halfOfNat (by omega)
  rw [parseStamp, year, day]
  exact if_pos (.inr ⟨yearLo, yearHi, dayLo, dayHi⟩)

/-! ### O54 -/

/-- Settles O54: the record is read back as its values, and they parse to what was saved. -/
theorem savedDosesLoadBack : Obligations.SavedDosesLoadBack := by
  intro s m d wf
  dsimp only
  refine ⟨fun i dose fraction remaining previousYear lastRoll => ?_, fun i rhLo rhHi tempLo tempHi => ?_,
    fun x date legal => ?_⟩
  · rw [checkedValues_saved wf (values := doseValues (s.object i)) rfl rfl]
    exact parseDose_saved dose fraction remaining previousYear lastRoll
  · rw [checkedValues_saved wf (values := setpointValues (s.zone i)) rfl rfl]
    exact parseSetpoints_saved rhLo rhHi tempLo tempHi
  · subst date
    rw [checkedValues_saved wf (values := stampValues (some x)) rfl rfl]
    exact parseStamp_saved legal

end Sys2Proof.Machine
end

section
/-! PROOF. What a save writes for a node, a point and a group loads back (O53): every stored field takes what was read
from the entry. -/

namespace Sys2Proof.Machine

/-! ### A field takes the value that it reads (R159, R161, R181) -/

/-- A load puts the value of a field, and takes the record for `b`: the code is accepted and nothing had to change. -/
def Takes {α : Type} (t : TableId) (put : Nat → Half → α → α × Bool) (f : Nat) (v : Half) (a b : α) : Prop :=
  codeAccepted t ⟨0, f⟩ v = true ∧ put f v a = (b, false)

theorem loadField_of_takes {α : Type} {t : TableId} {put : Nat → Half → α → α × Bool} {f : Nat} {v : Half} {a b : α}
    (h : Takes t put f v a b) : loadField t put (some a) (f, v) = some b := by
  obtain ⟨code, stored⟩ := h
  simp only [loadField, code, stored, Bool.not_false, Bool.and_self, if_true]

/-- Where every field takes the value read from an entry, the load copies the entry field by field. `fits` is what the
fields taken so far must keep of the record in the making. -/
theorem loadFields_copies {α : Type} {t : TableId} {put : Nat → Half → α → α × Bool} {read : Nat → Half}
    {copy : Nat → α → α} {fits : α → Prop} (fields : List Nat)
    (takes : ∀ f ∈ fields, ∀ a, fits a → Takes t put f (read f) a (copy f a)) (keeps : ∀ f a, fits a → fits (copy f a))
    (base : α) (start : fits base) :
    loadFields t put fields (fields.map read) base = some (fields.foldl (fun a f => copy f a) base) := by
  induction fields generalizing base with
  | nil => rfl
  | cons f fields ih =>
    have first := loadField_of_takes (takes f List.mem_cons_self base start)
    have rest := ih (fun g m => takes g (List.mem_cons_of_mem f m)) (copy f base) (keeps f base start)
    simp only [loadFields, List.map_cons, List.zip_cons_cons, List.foldl_cons, first] at rest ⊢
    exact rest

/-- The fields of a list are taken after those of the list before it. -/
theorem loadFields_append {α : Type} {t : TableId} {put : Nat → Half → α → α × Bool} {read : Nat → Half}
    {first rest : List Nat} {base a : α} (h : loadFields t put first (first.map read) base = some a) :
    loadFields t put (first ++ rest) ((first ++ rest).map read) base =
      loadFields t put rest (rest.map read) a := by
  unfold loadFields at h ⊢
  rw [List.map_append, List.zip_append (List.length_map read).symm, List.foldl_append, h]

theorem boolHalf_beq_one (b : Bool) : (boolHalf b == 1) = b := by
  cases b with
  | false | true => rfl

theorem toNat_boolHalf_le (b : Bool) : decide ((boolHalf b).toNat ≤ 1) = true := by
  cases b with
  | false | true => rfl

theorem putNat_self {lo hi n : Nat} (l : lo ≤ n) (h : n ≤ hi) : putNat lo hi n = (n, false) := by
  have inside : clampNat lo hi n = n := by
    unfold clampNat
    omega
  rw [putNat, inside, bne_self_eq_false]

theorem putNat_halfOfNat {lo hi n : Nat} (l : lo ≤ n) (h : n ≤ hi) (w : n < 65536) :
    putNat lo hi (halfOfNat n).toNat = (n, false) := by
  rw [toNat_halfOfNat w, putNat_self l h]

theorem putInt_self {lo hi i : Int} (l : lo ≤ i) (h : i ≤ hi) : putInt lo hi i = (i, false) := by
  have inside : clampInt lo hi i = i := by
    unfold clampInt
    omega
  rw [putInt, inside, bne_self_eq_false]

/-- A number that is stored without a sign. -/
theorem putInt_toNat_halfOfInt {lo hi i : Int} (l : lo ≤ i) (h : i ≤ hi) (z : 0 ≤ i) (w : i < 65536) :
    putInt lo hi (halfOfInt i).toNat = (i, false) := by
  rw [toNat_halfOfInt z w, putInt_self l h]

/-- A number that is stored with its sign. -/
theorem putInt_toInt_halfOfInt {lo hi i : Int} (l : lo ≤ i) (h : i ≤ hi) (z : -32768 ≤ i) (w : i < 32768) :
    putInt lo hi (halfOfInt i).toInt = (i, false) := by
  rw [toInt_halfOfInt z w, putInt_self l h]

theorem putIndex_optionHalf {top : Nat} {o : Option Nat} (small : top < 65535) (h : ∀ n, o = some n → n ≤ top) :
    putIndex top (optionHalf o) = (o, false) := by
  cases o with
  | none => rfl
  | some n =>
    have l := h n rfl
    have value : (halfOfNat n).toNat = n := toNat_halfOfNat (by omega)
    have known : halfOfNat n ≠ noneHalf := fun sentinel => by
      have all : n = 65535 := value.symm.trans (congrArg BitVec.toNat sentinel)
      omega
    rw [optionHalf, putIndex, if_neg known, value, Nat.min_eq_right l, decide_eq_false (by omega)]

/-- A tag copied half by half is the tag. -/
theorem foldl_putTag {n : Nat} (t u : Vector Half n) :
    (List.range n).foldl (fun w k => putTag w k (tagHalf t k)) u = t := by
  have copied : ∀ m ≤ n, ∀ i (l : i < n), ((List.range m).foldl (fun w k => putTag w k (tagHalf t k)) u)[i] =
      if i < m then t[i] else u[i] := by
    intro m
    induction m with
    | zero => exact fun _ i l => rfl
    | succ m ih =>
      intro le i l
      have inside : m < n := le
      have half : tagHalf t m = t[m] := by rw [tagHalf, Vector.getElem?_eq_getElem inside, Option.getD_some]
      rw [List.range_succ, List.foldl_append, List.foldl_cons, List.foldl_nil, putTag, dif_pos inside, half,
        Vector.getElem_set, ih (Nat.le_of_succ_le le) i l]
      by_cases last : m = i
      · subst last
        rw [if_pos rfl, if_pos (Nat.lt_succ_self m)]
      · rw [if_neg last]
        exact if_congr (by omega) rfl rfl
  exact Vector.ext fun i l => (copied n le_rfl i l).trans (if_pos l)

/-! ### Nodes (03) -/

/-- A node with one field copied from another. -/
def copyNode (x : Node) (field : Nat) (n : Node) : Node :=
  match field with
  | 0 => { n with enable := x.enable }
  | 1 => { n with address := x.address }
  | 2 => { n with role := x.role }
  | 3 => { n with pollPeriod := x.pollPeriod }
  | 4 => { n with tagCheck := x.tagCheck }
  | f => { n with expectedTag := putTag n.expectedTag (f - 5) (tagHalf x.expectedTag (f - 5)) }

theorem takes_node {x : Node} (h : nodeLegal x) (f : Nat) (m : f ∈ nodeFields) (n : Node) :
    Takes .node putNode f (readNode x f) n (copyNode x f n) := by
  obtain ⟨addressLo, addressHi, periodLo, periodHi⟩ := h
  have address := putNat_halfOfNat addressLo addressHi (by omega)
  have period := putNat_halfOfNat periodLo periodHi (by omega)
  match f, List.mem_range.1 m with
  | 0, _ | 4, _ => exact ⟨toNat_boolHalf_le _, by simp only [putNode, readNode, copyNode, boolHalf_beq_one]⟩
  | 2, _ =>
    unfold Takes readNode copyNode
    cases x.role with
    | sensor | actuator => exact ⟨rfl, rfl⟩
  | 1, _ | 3, _ => exact ⟨rfl, by simp only [putNode, readNode, copyNode, address, period]⟩
  | 5, _ | 6, _ | 7, _ | 8, _ | 9, _ | 10, _ | 11, _ | 12, _ => exact ⟨rfl, rfl⟩

theorem copyNode_all (x : Node) : nodeFields.foldl (fun n f => copyNode x f n) factoryNode = { factoryNode with
    enable := x.enable, address := x.address, role := x.role, pollPeriod := x.pollPeriod, tagCheck := x.tagCheck,
    expectedTag := x.expectedTag } := by
  rw [← foldl_putTag x.expectedTag factoryNode.expectedTag]
  simp only [nodeFields, List.range_succ, List.range_zero, List.nil_append, List.cons_append, List.foldl_cons,
    List.foldl_nil, copyNode]

theorem parseNode_saved {x : Node} (h : nodeLegal x) : parseNode (nodeFields.map (readNode x)) = some { factoryNode with
    enable := x.enable, address := x.address, role := x.role, pollPeriod := x.pollPeriod, tagCheck := x.tagCheck,
    expectedTag := x.expectedTag, state := if x.enable then .hunting else .absent } := by
  have fields := loadFields_copies (fits := fun _ => True) nodeFields (fun f m n _ => takes_node h f m n)
    (fun _ _ => id) factoryNode trivial
  rw [parseNode, fields, copyNode_all]
  rfl

/-! ### Points (03) -/

/-- A point with one field copied from another. -/
def copyPoint (x : Point) (field : Nat) (p : Point) : Point :=
  match field with
  | 0 => { p with enable := x.enable }
  | 1 => { p with node := x.node }
  | 2 => { p with channel := x.channel }
  | 3 => { p with quantity := x.quantity }
  | 4 => { p with zone := x.zone }
  | _ => { p with forward := x.forward }

theorem takes_point {x : Point} (h : pointLegal x) (f : Nat) (m : f ∈ pointFields) (p : Point) :
    Takes .point putPoint f (readPoint x f) p (copyPoint x f p) := by
  obtain ⟨nodeTop, channelTop, zoneTop⟩ := h
  have node := putNat_halfOfNat (Nat.zero_le _) nodeTop (by omega)
  have channel := putNat_halfOfNat (Nat.zero_le _) channelTop (by omega)
  have zone := putNat_halfOfNat (Nat.zero_le _) zoneTop (by omega)
  match f, List.mem_range.1 m with
  | 0, _ | 5, _ => exact ⟨toNat_boolHalf_le _, by simp only [putPoint, readPoint, copyPoint, boolHalf_beq_one]⟩
  | 3, _ =>
    unfold Takes readPoint copyPoint
    cases x.quantity with
    | illum | uvr | temp | rh => exact ⟨rfl, rfl⟩
  | 1, _ | 2, _ | 4, _ => exact ⟨rfl, by simp only [putPoint, readPoint, copyPoint, node, channel, zone]⟩

theorem parsePoint_saved {x : Point} (h : pointLegal x) : parsePoint (pointFields.map (readPoint x)) =
    some { factoryPoint with
      enable := x.enable, node := x.node, channel := x.channel, quantity := x.quantity, zone := x.zone,
      forward := x.forward } :=
  loadFields_copies (fits := fun _ => True) pointFields (fun f m p _ => takes_point h f m p) (fun _ _ => id)
    factoryPoint trivial

/-! ### Groups (06) -/

/-- A group with one field copied from another. -/
def copyGroup (x : Group) (field : Nat) (g : Group) : Group :=
  match field with
  | 0 => { g with enable := x.enable }
  | 1 => { g with kind := x.kind }
  | 2 => { g with zone := x.zone }
  | 3 => { g with node := x.node }
  | 4 => { g with channel := x.channel }
  | 5 => { g with lo := x.lo }
  | 6 => { g with hi := x.hi }
  | 7 => { g with step := x.step }
  | 8 => { g with hold := x.hold }
  | 9 => { g with settle := x.settle }
  | _ => { g with cleaning := x.cleaning }

/-- R99: either limit of the group can be stored beside the other limit of the record in the making. -/
def limitsFit (x g : Group) : Prop := x.lo ≤ g.hi ∧ g.lo ≤ x.hi

theorem limitsFit_copyGroup {x : Group} (ordered : x.lo ≤ x.hi) (f : Nat) (g : Group) (h : limitsFit x g) :
    limitsFit x (copyGroup x f g) := by
  obtain ⟨lo, hi⟩ := h
  unfold copyGroup
  split
  case h_6 => exact ⟨lo, ordered⟩
  case h_7 => exact ⟨ordered, hi⟩
  all_goals exact ⟨lo, hi⟩

theorem takes_group {x : Group} (h : groupLegal x) (f : Nat) (m : f ∈ groupFields) (g : Group) (fits : limitsFit x g) :
    Takes .group putGroup f (readGroup x f) g (copyGroup x f g) := by
  obtain ⟨zoneTop, nodeTop, channelTop, ordered, hiTop, stepLo, stepHi, holdTop, settleLo, settleHi, cleaningTop⟩ := h
  obtain ⟨loFits, hiFits⟩ := fits
  have zone := putNat_halfOfNat (Nat.zero_le _) zoneTop (by omega)
  have node := putNat_halfOfNat (Nat.zero_le _) nodeTop (by omega)
  have channel := putNat_halfOfNat (Nat.zero_le _) channelTop (by omega)
  have lo := putNat_halfOfNat (Nat.zero_le _) loFits (by omega)
  have hi := putNat_halfOfNat hiFits hiTop (by omega)
  have step := putNat_halfOfNat stepLo stepHi (by omega)
  have hold := putNat_halfOfNat (Nat.zero_le _) holdTop (by omega)
  have settle := putNat_halfOfNat settleLo settleHi (by omega)
  have cleaning := putNat_halfOfNat (Nat.zero_le _) cleaningTop (by omega)
  match f, List.mem_range.1 m with
  | 0, _ => exact ⟨toNat_boolHalf_le _, by simp only [putGroup, readGroup, copyGroup, boolHalf_beq_one]⟩
  | 1, _ =>
    unfold Takes readGroup copyGroup
    cases x.kind with
    | lamp | shade => exact ⟨rfl, rfl⟩
  | 2, _ | 3, _ | 4, _ | 5, _ | 6, _ | 7, _ | 8, _ | 9, _ | 10, _ =>
    refine ⟨rfl, ?_⟩
    simp only [putGroup, readGroup, copyGroup, zone, node, channel, lo, hi, step, hold, settle, cleaning]

theorem parseGroup_saved {x : Group} (h : groupLegal x) : parseGroup (groupFields.map (readGroup x)) =
    some { factoryGroup with
      enable := x.enable, kind := x.kind, zone := x.zone, node := x.node, channel := x.channel, lo := x.lo, hi := x.hi,
      step := x.step, hold := x.hold, settle := x.settle, cleaning := x.cleaning, level := x.cleaning } := by
  obtain ⟨-, -, -, ordered, top, -⟩ := id h
  have fields := loadFields_copies groupFields (takes_group h) (limitsFit_copyGroup ordered) factoryGroup
    ⟨ordered.trans top, Nat.zero_le _⟩
  rw [parseGroup, fields]
  simp only [groupFields, List.range_succ, List.range_zero, List.nil_append, List.cons_append, List.foldl_cons,
    List.foldl_nil, copyGroup, Option.map_some]

end Sys2Proof.Machine
end

section
/-! PROOF. What a save writes for an object and for a zone loads back, and O53 as a whole. -/

namespace Sys2Proof.Machine

/-! ### Objects (05) -/

/-- An object with one 16-bit field copied from another. -/
def copyObject (x : Obj) (field : Nat) (o : Obj) : Obj :=
  match field with
  | 0 => { o with enable := x.enable }
  | 7 => { o with zone := x.zone }
  | 8 => { o with lightPoint := x.lightPoint }
  | 9 => { o with uvPoint := x.uvPoint }
  | 10 => { o with lampGroup := x.lampGroup }
  | 13 => { o with cmax := x.cmax }
  | 14 => { o with cfloor := x.cfloor }
  | 15 => { o with assumed := x.assumed }
  | 16 => { o with uvLimit := x.uvLimit }
  | 17 => { o with uvSlope := x.uvSlope }
  | 18 => { o with startDay := x.startDay }
  | 21 => { o with overThreshold := x.overThreshold }
  | f => { o with tag := putTag o.tag (f - 1) (tagHalf x.tag (f - 1)) }

theorem cfloor_copyObject {x : Obj} (ordered : x.cfloor ≤ x.cmax) (f : Nat) (o : Obj) (h : o.cfloor ≤ x.cmax) :
    (copyObject x f o).cfloor ≤ x.cmax := by
  unfold copyObject
  split
  case h_7 => exact ordered
  all_goals exact h

theorem cmax_copyObject {x : Obj} (ordered : x.cfloor ≤ x.cmax) (f : Nat) (o : Obj) (h : x.cfloor ≤ o.cmax) :
    x.cfloor ≤ (copyObject x f o).cmax := by
  unfold copyObject
  split
  case h_6 => exact ordered
  all_goals exact h

/-- The fields up to Cmax, and those after it: Cfloor is judged against a Cmax that is in place. -/
theorem objectNarrowFields_eq :
    objectNarrowFields = [0, 1, 2, 3, 4, 5, 6, 7, 8, 9, 10, 13] ++ [14, 15, 16, 17, 18, 21] := by decide

theorem takes_object {x : Obj} (h : objectLegal x) (f : Nat) (m : f ∈ objectNarrowFields) (o : Obj)
    (floor : f = 13 → o.cfloor ≤ x.cmax) (top : f = 14 → x.cfloor ≤ o.cmax) :
    Takes .object putObject f (readObject x f) o (copyObject x f o) := by
  obtain ⟨zoneTop, lightTop, uvTop, lampTop, -, -, cmaxLo, cmaxHi, ordered, assumedTop, limitTop, slopeTop, startLo,
    startHi, -, overTop⟩ := h
  have zone := putNat_halfOfNat (Nat.zero_le _) zoneTop (by omega)
  have light := putNat_halfOfNat (Nat.zero_le _) lightTop (by omega)
  have uv := putIndex_optionHalf (by decide) uvTop
  have lamp := putIndex_optionHalf (by decide) lampTop
  have assumed := putNat_halfOfNat (Nat.zero_le _) assumedTop (by omega)
  have limit := putNat_halfOfNat (Nat.zero_le _) limitTop (by omega)
  have slope := putNat_halfOfNat (Nat.zero_le _) slopeTop (by omega)
  have start := putNat_halfOfNat startLo startHi (by omega)
  have minutes := putNat_halfOfNat (Nat.zero_le _) overTop (by omega)
  have stored : f < 22 ∧ f ≠ 11 ∧ f ≠ 12 ∧ f ≠ 19 ∧ f ≠ 20 := by
    simpa [objectNarrowFields, objectFields, and_assoc] using m
  clear m
  match f, stored with
  | 0, _ => exact ⟨toNat_boolHalf_le _, by simp only [putObject, readObject, copyObject, boolHalf_beq_one]⟩
  | 1, _ | 2, _ | 3, _ | 4, _ | 5, _ | 6, _ => exact ⟨rfl, rfl⟩
  | 13, _ =>
    have cmax := putNat_halfOfNat (max_le cmaxLo (floor rfl)) cmaxHi (by omega)
    exact ⟨rfl, by simp only [putObject, readObject, copyObject, cmax]⟩
  | 14, _ =>
    have cfloor := putNat_halfOfNat (Nat.zero_le _) (top rfl) (by omega)
    exact ⟨rfl, by simp only [putObject, readObject, copyObject, cfloor]⟩
  | 7, _ | 8, _ | 9, _ | 10, _ | 15, _ | 16, _ | 17, _ | 18, _ | 21, _ =>
    refine ⟨rfl, ?_⟩
    simp only [putObject, readObject, copyObject, zone, light, uv, lamp, assumed, limit, slope, start, minutes]
  | 11, no | 12, no | 19, no | 20, no | f + 22, no => omega

/-- The 16-bit fields up to Cmax, loaded into a blank object. -/
theorem loadToCmax_saved {x : Obj} (h : objectLegal x) :
    let fields := [0, 1, 2, 3, 4, 5, 6, 7, 8, 9, 10, 13]
    loadFields .object putObject fields (fields.map (readObject x)) factoryObject = some { factoryObject with
      enable := x.enable, tag := x.tag, zone := x.zone, lightPoint := x.lightPoint, uvPoint := x.uvPoint,
      lampGroup := x.lampGroup, cmax := x.cmax } := by
  intro fields
  obtain ⟨-, -, -, -, -, -, -, -, ordered, -⟩ := id h
  have below : 14 ∉ fields := by decide
  have copied := loadFields_copies (fits := fun o => o.cfloor ≤ x.cmax) fields
    (fun f m o fits => takes_object h f (objectNarrowFields_eq ▸ List.mem_append_left _ m) o (fun _ => fits)
      fun e => absurd (e ▸ m) below) (cfloor_copyObject ordered) factoryObject (Nat.zero_le _)
  rw [copied, ← foldl_putTag x.tag factoryObject.tag]
  simp only [fields, List.range_succ, List.range_zero, List.nil_append, List.cons_append, List.foldl_cons,
    List.foldl_nil, copyObject]

/-- The 16-bit fields after Cmax, loaded into an object that has its Cmax. -/
theorem loadFromCfloor_saved {x o : Obj} (h : objectLegal x) (top : o.cmax = x.cmax) :
    let fields := [14, 15, 16, 17, 18, 21]
    loadFields .object putObject fields (fields.map (readObject x)) o = some { o with
      cfloor := x.cfloor, assumed := x.assumed, uvLimit := x.uvLimit, uvSlope := x.uvSlope, startDay := x.startDay,
      overThreshold := x.overThreshold } := by
  intro fields
  obtain ⟨-, -, -, -, -, -, -, -, ordered, -⟩ := id h
  have above : 13 ∉ fields := by decide
  have copied := loadFields_copies (fits := fun o => x.cfloor ≤ o.cmax) fields
    (fun f m o fits => takes_object h f (objectNarrowFields_eq ▸ List.mem_append_right _ m) o
      (fun e => absurd (e ▸ m) above) fun _ => fits) (cmax_copyObject ordered) o (top ▸ ordered)
  rw [copied]
  simp only [fields, List.foldl_cons, List.foldl_nil, copyObject]

/-- The 16-bit fields of an object, loaded. -/
theorem loadNarrow_saved {x : Obj} (h : objectLegal x) :
    loadFields .object putObject objectNarrowFields (objectNarrowFields.map (readObject x)) factoryObject =
      some { factoryObject with
        enable := x.enable, tag := x.tag, zone := x.zone, lightPoint := x.lightPoint, uvPoint := x.uvPoint,
        lampGroup := x.lampGroup, cmax := x.cmax, cfloor := x.cfloor, assumed := x.assumed, uvLimit := x.uvLimit,
        uvSlope := x.uvSlope, startDay := x.startDay, overThreshold := x.overThreshold } := by
  rw [objectNarrowFields_eq, loadFields_append (loadToCmax_saved h)]
  exact loadFromCfloor_saved h rfl

theorem putBudget_saved {x : Obj} (h : objectLegal x) (o : Obj) :
    unchanged (putBudget o (wholeOf (highHalf x.budget) (lowHalf x.budget))) = some { o with budget := x.budget } := by
  obtain ⟨-, -, -, -, lo, hi, -⟩ := h
  rw [wholeOf_halves (by omega), putBudget, putNat_self lo hi]
  rfl

theorem putPlanned_saved {x : Obj} (h : objectLegal x) (o : Obj) (fresh : o.remaining = 0) :
    unchanged (putPlanned o (wholeOf (highHalf x.planned) (lowHalf x.planned))) =
      some { o with planned := x.planned } := by
  obtain ⟨-, -, -, -, -, -, -, -, -, -, -, -, -, -, planned, -⟩ := h
  have kept : min o.remaining x.planned = o.remaining := by rw [fresh, Nat.zero_min]
  rw [wholeOf_halves (by omega), putPlanned, putNat_self (Nat.zero_le _) planned]
  exact congrArg (fun n => some { o with planned := x.planned, remaining := n }) kept

theorem parseObject_saved {x : Obj} (h : objectLegal x) : parseObject (objectFields.map (readObject x)) =
    some { factoryObject with
      enable := x.enable, tag := x.tag, zone := x.zone, lightPoint := x.lightPoint, uvPoint := x.uvPoint,
      lampGroup := x.lampGroup, budget := x.budget, cmax := x.cmax, cfloor := x.cfloor, assumed := x.assumed,
      uvLimit := x.uvLimit, uvSlope := x.uvSlope, startDay := x.startDay, planned := x.planned,
      overThreshold := x.overThreshold } := by
  have read (f : Nat) (l : f < 22) : (objectFields.map (readObject x)).getD f 0 = readObject x f := by
    simp [objectFields, l]
  have narrow : (objectNarrowFields.map fun f => (objectFields.map (readObject x)).getD f 0) =
      objectNarrowFields.map (readObject x) :=
    List.map_congr_left fun f m => read f (List.mem_range.1 (List.mem_filter.1 m).1)
  have budget (o : Obj) : unchanged (putBudget o (wholeOf (readObject x 11) (readObject x 12))) = _ :=
    putBudget_saved h o
  have planned (o : Obj) (fresh : o.remaining = 0) :
      unchanged (putPlanned o (wholeOf (readObject x 19) (readObject x 20))) = _ := putPlanned_saved h o fresh
  simp only [parseObject, narrow, loadNarrow_saved h, read 11 (by decide), read 12 (by decide), read 19 (by decide),
    read 20 (by decide), Option.bind_eq_bind, Option.bind_some, budget]
  rw [planned _ rfl]

/-! ### Zones (07) -/

/-- A zone with one field copied from another. -/
def copyZone (x : Zone) (field : Nat) (z : Zone) : Zone :=
  match field with
  | 0 => { z with enable := x.enable }
  | 1 => { z with shade := x.shade }
  | 2 => { z with openFrom := x.openFrom }
  | 3 => { z with openTo := x.openTo }
  | 4 => { z with modeSource := x.modeSource }
  | 5 => { z with forcedMode := x.forcedMode }
  | 8 => { z with rh := { z.rh with lo := x.rh.lo } }
  | 9 => { z with rh := { z.rh with hi := x.rh.hi } }
  | 10 => { z with rh := { z.rh with hysteresis := x.rh.hysteresis } }
  | 11 => { z with temp := { z.temp with lo := x.temp.lo } }
  | 12 => { z with temp := { z.temp with hi := x.temp.hi } }
  | 13 => { z with temp := { z.temp with hysteresis := x.temp.hysteresis } }
  | 14 => { z with persistence := x.persistence }
  | 15 => { z with rh := { z.rh with spike := x.rh.spike } }
  | 16 => { z with temp := { z.temp with spike := x.temp.spike } }
  | 17 => { z with driftLimit := x.driftLimit }
  | 18 => { z with rh := { z.rh with target := x.rh.target } }
  | 19 => { z with rh := { z.rh with glide := x.rh.glide } }
  | 20 => { z with temp := { z.temp with target := x.temp.target } }
  | 21 => { z with temp := { z.temp with glide := x.temp.glide } }
  | 22 => { z with airAddress := x.airAddress }
  | _ => { z with airChannel := x.airChannel }

/-- R126: either limit of a band can be stored beside the other limit of the record in the making. -/
def bandFits (x c : Climate) : Prop := x.lo ≤ c.hi ∧ c.lo ≤ x.hi

def bandsFit (x z : Zone) : Prop := bandFits x.rh z.rh ∧ bandFits x.temp z.temp

theorem bandsFit_copyZone {x : Zone} (rh : x.rh.lo ≤ x.rh.hi) (temp : x.temp.lo ≤ x.temp.hi) (f : Nat) (z : Zone)
    (h : bandsFit x z) : bandsFit x (copyZone x f z) := by
  obtain ⟨⟨rhLo, rhHi⟩, tempLo, tempHi⟩ := h
  unfold copyZone
  split
  case h_7 => exact ⟨⟨rhLo, rh⟩, tempLo, tempHi⟩
  case h_8 => exact ⟨⟨rh, rhHi⟩, tempLo, tempHi⟩
  case h_10 => exact ⟨⟨rhLo, rhHi⟩, tempLo, temp⟩
  case h_11 => exact ⟨⟨rhLo, rhHi⟩, temp, tempHi⟩
  all_goals exact ⟨⟨rhLo, rhHi⟩, tempLo, tempHi⟩

theorem takes_zone {x : Zone} (h : zoneLegal x) (f : Nat) (m : f ∈ zoneFields) (z : Zone) (fits : bandsFit x z) :
    Takes .zone putZone f (readZone x f) z (copyZone x f z) := by
  obtain ⟨shadeTop, fromTop, toTop, rh, temp, persistenceLo, persistenceHi, driftLo, driftHi, addressTop,
    channelTop⟩ := h
  obtain ⟨⟨rhLoFits, rhHiFits⟩, tLoFits, tHiFits⟩ := fits
  have shade := putIndex_optionHalf (by decide) shadeTop
  have opens := putNat_halfOfNat (Nat.zero_le _) fromTop (by omega)
  have closes := putNat_halfOfNat (Nat.zero_le _) toTop (by omega)
  have persistence := putNat_halfOfNat persistenceLo persistenceHi (by omega)
  have drift := putInt_toNat_halfOfInt driftLo driftHi (by omega) (by omega)
  have address := putNat_halfOfNat (Nat.zero_le _) addressTop (by omega)
  have channel := putNat_halfOfNat (Nat.zero_le _) channelTop (by omega)
  have stored : f < 24 ∧ f ≠ 6 ∧ f ≠ 7 := by
    rw [zoneFields, List.mem_append, List.mem_range, mem_fieldBlock] at m
    omega
  clear m
  match f, stored with
  | 0, _ => exact ⟨toNat_boolHalf_le _, by simp only [putZone, readZone, copyZone, boolHalf_beq_one]⟩
  | 4, _ =>
    unfold Takes readZone copyZone
    cases x.modeSource with
    | auto | forced => exact ⟨rfl, rfl⟩
  | 5, _ =>
    unfold Takes readZone copyZone
    cases x.forcedMode with
    | opened | closed | dark => exact ⟨rfl, rfl⟩
  | 1, _ | 2, _ | 3, _ | 14, _ | 17, _ | 22, _ | 23, _ =>
    refine ⟨rfl, ?_⟩
    simp only [putZone, readZone, copyZone, shade, opens, closes, persistence, drift, address, channel]
  | 8, _ | 9, _ | 10, _ | 15, _ | 18, _ | 19, _ =>
    obtain ⟨bottom, ordered, top, hystLo, hystHi, spikeLo, spikeHi, targetLo, targetHi, glideLo, glideHi⟩ := rh
    have lo := putInt_toNat_halfOfInt bottom rhLoFits bottom (by omega)
    have hi := putInt_toNat_halfOfInt rhHiFits top (by omega) (by omega)
    have hysteresis := putInt_toNat_halfOfInt hystLo hystHi hystLo (by omega)
    have spike := putInt_toNat_halfOfInt spikeLo spikeHi spikeLo (by omega)
    have target := putInt_toNat_halfOfInt targetLo targetHi targetLo (by omega)
    have glide := putInt_toNat_halfOfInt glideLo glideHi glideLo (by omega)
    refine ⟨rfl, ?_⟩
    simp only [putZone, putLo, putHi, readZone, copyZone, lo, hi, hysteresis, spike, target, glide]
  | 11, _ | 12, _ | 13, _ | 16, _ | 20, _ | 21, _ =>
    obtain ⟨bottom, ordered, top, hystLo, hystHi, spikeLo, spikeHi, targetLo, targetHi, glideLo, glideHi⟩ := temp
    have lo := putInt_toInt_halfOfInt bottom tLoFits (by omega) (by omega)
    have hi := putInt_toInt_halfOfInt tHiFits top (by omega) (by omega)
    have hysteresis := putInt_toNat_halfOfInt hystLo hystHi hystLo (by omega)
    have spike := putInt_toNat_halfOfInt spikeLo spikeHi spikeLo (by omega)
    have target := putInt_toInt_halfOfInt targetLo targetHi (by omega) (by omega)
    have glide := putInt_toNat_halfOfInt glideLo glideHi glideLo (by omega)
    refine ⟨rfl, ?_⟩
    simp only [putZone, putLo, putHi, readZone, copyZone, lo, hi, hysteresis, spike, target, glide]
  | 6, no | 7, no | f + 24, no => omega

theorem parseZone_saved {x : Zone} (h : zoneLegal x) : parseZone (zoneFields.map (readZone x)) =
    some { factoryZone with
      enable := x.enable, shade := x.shade, openFrom := x.openFrom, openTo := x.openTo, modeSource := x.modeSource,
      forcedMode := x.forcedMode, persistence := x.persistence, driftLimit := x.driftLimit,
      airAddress := x.airAddress, airChannel := x.airChannel
      rh := { factoryRh with
        lo := x.rh.lo, hi := x.rh.hi, hysteresis := x.rh.hysteresis, spike := x.rh.spike, target := x.rh.target,
        glide := x.rh.glide }
      temp := { factoryTemp with
        lo := x.temp.lo, hi := x.temp.hi, hysteresis := x.temp.hysteresis, spike := x.temp.spike,
        target := x.temp.target, glide := x.temp.glide } } := by
  obtain ⟨-, -, -, ⟨rhBottom, rh, rhTop, -⟩, ⟨tempBottom, temp, tempTop, -⟩, -⟩ := id h
  have fields := loadFields_copies zoneFields (takes_zone h) (bandsFit_copyZone rh temp) widestZone
    ⟨⟨rh.trans rhTop, rhBottom.trans rh⟩, temp.trans tempTop, tempBottom.trans temp⟩
  rw [parseZone, fields]
  simp only [zoneFields, List.range_succ, List.range_zero, List.map_cons, List.map_nil, List.nil_append,
    List.cons_append, List.foldl_cons, List.foldl_nil, copyZone]
  rfl

/-! ### O53 -/

/-- Settles O53: the record is read back as its values, and every field takes its value. -/
theorem savedEntriesLoadBack : Obligations.SavedEntriesLoadBack := by
  intro s m d wf
  dsimp only
  refine ⟨fun i legal => ?_, fun i legal => ?_, fun i legal => ?_, fun i legal => ?_, fun i legal => ?_⟩
  · rw [checkedValues_saved wf (r := .node i) (values := nodeFields.map (readNode (s.node i))) rfl rfl,
      Option.bind_some]
    exact parseNode_saved legal
  · rw [checkedValues_saved wf (r := .point i) (values := pointFields.map (readPoint (s.point i))) rfl rfl,
      Option.bind_some]
    exact parsePoint_saved legal
  · rw [checkedValues_saved wf (r := .group i) (values := groupFields.map (readGroup (s.group i))) rfl rfl,
      Option.bind_some]
    exact parseGroup_saved legal
  · rw [checkedValues_saved wf (r := .object i) (values := objectFields.map (readObject (s.object i))) rfl rfl,
      Option.bind_some]
    exact parseObject_saved legal
  · rw [checkedValues_saved wf (r := .zone i) (values := zoneFields.map (readZone (s.zone i))) rfl rfl,
      Option.bind_some]
    exact parseZone_saved legal

end Sys2Proof.Machine
end

section
/-! PROOF. Every step answers a next state: what a step takes, and that no command stops (O1, O3). -/

namespace Sys2Proof.Machine

/-! ### The command at the front of the queue -/

theorem step_takes_pending (s : State) (c : Instr) (rest : List Instr) (p : s.pending = c :: rest) :
    step s = exec c { s with pending := rest } := by
  simp only [step, p]

/-- Settles O1: `step` looks at the queue before anything else. -/
theorem stepRunsFrontCommand : Obligations.StepRunsFrontCommand := by
  unfold Obligations.StepRunsFrontCommand
  exact fun c rest s p => step_takes_pending s c rest p

/-! ### No command stops -/

/-- R157: a refusal by the Service Unit is a status in the reply, so the request of an element that is not taken goes on
as any other does. -/
theorem request_answers_next (rq : Requester) (e : Option Element) (s : State) : ∃ t, request rq e s = .next t :=
  ⟨serviceRequest rq [e] s, rfl⟩

/-- A command either is a request of one element, or works on the state by a function that is total. -/
theorem exec_answers_next (c : Instr) (s : State) : ∃ t, exec c s = .next t := by
  cases c with
  | read | raisedSinceRead | clearSinceRead | overflow | write | enableWrite | portEnableWrite | rateWrite
  | ownAddressWrite | supervisionWindowWrite | maskWrite | shadeGroupWrite | zoneModeWrite | tagCheckWrite | bandWrite
  | airHandlerWrite | ceilingTermsWrite | openMinutesWrite | groupLimitWrite | save | restart | doseSet | rehunt
  | capClear | clearLatched => exact request_answers_next _ _ s
  | reset | receiveCharacter | gapTimerExpiry | galleryFrame | plantFrame | presence | clock | restartSaveStart
  | plantTransmitComplete | galleryTransmitComplete | replyWindowExpiry | turnaroundEnd | pollDue | settleExpiry
  | supervisionExpiry | pointAgeSecond | minuteTick | hourRoll | dayRoll | pageComplete | pageWriteTimeout
  | loadEnd => exact ⟨_, rfl⟩

/-- Settles O3: a step takes a command, or an event handed on, or drops an event that has been put off, or lets one unit
of time pass. -/
theorem everyStepAnswersNext : Obligations.EveryStepAnswersNext := by
  unfold Obligations.EveryStepAnswersNext
  intro s
  cases p : s.pending with
  | cons c rest =>
    rw [step_takes_pending s c rest p]
    exact exec_answers_next c _
  | nil =>
    cases h : s.handed with
    | cons c rest =>
      rw [step_takes_handed s c rest p h]
      split
      · exact exec_answers_next c s
      · exact ⟨_, rfl⟩
    | nil => exact ⟨passTime s, step_passes_time s p h⟩

end Sys2Proof.Machine
end
